-- ==== Sys2Proof/Word.lean ====
section
/-! DEFINITION. Word.lean: the bit-vector types the manual treats as bits (04 R72, R75; 02 R31, R32) and sparse tables. -/

namespace Sys2Proof

/-- An instruction word, 80 bits (R72). -/
abbrev IWord := BitVec 80

/-- A scalar register value, 64 bits (R31). -/
abbrev Word := BitVec 64

/-- A byte of memory (R5). -/
abbrev Byte := BitVec 8

/-- A register number field, 6 bits wide (R85). -/
abbrev RegNo := BitVec 6

/-- A table with natural-number keys, sorted by key, that lists only the entries that differ from a
default value, so that equal tables are equal lists. -/
abbrev Tab (α : Type) := List (Nat × α)

end Sys2Proof
end

