-- ==== Sys2Proof/Config.lean ====
section
/-! DEFINITION. Config.lean: what the spec fixes for every part of this kind, and the free values: constants with no body, of which
nothing can be computed or proved (notes/assumptions name each). -/

namespace Sys2Proof.Config

/-- Free: the reference ticks by which step number n advances the clock (R3, R480: cycle counts are not modelled). -/
opaque tickStep : Nat → Nat

/-- Free: whether a level-one instruction cache still holds a line that it has fetched (R320, R321): the step's draw and the core. -/
opaque lineKept : (draw core : Nat) → Bool

/-- Free: whether an extent cache drops what a running invalidation names before an element of a vector word (R249): the step's draw and the
element. -/
opaque extDropped : (draw elem : Nat) → Bool

/-- Free: whether the race record of a sector has been spilled to its buffer's shadow area since its last access (R158): the step's draw and
the sector. -/
opaque spilled : (draw sector : Nat) → Bool

/-- Free: which of the ways that may take a line gives up its own (R251): the step's draw and the line. -/
opaque l2Victim : (draw line : Nat) → Nat

/-- Free: which value within the bound of Table 10-6 a built-in function returns off its grid, from FID and the input bits
(R225). -/
opaque sfnPick : Nat → BitVec 32 → Nat

/-- Free: whether SCALE or NSCALE inside a built-in program raises OF or UF off the grid (R224, R225). -/
opaque sfnFlags : Nat → BitVec 32 → BitVec 5

/-- Free: the result of a built-in function at an infinite input for which Table 10-6 states none (log2 and rsqrt at +∞). -/
opaque sfnInf : Nat → BitVec 32

/-- Free: which of the free indices of the buffer table Basecamp gives the aperture buffer of a VF, and what stands in that entry's fields KEY and CEIL
(R207). -/
opaque apertureAt : (vf : Nat) → Nat
opaque apertureBits : (vf : Nat) → BitVec 11

/-- Free: where Basecamp places the frame of a member, in units of 4 KiB, and the key slot under which a VF's frames are written (Table 15-3):
the spec gives no rule for either. -/
opaque frameAddr : (uid : Nat) → BitVec 28
opaque frameKey : (vf : Nat) → BitVec 7

/-- Free: byte j of a part of a context frame that Table 15-5 gives no layout for, by its offset and what the part holds (R295). -/
opaque frameByte : (offset : Nat) → (fields : List Nat) → (j : Nat) → BitVec 8

/-- Free: the partitions, after reset, whose packets the router of a die does not let out on a link (0 and 1 along X, 2 along Y), or its scale-up
ingress (3) does not let in (R193, R345), each a die, a link and a partition; a peer device (8) has an ingress too (R202). -/
opaque routers : List (Nat × Nat × Nat)

/-- Free: the peer devices that can be reached, with their distances in scale-up hops (R145, R202). -/
opaque peers : List (BitVec 14 × Nat)

/-- Free: the native form that Basecamp's translation of a GVF gives, from the bytes of the GVF; none when the translator
rejects it (R313). The header's fields and the native code stand in the list, as a code object. -/
opaque gvf : List Byte → Option (List Byte)

/-- Free: the index of the code buffer in which Basecamp places the translation of a code object for a VF, from the object's buffer and offset
(R313). -/
opaque codeBuf : (vf : Nat) → (buf : BitVec 20) → (base : Nat) → BitVec 20

/-- Free: the digest in measurement block i of die d, 1 to 4, as a reset's measuring found it (Table 19-2). -/
opaque blockDigest : (draw die i : Nat) → BitVec 512

/-- Free: the certificate chain of a die, and the public half of its identity key (R343). -/
opaque certChain : (die : Nat) → List Byte
opaque identityKey : (die : Nat) → List Byte

/-- Free: the serial number read from a stack, and the delays and the reference voltage that a training finds for a lane (R272). -/
opaque serial : (stack : Nat) → BitVec 128
opaque laneDelays : (draw stack lane : Nat) → BitVec 24

/-- Free: how many pseudo-channels of a stack fail the pattern test of a warm reset, which lanes are theirs, how a full training ends, and the
temperature of a die at a training (R273). -/
opaque retrains : (draw stack : Nat) → Nat
opaque retrained : (draw stack lane : Nat) → Bool
opaque trainOk : (draw stack : Nat) → Bool
opaque trainTemp : (draw stack : Nat) → BitVec 16

/-- The device stamp (R312). -/
def stamp : BitVec 128 := 0x9D4107C25E38A6F01B7DC4E92A6358D1

/-- Bytes of die scratch that one way of WAYSPLIT gives a die (R251): 4 MiB on an M-die, 16 MiB on a B-die. -/
def wayBytes (d : Nat) : Nat := if d < 4 then 4194304 else 16777216

end Sys2Proof.Config
end

