-- ==== Sys2Proof/Machine/Num.lean ====
section
/-! DEFINITION. Machine/Num.lean: number formats, exact values, rounding, conversions and the shared-exponent family
(03 R53 to R67). An exact value is a dyadic number; a quotient or a root carries a sticky bit for the part below its last
kept bit. Rounding happens once, in roundFloat. -/

namespace Sys2Proof.Machine

/-- Element types, the type tags 0 to 11 of Table 2-3. -/
inductive Ety where
  | invalid | fp32 | bf16 | fp16 | e4m3 | e5m2 | i8 | i16 | i32 | se2 | se4 | se7
  deriving DecidableEq, Repr

/-- Table 2-3, tag to type; tags 12 to 15 are reserved and never appear in a register. -/
def Ety.ofTag : Nat → Ety
  | 1 => .fp32 | 2 => .bf16 | 3 => .fp16 | 4 => .e4m3 | 5 => .e5m2 | 6 => .i8 | 7 => .i16 | 8 => .i32
  | 9 => .se2 | 10 => .se4 | 11 => .se7 | _ => .invalid

/-- Table 2-3, type to tag. -/
def Ety.tag : Ety → Nat
  | .invalid => 0 | .fp32 => 1 | .bf16 => 2 | .fp16 => 3 | .e4m3 => 4 | .e5m2 => 5 | .i8 => 6 | .i16 => 7 | .i32 => 8
  | .se2 => 9 | .se4 => 10 | .se7 => 11

/-- Element width in bits; an SE element occupies an 8-bit slot (R37). INVALID has none; 32 stands for it. -/
def Ety.width : Ety → Nat
  | .invalid | .fp32 | .i32 => 32
  | .bf16 | .fp16 | .i16 => 16
  | .e4m3 | .e5m2 | .i8 | .se2 | .se4 | .se7 => 8

def Ety.isFloat : Ety → Bool
  | .fp32 | .bf16 | .fp16 | .e4m3 | .e5m2 => true
  | _ => false

def Ety.isInt : Ety → Bool
  | .i8 | .i16 | .i32 => true
  | _ => false

def Ety.isSE : Ety → Bool
  | .se2 | .se4 | .se7 => true
  | _ => false

/-- Tags 1 to 8. -/
def Ety.isPlain (t : Ety) : Bool := t.isFloat || t.isInt

/-- The narrow formats of R61. -/
def Ety.isNarrow : Ety → Bool
  | .fp16 | .e4m3 | .e5m2 | .se2 | .se4 | .se7 => true
  | _ => false

/-- The magnitude width k of an SE type (R56). -/
def Ety.seBits : Ety → Nat
  | .se2 => 2 | .se4 => 4 | .se7 => 7 | _ => 0

/-- Sticky flags in the bit order of VFLAGS (Table 2-6): NV 4, DZ 3, OF 2, UF 1, NX 0. -/
abbrev Flags := BitVec 5

def fNone : Flags := 0
def fNV : Flags := 0x10
def fDZ : Flags := 0x08
def fOF : Flags := 0x04
def fUF : Flags := 0x02
def fNX : Flags := 0x01

/-- An exact value (R97): NaN, an infinity, or ±m × 2^e; when sticky is true the magnitude lies strictly between
m × 2^e and (m + 1) × 2^e. -/
inductive Exact where
  | nan
  | inf (neg : Bool)
  | fin (neg : Bool) (m : Nat) (e : Int) (sticky : Bool)
  deriving DecidableEq, Repr

/-- Number of bits of a natural number. -/
def bitLen (m : Nat) : Nat := if m = 0 then 0 else Nat.log2 m + 1

/-- A floating-point format of Table 3-1: exponent and fraction widths, bias, largest finite code, whether it has infinities. -/
structure FFmt where
  ebits : Nat
  fbits : Nat
  bias : Int
  maxCode : Nat
  hasInf : Bool
  nanCode : Nat
  deriving DecidableEq, Repr

/-- Table 3-1 and the canonical NaNs of R54. The integer and SE types have no such format; FP32 stands for them. -/
def Ety.fmt : Ety → FFmt
  | .bf16 => ⟨8, 7, 127, 0x7F7F, true, 0x7FC0⟩
  | .fp16 => ⟨5, 10, 15, 0x7BFF, true, 0x7E00⟩
  | .e4m3 => ⟨4, 3, 7, 0x7E, false, 0x7F⟩
  | .e5m2 => ⟨5, 2, 15, 0x7B, true, 0x7E⟩
  | _ => ⟨8, 23, 127, 0x7F7FFFFF, true, 0x7FC00000⟩

/-- The sign bit's weight. -/
def FFmt.signWeight (f : FFmt) : Nat := 2 ^ (f.ebits + f.fbits)

/-- The code of +∞; formats without infinities have none. -/
def FFmt.infCode (f : FFmt) : Nat := f.maxCode + 1

/-- R53: the value of a bit pattern. -/
def FFmt.decode (f : FFmt) (bits : Nat) : Exact :=
  let neg := bits / f.signWeight % 2 == 1
  let mag := bits % f.signWeight
  let ex := mag / 2 ^ f.fbits
  let fr := mag % 2 ^ f.fbits
  if mag > f.maxCode then
    if f.hasInf && mag == f.infCode then .inf neg else .nan
  else if ex == 0 then .fin neg fr (1 - f.bias - f.fbits) false
  else .fin neg (2 ^ f.fbits + fr) ((ex : Int) - f.bias - f.fbits) false

/-- A bit pattern that encodes a subnormal value (R53). -/
def FFmt.isSubnormal (f : FFmt) (bits : Nat) : Bool :=
  let mag := bits % f.signWeight
  mag / 2 ^ f.fbits == 0 && mag % 2 ^ f.fbits != 0

/-- R67: FTZI replaces a subnormal input with a zero of its sign. -/
def FFmt.decodeFtz (f : FFmt) (ftzi : Bool) (bits : Nat) : Exact :=
  if ftzi && f.isSubnormal bits then .fin (bits / f.signWeight % 2 == 1) 0 0 false else f.decode bits

/-- Two's-complement value of a w-bit pattern (R55). -/
def sintOf (w bits : Nat) : Int :=
  let b := bits % 2 ^ w
  if b < 2 ^ (w - 1) then (b : Int) else (b : Int) - 2 ^ w

/-- The w-bit pattern of an integer, modulo 2^w (R55). -/
def bitsOfInt (w : Nat) (v : Int) : Nat := (v % (2 ^ w : Nat)).toNat

/-- R55: an integer result wraps (SAT = 0) or saturates (SAT = 1). -/
def intResult (w : Nat) (sat : Bool) (v : Int) : Nat :=
  if sat then
    bitsOfInt w (if v > 2 ^ (w - 1) - 1 then 2 ^ (w - 1) - 1 else if v < -(2 ^ (w - 1)) then -(2 ^ (w - 1)) else v)
  else bitsOfInt w v

/-- The exact value of an integer. -/
def Exact.ofInt (v : Int) : Exact := .fin (v < 0) v.natAbs 0 false

/-- A zero of the given sign. -/
def Exact.zero (neg : Bool) : Exact := .fin neg 0 0 false

def Exact.isNan : Exact → Bool
  | .nan => true
  | _ => false

def Exact.isInf : Exact → Bool
  | .inf _ => true
  | _ => false

def Exact.isZero : Exact → Bool
  | .fin _ m _ s => m == 0 && !s
  | _ => false

def Exact.isNeg : Exact → Bool
  | .nan => false
  | .inf n => n
  | .fin n _ _ _ => n

def Exact.neg : Exact → Exact
  | .nan => .nan
  | .inf n => .inf (!n)
  | .fin n m e s => .fin (!n) m e s

def Exact.abs : Exact → Exact
  | .nan => .nan
  | .inf _ => .inf false
  | .fin _ m e s => .fin false m e s

/-- The rounding of a result: the four modes of R64, or stochastic with its draw u (R66). -/
inductive Rounding where
  | rne | rtz | rup | rdn
  | sr (u : Nat)
  deriving DecidableEq, Repr

/-- RM (R64). -/
def Rounding.ofRM (rm : BitVec 2) : Rounding :=
  if rm = 0 then .rne else if rm = 1 then .rtz else if rm = 2 then .rup else .rdn

/-- Whether a truncated magnitude is increased by one unit. q is the truncated integer; r and d give the discarded part as
r / d of a unit, plus something smaller when sticky (R64, R66). -/
def Rounding.increments (rd : Rounding) (neg : Bool) (q r d : Nat) (sticky : Bool) : Bool :=
  let inexact := r != 0 || sticky
  match rd with
  | .rne => decide (2 * r > d) || (2 * r == d && (sticky || q % 2 == 1))
  | .rtz => false
  | .rup => inexact && !neg
  | .rdn => inexact && neg
  | .sr u => decide (u < r * 2 ^ 32 / d)

/-- The magnitude m × 2^e in units of 2^q, rounded: the integer and whether it is inexact. -/
def roundMag (rd : Rounding) (neg : Bool) (m : Nat) (e : Int) (sticky : Bool) (q : Int) : Nat × Bool :=
  if q ≤ e then
    let k := m * 2 ^ (e - q).toNat
    (if rd.increments neg k 0 1 sticky then k + 1 else k, sticky)
  else
    let d := 2 ^ (q - e).toNat
    let k := m / d
    let r := m % d
    (if rd.increments neg k r d sticky then k + 1 else k, r != 0 || sticky)

/-- R62 and Table 3-3: an overflow becomes the infinity rather than the largest finite value. -/
def Rounding.overflowsToInf (rd : Rounding) (neg : Bool) : Bool :=
  match rd with
  | .rne => true
  | .sr _ => true
  | .rtz => false
  | .rup => !neg
  | .rdn => neg

/-- The code of an infinite result (R62): the infinity, or in E4M3 the canonical NaN, or ±448 with SAT. -/
def FFmt.infinite (f : FFmt) (neg sat : Bool) : Nat :=
  let sgn := if neg then f.signWeight else 0
  if f.hasInf then sgn + f.infCode
  else if sat then sgn + f.maxCode else f.nanCode

/-- The code of the magnitude k × 2^q, where q is the weight of the last place of its binade or of the subnormals. -/
def FFmt.codeOf (f : FFmt) (k : Nat) (q : Int) : Nat :=
  if k < 2 ^ f.fbits then k
  else if k < 2 ^ (f.fbits + 1) then ((q + f.fbits + f.bias).toNat) * 2 ^ f.fbits + (k - 2 ^ f.fbits)
  else ((q + 1 + f.fbits + f.bias).toNat) * 2 ^ f.fbits

/-- R60 steps 4 to 6 and R62 to R67: one rounding of an exact value to a floating-point format. -/
def roundFloat (f : FFmt) (rd : Rounding) (sat ftzo : Bool) : Exact → Nat × Flags
  | .nan => (f.nanCode, fNone)
  | .inf neg => (f.infinite neg sat, fNone)
  | .fin neg m e sticky =>
    let sgn := if neg then f.signWeight else 0
    if m == 0 && !sticky then (sgn, fNone)
    else
      let qMin : Int := 1 - f.bias - f.fbits
      let qFree : Int := (bitLen m : Int) - 1 + e - f.fbits
      let q := if qFree < qMin then qMin else qFree
      let (k, inexact) := roundMag rd neg m e sticky q
      let code := f.codeOf k q
      if code > f.maxCode then
        let r := if sat then sgn + f.maxCode
                 else if rd.overflowsToInf neg then (if f.hasInf then sgn + f.infCode else f.nanCode)
                 else sgn + f.maxCode
        (r, fOF ||| fNX)
      else
        let kFree := (roundMag rd neg m e sticky qFree).1
        let tiny := decide (qFree < qMin) && decide (kFree < 2 ^ ((qMin - qFree).toNat + f.fbits))
        let fl : Flags := (if inexact then fNX else fNone) ||| (if inexact && tiny then fUF else fNone)
        if ftzo && f.isSubnormal code then (sgn, fUF ||| fNX ||| fl) else (sgn + code, fl)

/-- The result code of a NaN operation or of a rounded value in an integer format: R63, the conversion of a floating value. -/
def roundToInt (w : Nat) (rd : Rounding) : Exact → Nat × Flags
  | .nan => (0, fNV)
  | .inf neg => (if neg then 2 ^ (w - 1) else 2 ^ (w - 1) - 1, fNV)
  | .fin neg m e sticky =>
    let (k, inexact) := roundMag rd neg m e sticky 0
    let v : Int := if neg then -(k : Int) else (k : Int)
    if v > 2 ^ (w - 1) - 1 then (2 ^ (w - 1) - 1, fNV)
    else if v < -(2 ^ (w - 1)) then (2 ^ (w - 1), fNV)
    else (bitsOfInt w v, if inexact then fNX else fNone)

/-- Compare two magnitudes a × 2^ea and b × 2^eb. -/
def cmpMag (a : Nat) (ea : Int) (b : Nat) (eb : Int) : Ordering :=
  if ea ≤ eb then compare a (b * 2 ^ (eb - ea).toNat) else compare (a * 2 ^ (ea - eb).toNat) b

/-- The order of two exact values without sticky bits; none when either is NaN; −0 equals +0. -/
def Exact.cmp : Exact → Exact → Option Ordering
  | .nan, _ => none
  | _, .nan => none
  | .inf a, .inf b => some (if a == b then .eq else if a then .lt else .gt)
  | .inf a, .fin _ _ _ _ => some (if a then .lt else .gt)
  | .fin _ _ _ _, .inf b => some (if b then .gt else .lt)
  | .fin na ma ea _, .fin nb mb eb _ =>
    if ma == 0 && mb == 0 then some .eq
    else if ma == 0 then some (if nb then .gt else .lt)
    else if mb == 0 then some (if na then .lt else .gt)
    else if na != nb then some (if na then .lt else .gt)
    else
      let c := cmpMag ma ea mb eb
      some (if na then c.swap else c)

/-- The sign of an exact zero sum of operands of opposite sign: −0 under RDN, +0 otherwise (R54). -/
def Rounding.zeroSumNeg : Rounding → Bool
  | .rdn => true
  | _ => false

/-- The signed integer of ±m. -/
def signed (neg : Bool) (m : Nat) : Int := if neg then -(m : Int) else (m : Int)

/-- Exact sum (R64); ∞ − ∞ is NaN with NV; the sign of an exact zero by R54. -/
def Exact.add (rd : Rounding) : Exact → Exact → Exact × Flags
  | .nan, _ => (.nan, fNone)
  | _, .nan => (.nan, fNone)
  | .inf a, .inf b => if a == b then (.inf a, fNone) else (.nan, fNV)
  | .inf a, .fin _ _ _ _ => (.inf a, fNone)
  | .fin _ _ _ _, .inf b => (.inf b, fNone)
  | .fin na ma ea sa, .fin nb mb eb sb =>
    let e := if ea ≤ eb then ea else eb
    let v := signed na (ma * 2 ^ (ea - e).toNat) + signed nb (mb * 2 ^ (eb - e).toNat)
    if v == 0 then (.fin (if na == nb then na else rd.zeroSumNeg) 0 0 false, fNone)
    else (.fin (v < 0) v.natAbs e (sa || sb), fNone)

/-- Exact product; 0 × ∞ is NaN with NV (R54). -/
def Exact.mul : Exact → Exact → Exact × Flags
  | .nan, _ => (.nan, fNone)
  | _, .nan => (.nan, fNone)
  | .inf a, y => if y.isZero then (.nan, fNV) else (.inf (a != y.isNeg), fNone)
  | x, .inf b => if x.isZero then (.nan, fNV) else (.inf (x.isNeg != b), fNone)
  | .fin na ma ea _, .fin nb mb eb _ => (.fin (na != nb) (ma * mb) (ea + eb) false, fNone)

/-- Exact x·y + z before its one rounding; 0 × ∞ sets NV even when z is NaN (R452). -/
def Exact.fma (rd : Rounding) (x y z : Exact) : Exact × Flags :=
  let (p, f1) := x.mul y
  if p.isNan then (.nan, f1)
  else
    let (s, f2) := p.add rd z
    (s, f1 ||| f2)

/-- Quotient to at least 64 bits and a sticky bit; 0 / 0 and ∞ / ∞ set NV, a finite non-zero value by ±0 sets DZ (R54). -/
def Exact.div : Exact → Exact → Exact × Flags
  | .nan, _ => (.nan, fNone)
  | _, .nan => (.nan, fNone)
  | .inf _, .inf _ => (.nan, fNV)
  | .inf a, .fin nb _ _ _ => (.inf (a != nb), fNone)
  | .fin na _ _ _, .inf b => (Exact.zero (na != b), fNone)
  | .fin na ma ea _, .fin nb mb eb _ =>
    if mb == 0 then
      if ma == 0 then (.nan, fNV) else (.inf (na != nb), fDZ)
    else if ma == 0 then (Exact.zero (na != nb), fNone)
    else
      let k := 64 + bitLen mb
      let n := ma * 2 ^ k
      (.fin (na != nb) (n / mb) (ea - eb - k) (n % mb != 0), fNone)

/-- Integer square root by bits, from bit b down. -/
def isqrtAux (n : Nat) : Nat → Nat → Nat
  | 0, r => r
  | b + 1, r =>
    let t := r + 2 ^ b
    isqrtAux n b (if t * t ≤ n then t else r)

/-- floor(√n). -/
def isqrt (n : Nat) : Nat := isqrtAux n (bitLen n / 2 + 1) 0

/-- Root to at least 64 bits and a sticky bit; √−0 is −0, the root of a value below −0 is NaN with NV (R54, R461). -/
def Exact.sqrt : Exact → Exact × Flags
  | .nan => (.nan, fNone)
  | .inf neg => if neg then (.nan, fNV) else (.inf false, fNone)
  | .fin neg m e _ =>
    if m == 0 then (Exact.zero neg, fNone)
    else if neg then (.nan, fNV)
    else
      let k : Nat := 128 + (if (e + 128) % 2 == 0 then 0 else 1)
      let n := m * 2 ^ k
      let r := isqrt n
      (.fin false r ((e - k) / 2) (r * r != n), fNone)

/-- The bound of R61: the magnitude of an FP32 bound, a NaN counting as +∞; none means no clamp. -/
def clampBound (bits : BitVec 32) : Exact :=
  match Ety.fp32.fmt.decode bits.toNat with
  | .nan => .inf false
  | x => x.abs

/-- R61: the clamp of a value entering a narrow format. -/
def clampNarrow (t : Ety) (bound : Exact) (x : Exact) : Exact × Flags :=
  let b := if t.isSE then bound
           else
             let lim := t.fmt.decode t.fmt.maxCode
             match bound.cmp lim with
             | some .gt => lim
             | _ => bound
  match x with
  | .nan => (.nan, fNone)
  | .inf neg => if b.isInf then (.inf neg, fNone) else (if neg then b.neg else b, fNone)
  | .fin neg _ _ _ =>
    match x.abs.cmp b with
    | some .gt => (if neg then b.neg else b, fOF ||| fNX)
    | _ => (x, fNone)

/-- R60: the encoding of an exact value in a plain type (tags 1 to 8), with the clamp of R61 when a bound is given. A value
entering an integer type follows R63. -/
def roundTo (t : Ety) (rd : Rounding) (sat ftzo : Bool) (bound : Option Exact) (x : Exact) : Nat × Flags :=
  if t.isInt then roundToInt t.width rd x
  else
    match bound with
    | some b =>
      if t.isNarrow then
        let (y, f1) := clampNarrow t b x
        let (r, f2) := roundFloat t.fmt rd sat ftzo y
        (r, f1 ||| f2)
      else roundFloat t.fmt rd sat ftzo x
    | none => roundFloat t.fmt rd sat ftzo x

/-- The value of a plain element (tags 1 to 8) under its type. -/
def elemValue (t : Ety) (ftzi : Bool) (bits : Nat) : Exact :=
  if t.isInt then Exact.ofInt (sintOf t.width bits) else t.fmt.decodeFtz ftzi bits

/-! ### The shared-exponent family -/

/-- E, F and the pair bits of a block scale (Table 3-2). -/
def scaleE (s : BitVec 20) : Nat := (s.extractLsb' 12 8).toNat
def scaleF (s : BitVec 20) : Nat := (s.extractLsb' 8 4).toNat
def scaleQ (s : BitVec 20) (p : Nat) : Nat := if s.getLsbD p then 1 else 0

/-- R56: the value of element i of a block from its byte slot (sign bit 7, magnitude k − 1:0). -/
def seValue (t : Ety) (scale : BitVec 20) (i : Nat) (slot : Nat) : Exact :=
  let neg := slot / 128 % 2 == 1
  let m := slot % 2 ^ t.seBits
  let ex := scaleE scale
  if ex == 0 then Exact.zero neg
  else if ex == 255 then .nan
  else
    .fin neg (m * (16 + scaleF scale)) ((ex : Int) - 127 - scaleQ scale (i / 2) - ((t.seBits : Int) - 1) - 4) false

/-- floor(log2) of a non-zero magnitude. -/
def magLog2 (m : Nat) (e : Int) : Int := (bitLen m : Int) - 1 + e

/-- R(F) of R57 step 5, as a magnitude and a power of two. -/
def seRange (k ex f : Nat) : Nat × Int := ((2 ^ k - 1) * (16 + f), (ex : Int) - 127 - ((k : Int) - 1) - 4)

/-- The smallest F in 0 to 15 with R(F) ≥ amax (R57 step 5). -/
def seChooseF (k ex : Nat) (am : Nat) (ae : Int) : Nat → Nat → Nat
  | 0, f => f
  | n + 1, f =>
    let (rm, re) := seRange k ex f
    if cmpMag rm re am ae == .lt then seChooseF k ex am ae n (f + 1) else f

/-- The magnitude and exponent of a finite value; infinities and NaNs give zero. -/
def Exact.magParts : Exact → Nat × Int
  | .fin _ m e _ => (m, e)
  | _ => (0, 0)

/-- A block: the 20-bit scale and 16 byte slots. -/
structure SeBlock where
  scale : BitVec 20
  slots : List Nat
  deriving DecidableEq, Repr

/-- R57 step 7: one element's magnitude, with its flags. -/
def seQuantise (k ex f q : Nat) (rd : Rounding) (neg : Bool) (m : Nat) (e : Int) : Nat × Flags :=
  let unitExp : Int := (ex : Int) - 127 - q - ((k : Int) - 1)
  -- |x| / (2^unitExp × (16 + F) / 16) = m × 2^(e − unitExp + 4) / (16 + F)
  let sh := e - unitExp + 4
  let num := if sh ≥ 0 then m * 2 ^ sh.toNat else m
  let den := if sh ≥ 0 then 16 + f else (16 + f) * 2 ^ (-sh).toNat
  let t := num / den
  let r := num % den
  let v := if rd.increments neg t r den false then t + 1 else t
  let v' := if v > 2 ^ k - 1 then 2 ^ k - 1 else v
  let inexact := r != 0 || v' != v
  let fl : Flags := (if inexact then fNX else fNone) ||| (if m != 0 && v' == 0 then fUF ||| fNX else fNone)
  (v', fl)

/-- R57 steps 3 to 7 on 16 clamped inputs; rds gives each element's rounding (RNE, or stochastic under VCVT.sr). -/
def seEncode (t : Ety) (xs : List Exact) (rds : List Rounding) : SeBlock × Flags :=
  let k := t.seBits
  if xs.any Exact.isNan then (⟨0xFF000, List.replicate 16 0⟩, fNone)
  else if xs.any Exact.isInf then (⟨0xFF000, List.replicate 16 0⟩, fNV)
  else
    let amax := xs.foldl (fun a x => if a.cmp x.abs == some .lt then x.abs else a) (Exact.zero false)
    if amax.isZero then (⟨0, xs.map (fun x => if x.isNeg then 128 else 0)⟩, fNone)
    else
      let (am, ae) := amax.magParts
      let e := magLog2 am ae
      let ex : Nat := if e + 127 < 1 then 1 else if e + 127 > 254 then 254 else (e + 127).toNat
      let f := seChooseF k ex am ae 15 0
      let (rm, re) := seRange k ex f
      let small : Exact → Bool := fun x => let (m, ee) := x.magParts; m == 0 || cmpMag m ee rm (re - 1) == .lt
      let qs : List Nat := (List.range 8).map fun p =>
        if small ((xs[2 * p]?).getD (Exact.zero false)) && small ((xs[2 * p + 1]?).getD (Exact.zero false)) then 1 else 0
      let qbits : Nat := (List.range 8).foldl (fun a p => a + (qs[p]?).getD 0 * 2 ^ p) 0
      let scale : BitVec 20 := BitVec.ofNat 20 (ex * 4096 + f * 256 + qbits)
      let els := (List.range 16).map fun i =>
        let x := (xs[i]?).getD (Exact.zero false)
        let (m, ee) := x.magParts
        let (v, fl) := seQuantise k ex f ((qs[i / 2]?).getD 0) ((rds[i]?).getD .rne) x.isNeg m ee
        ((if x.isNeg then 128 else 0) + v, fl)
      (⟨scale, els.map (·.1)⟩, els.foldl (fun a p => a ||| p.2) fNone)

/-- R66: one step of a stochastic-rounding generator. -/
def srStep (x : BitVec 32) : BitVec 32 :=
  let x := x ^^^ (x <<< 13)
  let x := x ^^^ (x >>> 17)
  x ^^^ (x <<< 5)

/-- R66: the generator state of lane L that SRSEED sets. -/
def srInit (seed : BitVec 32) (l : Nat) : BitVec 32 :=
  let g := seed ^^^ BitVec.ofNat 32 l
  if g = 0 then 0x6D2B79F5 else g

/-! ### The pairwise tree -/

/-- One level of R69: element 2j with 2j + 1, an odd final element passing up. -/
def treeLevel {α β : Type} (comb : α → α → α × β) (merge : β → β → β) : List α → β → List α × β
  | a :: b :: l, f =>
    let (c, f1) := comb a b
    let (r, f2) := treeLevel comb merge l (merge f f1)
    (c :: r, f2)
  | l, f => (l, f)

/-- R69: the tree over a list, with fuel at least the number of levels. -/
def treeReduce {α β : Type} (comb : α → α → α × β) (merge : β → β → β) : Nat → List α → β → List α × β
  | 0, l, f => (l, f)
  | n + 1, l, f =>
    match l with
    | [] => (l, f)
    | [_] => (l, f)
    | _ =>
      let (l', f') := treeLevel comb merge l f
      treeReduce comb merge n l' f'

/-- R69 on exact values: each sum rounded by rnd. The empty list gives none. -/
def treeSum {α : Type} (comb : α → α → α × Flags) (l : List α) : Option α × Flags :=
  let (r, f) := treeReduce comb (· ||| ·) 14 l fNone
  (r.head?, f)

/-- FP32 addition by RNE, as AMO .fadd32 makes it (R355): subnormals kept, canonical NaN. -/
def fadd32 (a b : BitVec 32) : BitVec 32 :=
  let x := Ety.fp32.fmt.decode a.toNat
  let y := Ety.fp32.fmt.decode b.toNat
  BitVec.ofNat 32 (roundFloat Ety.fp32.fmt .rne false false (x.add .rne y).1).1

end Sys2Proof.Machine
end

