-- ==== Sys2Proof/Machine/Tab.lean ====
section
/-! DEFINITION. Machine/Tab.lean: sparse tables with natural-number keys, and bit fields of bit vectors. A table is a list
sorted by key; put and del keep it sorted; set removes an entry that equals the default, so that equal tables are equal lists. -/

namespace Sys2Proof.Machine

/-- The entry of key k. -/
def tabFind {α : Type} (k : Nat) : Tab α → Option α
  | [] => none
  | (j, v) :: l => if j = k then some v else tabFind k l

/-- The entry of key k, or the default of the table. -/
def tabGet {α : Type} (d : α) (t : Tab α) (k : Nat) : α := (tabFind k t).getD d

/-- The table with v at key k. -/
def tabPut {α : Type} (k : Nat) (v : α) : Tab α → Tab α
  | [] => [(k, v)]
  | (j, w) :: l => if j = k then (k, v) :: l else if k < j then (k, v) :: (j, w) :: l else (j, w) :: tabPut k v l

/-- The table without key k. -/
def tabDel {α : Type} (k : Nat) : Tab α → Tab α
  | [] => []
  | (j, w) :: l => if j = k then tabDel k l else (j, w) :: tabDel k l

/-- The table with v at key k, where an entry equal to the default d is not listed. -/
def tabSet {α : Type} [DecidableEq α] (d : α) (k : Nat) (v : α) (t : Tab α) : Tab α :=
  if v = d then tabDel k t else tabPut k v t

/-- Keys strictly rising, all above a bound. -/
def tabSorted {α : Type} : Option Nat → Tab α → Bool
  | _, [] => true
  | b, (k, _) :: l => (match b with | none => true | some j => decide (j < k)) && tabSorted (some k) l

/-- Bits pos to pos + w − 1 of a bit vector, as a number. -/
def getBits {n : Nat} (x : BitVec n) (pos w : Nat) : Nat := (x.extractLsb' pos w).toNat

/-- A bit vector with bits pos to pos + w − 1 replaced by v. -/
def setBits {n : Nat} (x : BitVec n) (pos w v : Nat) : BitVec n :=
  (x &&& ~~~((BitVec.allOnes w).setWidth n <<< pos)) ||| ((BitVec.ofNat w v).setWidth n <<< pos)

/-- Element i of a list, or a default. -/
def nthD {α : Type} (d : α) (l : List α) (i : Nat) : α := (l[i]?).getD d

/-- The bytes of a number, least significant first (R5). -/
def bytesOf : Nat → Nat → List Byte
  | 0, _ => []
  | n + 1, v => BitVec.ofNat 8 v :: bytesOf n (v / 256)

/-- The number that bytes hold, least significant first (R5). -/
def numOf : List Byte → Nat
  | [] => 0
  | b :: l => b.toNat + 256 * numOf l

/-- Numbers k, k + 1, … of a given count. -/
def countFrom (k n : Nat) : List Nat := (List.range n).map (· + k)

end Sys2Proof.Machine
end

