-- ==== Sys2Proof/Syntax.lean ====
section
/-! DEFINITION. Syntax.lean: every row of the table of operations and events as a constructor of Instr.
A word form carries the common header (Table 4-1) and the fields of its body format (Tables 4-2 to 4-11),
the zero fields among them, so that no bit of a word is dropped; WellFormed says which values are legal.
A device event carries the unit, packet, slot or register it names. -/

namespace Sys2Proof

/-- The common header, word bits 71:57 (Table 4-1, R75). -/
structure Hdr where
  pd  : BitVec 3
  ta  : BitVec 4
  tc0 : BitVec 4
  tc1 : BitVec 4
  deriving DecidableEq, Repr

/-- Format A (Table 4-2, R86). -/
structure FmtA where
  d    : BitVec 6
  a    : BitVec 6
  b    : BitVec 6
  e    : BitVec 6
  cond : BitVec 4
  z    : BitVec 29
  deriving DecidableEq, Repr

/-- Format B (Table 4-3, R87). -/
structure FmtB where
  d    : BitVec 6
  a    : BitVec 6
  cond : BitVec 4
  z    : BitVec 9
  imm  : BitVec 32
  deriving DecidableEq, Repr

/-- Format K (Table 4-4, R88). -/
structure FmtK where
  d   : BitVec 6
  z   : BitVec 3
  imm : BitVec 48
  deriving DecidableEq, Repr

/-- Format M (Table 4-5, R89). -/
structure FmtM where
  d     : BitVec 6
  c     : BitVec 6
  x     : BitVec 6
  e     : BitVec 6
  scope : BitVec 3
  ord   : BitVec 2
  bel   : BitVec 1
  far   : BitVec 1
  aop   : BitVec 4
  mask  : BitVec 3
  off   : BitVec 19
  deriving DecidableEq, Repr

/-- Format V (Table 4-6, R90). -/
structure FmtV where
  vd   : BitVec 6
  va   : BitVec 6
  vb   : BitVec 6
  vc   : BitVec 6
  mask : BitVec 3
  mz   : BitVec 1
  rm   : BitVec 2
  ftzi : BitVec 1
  ftzo : BitVec 1
  sat  : BitVec 1
  fn   : BitVec 4
  imm  : BitVec 20
  deriving DecidableEq, Repr

/-- Format J (Table 4-7, R91). B is bits 50:45; IMM10 is B and bits 44:41 together. -/
structure FmtJ where
  a    : BitVec 6
  b    : BitVec 6
  lo   : BitVec 4
  cond : BitVec 4
  z    : BitVec 5
  off  : BitVec 32
  deriving DecidableEq, Repr

/-- The loop forms of format J (Table 4-8, R91). EW is bits 15:14 of imm. -/
structure FmtL where
  a   : BitVec 6
  z0  : BitVec 3
  imm : BitVec 16
  z1  : BitVec 16
  fin : BitVec 16
  deriving DecidableEq, Repr

/-- Format Y (Table 4-10, R92). -/
structure FmtY where
  d     : BitVec 6
  a     : BitVec 6
  b     : BitVec 6
  e     : BitVec 6
  scope : BitVec 3
  fn    : BitVec 10
  imm   : BitVec 20
  deriving DecidableEq, Repr

/-- Format X of the matrix words (Table 4-11, R93); g and n hold G - 1 and N - 1. -/
structure FmtX where
  vd   : BitVec 6
  va   : BitVec 6
  vb   : BitVec 6
  g    : BitVec 6
  n    : BitVec 6
  msel : BitVec 3
  fn   : BitVec 4
  imm  : BitVec 20
  deriving DecidableEq, Repr

/-- Format X of SFN and SFLOAD (Table 4-11, Table 10-4). -/
structure FmtS where
  vd   : BitVec 6
  va   : BitVec 6
  z0   : BitVec 12
  mask : BitVec 3
  mz   : BitVec 1
  rm   : BitVec 2
  ftzi : BitVec 1
  ftzo : BitVec 1
  fid  : BitVec 5
  z1   : BitVec 20
  deriving DecidableEq, Repr

/-- Why a context was saved (Table 15-5, header byte 5). -/
inductive SaveReason where
  | preemption | pageSwap | yield | partitionChange
  deriving DecidableEq, Repr

/-- The units whose recoverable faults R347 lists. -/
inductive FaultUnit where
  | extentCache (die core : Nat)
  | mpEntryCache (die : Nat)
  | l1i (die core : Nat)
  | l1d (die core : Nat)
  | copyEngine (die : Nat)
  | mpQueue (stack : Nat)
  | baseDieQueue (stack : Nat)
  | dieLink (die link : Nat)
  deriving DecidableEq, Repr

/-- Privileged registers: those of the package block, of a die's block, of a core's block, of the slot table and of a
VF's register space (Tables 2-5a, 8-5, 8-6, 12-1, 12-5, 12-6, 12-7, 13-4, 13-5, 13-8, 15-1, 15-3, 15-8, 15-10, 19-3 to 19-5). -/
inductive PrivReg where
  | poolb (die core n : Nat)
  | pitchcfg (die n : Nat)
  | btbase | btcount
  | extinv0 | extinv1
  | keyslot | keydata (n : Nat)
  | quantum | freezeReg | pwrcap | partharn
  | vfpart (vf : Nat)
  | waysplit (die : Nat)
  | l2waymask (die vf : Nat)
  | rowact (die n : Nat)
  | rowstat (die n : Nat)
  | trainstat (die n : Nat)
  | partmap (die : Nat)
  | partlog (die p : Nat)
  | bindRec (k dword : Nat)
  | sqbase (vf q : Nat) | sqsize (vf q : Nat) | sqtail (vf q : Nat) | sqhead (vf q : Nat)
  deriving DecidableEq, Repr

/-- The items that the TDISP lock protects (Table 19-1): a register write, or a write of buffer-table or page-table words. -/
inductive ConfigChange where
  | register (r : PrivReg) (v : BitVec 64)
  | table (pa : Nat) (data : List (BitVec 64))
  deriving DecidableEq, Repr

/-- Every row of spec/opcode_table.json: the instruction words (Table 4-12), the words that are no instruction
(Table 4-14), and the device events. The parameter k is a slot index (R289), p a position among the packets in flight. -/
inductive Instr where
  | nop (h : Hdr) (b : FmtY)
  | halt (h : Hdr) (b : FmtY)
  | jmp (h : Hdr) (b : FmtJ)
  | jmpR (h : Hdr) (b : FmtJ)
  | call (h : Hdr) (b : FmtJ)
  | callR (h : Hdr) (b : FmtJ)
  | ret (h : Hdr) (b : FmtJ)
  | br (h : Hdr) (b : FmtJ)
  | brI (h : Hdr) (b : FmtJ)
  | brz (h : Hdr) (b : FmtJ)
  | brnz (h : Hdr) (b : FmtJ)
  | loop (h : Hdr) (b : FmtL)
  | loopI (h : Hdr) (b : FmtL)
  | sloop (h : Hdr) (b : FmtL)
  | trap (h : Hdr) (b : FmtY)
  | tret (h : Hdr) (b : FmtY)
  | brk (h : Hdr) (b : FmtY)
  | yield (h : Hdr) (b : FmtY)
  | csrr (h : Hdr) (b : FmtY)
  | csrw (h : Hdr) (b : FmtY)
  | csrs (h : Hdr) (b : FmtY)
  | csrc (h : Hdr) (b : FmtY)
  | locq (h : Hdr) (b : FmtY)
  | launch (h : Hdr) (b : FmtY)
  | region (h : Hdr) (b : FmtY)
  | fence (h : Hdr) (b : FmtY)
  | monitor (h : Hdr) (b : FmtY)
  | waitm (h : Hdr) (b : FmtY)
  | pause (h : Hdr) (b : FmtY)
  | add (h : Hdr) (b : FmtA)
  | addI (h : Hdr) (b : FmtB)
  | sub (h : Hdr) (b : FmtA)
  | mul (h : Hdr) (b : FmtA)
  | mulI (h : Hdr) (b : FmtB)
  | mulh (h : Hdr) (b : FmtA)
  | div (h : Hdr) (b : FmtA)
  | rem (h : Hdr) (b : FmtA)
  | and (h : Hdr) (b : FmtA)
  | andI (h : Hdr) (b : FmtB)
  | or (h : Hdr) (b : FmtA)
  | orI (h : Hdr) (b : FmtB)
  | xor (h : Hdr) (b : FmtA)
  | xorI (h : Hdr) (b : FmtB)
  | shl (h : Hdr) (b : FmtA)
  | shlI (h : Hdr) (b : FmtB)
  | shr (h : Hdr) (b : FmtA)
  | shrI (h : Hdr) (b : FmtB)
  | sar (h : Hdr) (b : FmtA)
  | sarI (h : Hdr) (b : FmtB)
  | cmp (h : Hdr) (b : FmtA)
  | cmpI (h : Hdr) (b : FmtB)
  | sel (h : Hdr) (b : FmtA)
  | li (h : Hdr) (b : FmtK)
  | lih (h : Hdr) (b : FmtK)
  | clz (h : Hdr) (b : FmtA)
  | popc (h : Hdr) (b : FmtA)
  | min (h : Hdr) (b : FmtA)
  | max (h : Hdr) (b : FmtA)
  | rotl (h : Hdr) (b : FmtA)
  | rotr (h : Hdr) (b : FmtA)
  | ldB (h : Hdr) (b : FmtM)
  | ldH (h : Hdr) (b : FmtM)
  | ldW (h : Hdr) (b : FmtM)
  | ldD (h : Hdr) (b : FmtM)
  | stB (h : Hdr) (b : FmtM)
  | stH (h : Hdr) (b : FmtM)
  | stW (h : Hdr) (b : FmtM)
  | stD (h : Hdr) (b : FmtM)
  | ldBx (h : Hdr) (b : FmtM)
  | ldHx (h : Hdr) (b : FmtM)
  | ldWx (h : Hdr) (b : FmtM)
  | ldDx (h : Hdr) (b : FmtM)
  | stBx (h : Hdr) (b : FmtM)
  | stHx (h : Hdr) (b : FmtM)
  | stWx (h : Hdr) (b : FmtM)
  | stDx (h : Hdr) (b : FmtM)
  | amoW (h : Hdr) (b : FmtM)
  | amoD (h : Hdr) (b : FmtM)
  | casW (h : Hdr) (b : FmtM)
  | casD (h : Hdr) (b : FmtM)
  | ldcap (h : Hdr) (b : FmtY)
  | cderive (h : Hdr) (b : FmtY)
  | cadd (h : Hdr) (b : FmtY)
  | caddI (h : Hdr) (b : FmtY)
  | crestrict (h : Hdr) (b : FmtY)
  | cread (h : Hdr) (b : FmtY)
  | cwb (h : Hdr) (b : FmtY)
  | pref (h : Hdr) (b : FmtM)
  | vld (h : Hdr) (b : FmtM)
  | vldS (h : Hdr) (b : FmtM)
  | vldb (h : Hdr) (b : FmtM)
  | vst (h : Hdr) (b : FmtM)
  | vstS (h : Hdr) (b : FmtM)
  | vstSStream (h : Hdr) (b : FmtM)
  | vldx (h : Hdr) (b : FmtM)
  | vstx (h : Hdr) (b : FmtM)
  | vbind (h : Hdr) (b : FmtY)
  | vunbind (h : Hdr) (b : FmtY)
  | copy (h : Hdr) (b : FmtY)
  | copyq (h : Hdr) (b : FmtY)
  | barinit (h : Hdr) (b : FmtY)
  | barrive (h : Hdr) (b : FmtY)
  | barwait (h : Hdr) (b : FmtY)
  | barsync (h : Hdr) (b : FmtY)
  | barquery (h : Hdr) (b : FmtY)
  | hbar (h : Hdr) (b : FmtY)
  | vadd (h : Hdr) (b : FmtV)
  | vaddVs (h : Hdr) (b : FmtV)
  | vsub (h : Hdr) (b : FmtV)
  | vsubVs (h : Hdr) (b : FmtV)
  | vmul (h : Hdr) (b : FmtV)
  | vmulVs (h : Hdr) (b : FmtV)
  | vfma (h : Hdr) (b : FmtV)
  | vfmaVs (h : Hdr) (b : FmtV)
  | vfms (h : Hdr) (b : FmtV)
  | vfmsVs (h : Hdr) (b : FmtV)
  | vfnma (h : Hdr) (b : FmtV)
  | vfnmaVs (h : Hdr) (b : FmtV)
  | vdiv (h : Hdr) (b : FmtV)
  | vdivVs (h : Hdr) (b : FmtV)
  | vmin (h : Hdr) (b : FmtV)
  | vminVs (h : Hdr) (b : FmtV)
  | vmax (h : Hdr) (b : FmtV)
  | vmaxVs (h : Hdr) (b : FmtV)
  | vand (h : Hdr) (b : FmtV)
  | vandVs (h : Hdr) (b : FmtV)
  | vor (h : Hdr) (b : FmtV)
  | vorVs (h : Hdr) (b : FmtV)
  | vxor (h : Hdr) (b : FmtV)
  | vxorVs (h : Hdr) (b : FmtV)
  | vshl (h : Hdr) (b : FmtV)
  | vshlVs (h : Hdr) (b : FmtV)
  | vshr (h : Hdr) (b : FmtV)
  | vshrVs (h : Hdr) (b : FmtV)
  | vshra (h : Hdr) (b : FmtV)
  | vshraVs (h : Hdr) (b : FmtV)
  | vmulh (h : Hdr) (b : FmtV)
  | vmulhVs (h : Hdr) (b : FmtV)
  | vcmp (h : Hdr) (b : FmtV)
  | vcmpVs (h : Hdr) (b : FmtV)
  | vclamp (h : Hdr) (b : FmtV)
  | vclampVs (h : Hdr) (b : FmtV)
  | vsel (h : Hdr) (b : FmtV)
  | vabs (h : Hdr) (b : FmtV)
  | vneg (h : Hdr) (b : FmtV)
  | vsqrt (h : Hdr) (b : FmtV)
  | vcvt (h : Hdr) (b : FmtV)
  | vcvtSr (h : Hdr) (b : FmtV)
  | vsplat (h : Hdr) (b : FmtV)
  | vred (h : Hdr) (b : FmtV)
  | vscan (h : Hdr) (b : FmtV)
  | vslide (h : Hdr) (b : FmtV)
  | vperm (h : Hdr) (b : FmtV)
  | vget (h : Hdr) (b : FmtV)
  | vput (h : Hdr) (b : FmtV)
  | viota (h : Hdr) (b : FmtV)
  | vdot (h : Hdr) (b : FmtV)
  | mop (h : Hdr) (b : FmtV)
  | mpop (h : Hdr) (b : FmtV)
  | vfirst (h : Hdr) (b : FmtV)
  | vsetshape (h : Hdr) (b : FmtV)
  | vsetl (h : Hdr) (b : FmtV)
  | vsetlI (h : Hdr) (b : FmtV)
  | vtag (h : Hdr) (b : FmtV)
  | vclz (h : Hdr) (b : FmtV)
  | vpopc (h : Hdr) (b : FmtV)
  | vcompress (h : Hdr) (b : FmtV)
  | vexpand (h : Hdr) (b : FmtV)
  | modeVec (h : Hdr) (b : FmtX)
  | modeWs (h : Hdr) (b : FmtX)
  | modeRs (h : Hdr) (b : FmtX)
  | mma (h : Hdr) (b : FmtX)
  | mwld (h : Hdr) (b : FmtX)
  | mdrain (h : Hdr) (b : FmtX)
  | mzero (h : Hdr) (b : FmtX)
  | rope (h : Hdr) (b : FmtX)
  | sfn (h : Hdr) (b : FmtS)
  | sfload (h : Hdr) (b : FmtS)
  | mstat (h : Hdr) (b : FmtX)
  | illegalOp (w : BitVec 80)
  | emulWindow (w : BitVec 80)
  | undefOp (w : BitVec 80)
  | tagArrival (k t : Nat)
  | drainComplete (k : Nat)
  | arrayPowerGrant (die : Nat)
  | arrayPowerDown (die core : Nat)
  | mmaFinish (k : Nat)
  | ropeTimeout (k : Nat)
  | poolMove (k : Nat)
  | l1dLineExpiry (die core line : Nat)
  | ackTimeout (r : Nat)
  | linkRead (p : Nat)
  | linkWrite (p : Nat)
  | linkAtomic (p : Nat)
  | linkInvalidate (p : Nat)
  | linkBarrierArrival (p : Nat)
  | linkBarrierRelease (p : Nat)
  | linkReadData (p : Nat)
  | linkWriteAck (p : Nat)
  | linkAtomicResult (p : Nat)
  | linkInvalidationAck (p : Nat)
  | linkRefusal (p : Nat)
  | bdRead (st i : Nat)
  | bdWrite (st i : Nat)
  | bdMaskedWrite (st i : Nat)
  | bdAtomic (st i : Nat)
  | bdDrop (st i : Nat)
  | bdTileRead (st i : Nat)
  | bdDiagnosticRead (st i : Nat)
  | bdReply (st i : Nat)
  | mpTimeout (st i : Nat)
  | backoffEnd (st pch bank : Nat)
  | refresh (st pch : Nat)
  | scrubGranule (st : Nat)
  | ceStartGrant (die : Nat)
  | copySector (k ch : Nat)
  | barrierPitch (i : Nat)
  | waitmTimeout (k : Nat)
  | waitmWake (k : Nat)
  | regionWrapResume (k : Nat)
  | watchdog (k : Nat)
  | linkGo (die link vc : Nat)
  | sqNode (vf q : Nat)
  | sqMbox (vf q : Nat)
  | nodeReady (vf : Nat) (node : BitVec 32)
  | bind (k uid : Nat)
  | dispatch (k : Nat)
  | save (k : Nat) (reason : SaveReason)
  | saveComplete (k : Nat)
  | free (k : Nat)
  | quantumExpiry (uid : Nat)
  | pageInComplete (buf off : Nat)
  | extinvBuf (v : BitVec 64)
  | extinvAll (v : BitVec 64)
  | extinvComplete
  | keyLoad (v : BitVec 64)
  | keyLoadComplete
  | keyErase (v : BitVec 64)
  | waysplitWrite (die : Nat) (v : BitVec 64)
  | vfpartWrite (vf : Nat) (v : BitVec 64)
  | partharnWrite (v : BitVec 64)
  | partitionModeChange (preempt : Bool) (maps : List (Nat × BitVec 64))
  | vfReset (vf : Nat)
  | stopInterface (vf : Nat)
  | tdispChangeRequest (vf : Nat) (ownSession : Bool) (change : ConfigChange)
  | challenge (slot : Nat)
  | getMeasurements (slot : Nat)
  | recoverableFault (u : FaultUnit)
  | freezeArm (v : BitVec 64)
  | freeze
  | debugHalt (k : Nat)
  | debugResume (k : Nat)
  | throttleStep (die : Nat)
  | throttleRaise (die : Nat)
  | coldReset
  | warmReset
  | registerWrite (r : PrivReg) (v : BitVec 64)
  | lockInterface (vf : Nat)
  | startInterface (vf : Nat)
  | keyExchange (vf : Nat)
  | ideStreamKeying (vf : Nat)
  | linkStop (die link vc : Nat)
  | sqtailWrite (vf q : Nat) (v : BitVec 64)
  | dirtyLineWriteBack (line : Nat)
  | tableEntryChange (pa : Nat) (data : List (BitVec 64))
  deriving DecidableEq, Repr

end Sys2Proof
end

