-- ==== Sys2Proof/Machine/State.lean ====
section
/-! DEFINITION. Machine/State.lean: every piece of state the spec gives the machine (02 R30 to R52; INVENTORY.md '## State' names
the rule of each). Plain data throughout. A slot holds its bind record and the loop context bound to it; State.ctx is the slot
State.cur, which a word acts on, and State.others the remaining slots. -/

namespace Sys2Proof.Machine

/-! ### Why a step stops -/

/-- The machine stops. -/
inductive Fault where
  /-- Raised by every word meaning when the slot of State.cur runs no context: the spec has no such step (R289). Safe. -/
  | noContext
  deriving DecidableEq, Repr

/-- No meaning for the instruction. -/
inductive Refusal where
  /-- Raised by an arm of Dispatch that has no meaning yet, with the mnemonic of the opcode table. Safe. -/
  | notModelled (mnemonic : String)
  deriving DecidableEq, Repr

/-! ### Traps -/

/-- Trap causes (Table 16-6). -/
inductive Cause where
  | none_ | illegalOp | illegalEnc | undefOp | emulWindow | pdFault | tagFault | noVstate | type_ | vlRange | arrayHeld
  | modeErr | loopErr | capBounds | capRights | capInvalid | misalign | page | permRemote | ackLost | deferred
  | raceWW | raceRW | raceWR | raceOvf | brk | swTrap | watchdog | emulNested | barErr | copyTmpl
  deriving DecidableEq, Repr

/-- The code of a cause (Table 16-6). -/
def Cause.code : Cause → Nat
  | .none_ => 0x00 | .illegalOp => 0x01 | .illegalEnc => 0x02 | .undefOp => 0x03 | .emulWindow => 0x04 | .pdFault => 0x05
  | .tagFault => 0x06 | .noVstate => 0x07 | .type_ => 0x08 | .vlRange => 0x09 | .arrayHeld => 0x0A | .modeErr => 0x0B
  | .loopErr => 0x0C | .capBounds => 0x10 | .capRights => 0x11 | .capInvalid => 0x12 | .misalign => 0x13 | .page => 0x14
  | .permRemote => 0x15 | .ackLost => 0x16 | .deferred => 0x17 | .raceWW => 0x18 | .raceRW => 0x19 | .raceWR => 0x1A
  | .raceOvf => 0x1B | .brk => 0x20 | .swTrap => 0x21 | .watchdog => 0x22 | .emulNested => 0x23 | .barErr => 0x24
  | .copyTmpl => 0x25

/-- The handler a context runs in (R315, frame header byte 6). -/
inductive Handler where
  | none_ | emulation | trap
  deriving DecidableEq, Repr

/-! ### One loop context -/

/-- A capability register: the 128-bit value of Table 2-1 and its hidden validity tag (R32). -/
structure CReg where
  val   : BitVec 128
  valid : Bool
  deriving DecidableEq, Repr

/-- A vector register: type tag, data bits (element i of width w at bits i·w), and the 20-bit scales of its side array,
scale j at bits 20·j (R35 to R38). -/
structure VReg where
  ty     : Ety
  data   : BitVec 65536
  scales : BitVec 10240
  deriving DecidableEq, Repr

/-- A landing slot (R41): the result with its type, the positions its commit writes, and the blocks whose scales it writes. -/
structure LSlot where
  ty     : Ety
  data   : BitVec 65536
  scales : BitVec 10240
  pos    : BitVec 8192
  blks   : BitVec 512
  deriving DecidableEq, Repr

/-- What a failed tag keeps (Table 2-4). -/
structure TagFail where
  cause  : Cause
  pc     : BitVec 32
  serial : BitVec 16
  buf    : BitVec 20
  off    : BitVec 48
  creg   : BitVec 4
  deriving DecidableEq, Repr

/-- The state of a scoreboard tag (Table 2-4). -/
inductive TagState where
  | empty
  | pending
  | landed
  | partly (pc : BitVec 32)
  | failed (f : TagFail)
  deriving DecidableEq, Repr

/-- A scoreboard tag: state, used bit, destination register, class, landing slot, latch; flags are those an SFN raises when it lands
(R223). A pending tag's result is complete and arrives with TAG_ARRIVAL or at its first consumer (R42). -/
structure Tag where
  st    : TagState
  used  : Bool
  dst   : BitVec 6
  vec   : Bool
  slot  : Nat
  latch : Word
  sfn   : Bool
  flags : Flags
  deriving DecidableEq, Repr

/-- A loop-stack entry (R107). -/
structure LoopEnt where
  sloop : Bool
  start : Nat
  fin   : Nat
  rem   : Nat
  vlmax : Nat
  len   : Nat
  strip : Nat
  deriving DecidableEq, Repr

/-- A tile descriptor (VD, G, N) (R132). -/
structure Tile where
  vd : Nat
  g  : Nat
  n  : Nat
  deriving DecidableEq, Repr

/-- Loaded weights (R133): type, K, N, and the flat elements j·K + k with their block scales. -/
structure Weights where
  ty     : Ety
  k      : Nat
  n      : Nat
  data   : BitVec 65536
  scales : BitVec 10240
  deriving DecidableEq, Repr

/-- The array as its context sees it (R122, R125, R132, R139): MODE, the tile whose drain is under way (DRAINING is its presence), the
held tile and its cells (32 bits each, cell (i, j) at index i·N + j), the weights, the flags of retired MMAs that have not finished
(R408), the flags of the steps of an MMA that has not retired (R68), rope length and position (0 when unroped), and the member that
stands at position 0, by uid. -/
structure Arr where
  mode     : Nat
  draining : Option Tile
  held     : Option Tile
  cells    : BitVec 131072
  weights  : Option Weights
  mmaFlags : Option Flags
  part     : Flags
  ropeL    : Nat
  ropeP    : Nat
  roped    : Bool
  ropeId   : Nat
  deriving DecidableEq, Repr

/-- A program of a TIE slot (R226): step words and table. -/
structure TieProg where
  steps : List (BitVec 32)
  tab   : List (BitVec 32)
  deriving DecidableEq, Repr

/-- A deferred-fault record (R197): cause code of Table 16-4, and the word's PC, SERIAL, BUF and OFF. -/
structure DeferRec where
  code   : Nat
  pc     : BitVec 32
  serial : BitVec 16
  buf    : BitVec 20
  off    : BitVec 48
  deriving DecidableEq, Repr

/-- A buffer-table entry: its first four dwords; rest holds when d4 to d7 are zero (Table 12-2). -/
structure Entry where
  d0   : BitVec 64
  d1   : BitVec 64
  d2   : BitVec 64
  d3   : BitVec 64
  rest : Bool
  deriving DecidableEq, Repr

/-- n bytes at consecutive locations from loc on, the first at offset off of its buffer. -/
structure Run where
  loc : Nat
  off : Nat
  n   : Nat
  deriving DecidableEq, Repr

/-- A copy-fault record of a channel (R216): cause, template index, failing BUF and offset, PC and SERIAL of the COPY, the
register A of the template window, the context id of a live stamp, and the location of the barrier object it names. -/
structure CopyFault where
  cause  : Cause
  tmpl   : BitVec 16
  buf    : BitVec 20
  off    : BitVec 48
  pc     : BitVec 32
  serial : BitVec 16
  stamp  : Nat
  bar    : Nat
  creg   : BitVec 4
  deriving DecidableEq, Repr

/-- A copy queued or active on a channel (R209 to R216). mem is the memory-side window as (BUF, BASE, capability register) and
scratch offsets are offsets in the issuer's allotment, of buffer scrBuf; targets are the uids of the contexts whose allotments it writes;
num is its place in issue order; sect is the next sector of its sequence, got the bytes of it, or of the rows of a tile, already read or
sent, owed the sectors it still owes, over all targets; tiles are the destination rows of the tiles of the band it is writing (R267), and
ask holds while a base-die request of the channel is outstanding; held is the translation of a sector of several runs under way (R249); barBuf,
barOff and barCreg name its barrier object; scrCreg is the capability register of the scratchpad side. -/
structure Copy where
  tmpl    : BitVec 16
  pc      : BitVec 32
  serial  : BitVec 16
  region  : BitVec 16
  out     : Bool
  bel     : Bool
  layout  : Nat
  scope   : Nat
  memBuf  : BitVec 20
  memOff  : Nat
  memStr  : Nat
  memCreg : BitVec 4
  memS    : Bool
  scrBuf  : BitVec 20
  scrOff  : Nat
  scrStr  : Nat
  rows    : Nat
  rowB    : Nat
  targets : List Nat
  barLoc  : Nat
  barDie  : Nat
  num     : Nat
  sect    : Nat
  owed    : Nat
  started : Bool
  failed  : Bool
  paused  : Option (BitVec 20 × Nat)
  acks    : Nat
  tiles   : List (List Byte)
  ask     : Bool
  got     : List Byte
  held    : Option (Entry × List Run)
  barBuf  : BitVec 20
  barOff  : Nat
  barCreg : BitVec 4
  scrCreg : BitVec 4
  deriving DecidableEq, Repr

/-- One of a context's four copy channels (R206): the copies in issue order, the first one active; the fault record. -/
structure Chan where
  copies : List Copy
  fault  : Option CopyFault
  deriving DecidableEq, Repr

/-- The context's monitor (R172, R173): the sector it is armed on, whether a write came, whether it was lost by eviction,
whether it was lost at an unbind, save or restore, and the tick of the arming. -/
structure Monitor where
  armed   : Option Nat
  written : Bool
  evicted : Bool
  moved   : Bool
  since   : Nat
  deriving DecidableEq, Repr

/-- What enciphered a sector in DRAM (R250): the key pair, and the buffer and sector offset of the tweak; a zero key passes data
through and has no tweak. -/
structure KeyTag where
  key : BitVec 512
  buf : Nat
  sec : Nat
  deriving DecidableEq, Repr

/-- What a barrier packet carries (R199, R200): the team's node, the phase, and the arrivals that it counts. -/
structure BarMsg where
  node  : BitVec 32
  phase : BitVec 4
  count : Nat
  deriving DecidableEq, Repr

/-- An outstanding request to a home (R181, R194). slot, ch and uid name the requester (ch 0 the core, 1 to 4 the copy channels, 5 the host port, 6
Basecamp); opc is 1 read, 2 write, 3 atomic; key is the key tag of its sector; blk: a word waits at step e for the answer; out: the deferred access
that waits for it, 0 for none; fill: the read fills a copy; stale: an invalidation of the line has overtaken the answer, which fills no copy then;
noCopy: the bytes can have no copy on the issuing die; vec: an access of a vector word; need and s are the rights used and the capability's S bit;
wide: a release at scope .nbr or wider (R183); opc 4 invalidates, and 5 and 6 are barrier packets, with the message bar; passed: its checks at its
home were made with those of the other parts of its access. -/
structure Req where
  id     : Nat
  slot   : Nat
  ch     : Nat
  uid    : Nat
  src    : Nat
  dst    : Nat
  opc    : Nat
  bel    : Bool
  seq    : BitVec 16
  serial : BitVec 16
  pc     : BitVec 32
  buf    : BitVec 20
  off    : BitVec 48
  creg   : BitVec 4
  loc    : Nat
  size   : Nat
  data   : List Byte
  aop    : Nat
  opnd   : Word
  cmp    : Word
  chk    : Bool
  marked : Bool
  far    : Bool
  region : BitVec 16
  fill   : Bool
  noCopy : Bool
  vf     : Nat
  part   : Nat
  key    : KeyTag
  need   : BitVec 4
  s      : Bool
  blk    : Bool
  out    : Nat
  stale  : Bool
  vec    : Bool
  bar    : Option BarMsg
  passed : Bool
  wide   : Bool
  e      : Nat
  tries  : Nat
  sent   : Nat
  limit  : Nat
  deriving DecidableEq, Repr

/-- Where the bytes of a load go: nowhere for a store; from a bit of its tag's latch or landing slot on; from a bit of the payload of block j
of a stream type, or from a bit of the word that holds its scale at a bit (R58, R458). -/
inductive OutDst where
  | none_
  | latch (bit : Nat)
  | slot (bit : Nat)
  | pay (t : Ety) (j bit : Nat)
  | scale (j pos bit : Nat)
  deriving DecidableEq, Repr

/-- A part of an access: the request that it would send, whether it may use the level-one data cache, whether its buffer is a diagnostic
one, the scope of its acquire or release, whether that takes no order with it (R150), and where its bytes go. -/
structure Part where
  req   : Req
  plain : Bool
  diag  : Bool
  acq   : Option Nat
  rel   : Option Nat
  loose : Bool
  dst   : OutDst
  deriving DecidableEq, Repr

/-- A part of an access that has not been performed, or whose result has not been taken, when its word has retired (R105, R149): its number,
the tag whose result it brings, 0 for a store; held while the word still waits for the check of its home (R163, R356); whether its
request has been sent; and the answer, with the cause that refuses it and the context id of a live stamp. -/
structure OutAcc where
  id   : Nat
  tag  : Nat
  part : Part
  held : Bool
  sent : Bool
  ans  : Option (List Byte × Option Cause × Nat)
  deriving DecidableEq, Repr

/-- What a context's later accesses may have to wait for: a deferred access, or a FENCE of a type with its scope (R117, R148). -/
inductive Out where
  | acc (a : OutAcc)
  | fence (fn : BitVec 7) (scope : Nat)
  deriving DecidableEq, Repr

/-- What the word at the PC is waiting for, once it has begun and not retired. -/
inductive Wait where
  /-- Nothing: the word issues from its first check. -/
  | none_
  /-- Step e of the word (an element, or a part of an access) has the request r outstanding; acc holds the bytes that earlier parts of
  the element have brought (R184, R163). -/
  | remote (e : Nat) (acc : List Byte) (r : Req)
  /-- Step e waits until the home of a checked buffer has checked the access of a number in Ctx.out (R163, R356). -/
  | check (e id : Nat)
  /-- A CWB waits for its base die, or has heard that a request of it failed (R388). -/
  | cwb (line : Nat) (cause : Option Cause)
  /-- PAUSE lets its context's next word issue at a tick (R422). -/
  | pause (until_ : Nat)
  /-- Step e must wait for another request of the die to its line (R181), for a copy (R219), or for a release; the word goes on
  there. -/
  | busy (e : Nat) (acc : List Byte)
  /-- The answer to the request r of step e: the bytes read, or the cause that refuses it with the context id of a live stamp. -/
  | answered (e : Nat) (acc : List Byte) (r : Req) (data : List Byte) (cause : Option Cause) (stamp : Nat)
  /-- A BARWAIT or BARSYNC waits for the release of phase q of the object at loc (R367). -/
  | bar (loc : Nat) (q : BitVec 4)
  /-- The wait ended with PHASE st. -/
  | barDone (loc : Nat) (st : BitVec 4)
  /-- HBAR with a profile arrived in team phase p and waits for its release (R199). -/
  | hbar (p : BitVec 4) (prof : BitVec 2)
  /-- HBAR's phase p was released to this waiter (R200). -/
  | hbarDone (p : BitVec 4)
  /-- WAITM waits; the deadline in reference ticks when s[B] ≠ 0 (R173). -/
  | waitm (deadline : Option Nat)
  /-- WAITM returns with this code, 4 only where its deadline has not passed (R173). -/
  | waitmDone (code : Nat) (deadline : Option Nat)
  /-- ROPE L, p waits for the other positions since a tick (R139). -/
  | rope (l p since : Nat)
  /-- An MMA has passed its checks and makes its next array step (R132). -/
  | mma
  /-- A roped MMA has passed the checks before those of the rope, and waits for every member to issue it, or makes its next step (R140). -/
  | ropeMma (b : FmtX)
  /-- The ROPE or MMA at the PC raises MODE_ERR at its next step (R139, R140). -/
  | modeErr
  /-- The region number would wrap: the context stalls until every stamp of it is cleared; then ready (R162). -/
  | regionWrap (ready : Bool)
  deriving DecidableEq, Repr

/-- Program-visible CSRs that are no part of another field (Table 2-6). injSkip, injLeft and injSeq count for FAULTINJ (R198): the
matching packets still to pass, the drops still to make and the SEQ being dropped; harness is the status sampled at dispatch
(R302). -/
structure Csrs where
  vl         : Nat
  vstart     : Nat
  strip      : Word
  vflags     : Flags
  clampb     : BitVec 32
  srseed     : BitVec 32
  mbox       : Vector Word 16
  retired    : Word
  trapcause  : BitVec 8
  trappc     : BitVec 32
  trapinfo0  : Word
  trapinfo1  : Word
  regionno   : BitVec 16
  acktimeout : BitVec 7
  faultinj   : Word
  injSkip    : Nat
  injLeft    : Nat
  injSeq     : Option Nat
  harness    : Bool
  deriving DecidableEq, Repr

/-- What the launch record, the capability table and the kernel header give a context (R282, R307, R310), and the node member
it runs: uid numbers the members in the order in which Basecamp prepared them, nid its node. native holds the words of a
translated code object (R313). -/
structure Launch where
  uid       : Nat
  nid       : Nat
  vf        : Nat
  part      : Nat
  node      : BitVec 32
  inst      : BitVec 32
  ninst     : BitVec 32
  prio      : Nat
  code      : BitVec 128
  nativeOff : Nat
  nativeLen : Nat
  native    : Option (List Byte)
  captab    : List (BitVec 128)
  policy    : Word
  wdLimit   : Word
  team      : Bool
  emulBase  : Option (BitVec 32)
  trapBase  : Option (BitVec 32)
  vregKiB   : Nat
  scrKiB    : Nat
  deriving DecidableEq, Repr

/-- The dirty bits of R294: registers, landing slots, 256-byte scratchpad granules. -/
structure Dirty where
  vregs    : BitVec 64
  slots    : BitVec 4
  granules : BitVec 4096
  deriving DecidableEq, Repr

/-- Slot states (Table 15-4). -/
inductive BindSt where
  | free | bind | run | save | saved | halted | faulted
  deriving DecidableEq, Repr

/-- A bind record (Table 15-3). -/
structure BindRec where
  st     : BindSt
  start  : BitVec 2
  prio   : BitVec 6
  vf     : BitVec 6
  part   : BitVec 4
  node   : BitVec 32
  inst   : BitVec 32
  ninst  : BitVec 32
  frame  : BitVec 28
  fkey   : BitVec 7
  wdleft : Word
  deriving DecidableEq, Repr

/-- The part of a context that a frame holds (R295): everything of R30 but the scratchpad bytes, which stand in State.mem. barsyncP and hbarP are the
PC of a BARSYNC or HBAR that has counted its arrival, and the phase it arrived in (R366, R200), and asideP those of the word that a handler was
entered at; streams are the flags of the steps done of a stream store that has begun and not retired, by its PC, with the VSTART at which it stands
(R113, R473; log 35). -/
structure Regs where
  pc        : Nat
  s         : Vector Word 32
  c         : Vector CReg 16
  v         : Vector VReg 64
  slots     : Vector LSlot 4
  m         : Vector (BitVec 8192) 8
  tags      : Vector Tag 16
  csr       : Csrs
  shape     : BitVec 2
  loops     : List LoopEnt
  aside     : List LoopEnt
  handler   : Handler
  arr       : Arr
  g         : Vector (BitVec 32) 256
  tie       : Vector (Option TieProg) 16
  deferred  : Option DeferRec
  deferCnt  : BitVec 16
  chans     : Vector Chan 4
  barsyncP  : Option (Nat × BitVec 4)
  hbarP     : Option (Nat × BitVec 4)
  asideP    : Option (Nat × BitVec 4) × Option (Nat × BitVec 4)
  streams   : Tab (Nat × Flags)
  dirty     : Dirty
  image     : Bool
  saves     : Word
  saveWhy   : SaveReason
  saveTick  : Word
  pageBuf   : BitVec 20
  pageOff   : Word
  deriving DecidableEq, Repr

/-- One slot: its bind record, and the context bound to it. hist lists the untagged writers among the last seven dynamic words, the latest first
(R76). out lists the accesses of retired words that are still to be performed, in program order; rest are the parts still to come of an access that
the word at the PC has begun. halt marks a context that the debug port halted (R349); bindTick is the tick of the last bind; mon and wait belong to
the binding; faultAt is the tick of a fault in faultRec, once the step of the fault is over (R300). -/
structure Ctx where
  bind     : BindRec
  launch   : Launch
  regs     : Regs
  hist     : List (Option (BitVec 6))
  wait     : Wait
  out      : List Out
  rest     : List Part
  mon      : Monitor
  halt     : Bool
  bindTick : Nat
  moving   : Bool
  saveWhy  : SaveReason
  faultRec : Option (Cause × Nat × Word)
  faultAt  : Option Nat
  deriving DecidableEq, Repr

/-! ### Values at launch (Table 2-7) and of a slot that nothing is bound to -/

def CReg.zero : CReg := ⟨0, false⟩
def VReg.zero : VReg := ⟨.invalid, 0, 0⟩
def LSlot.zero : LSlot := ⟨.invalid, 0, 0, 0, 0⟩
def Tag.zero : Tag := ⟨.empty, false, 0, false, 0, 0, false, 0⟩
def Arr.zero : Arr := ⟨0, none, none, 0, none, none, 0, 0, 0, false, 0⟩
def Chan.zero : Chan := ⟨[], none⟩
def Monitor.zero : Monitor := ⟨none, false, false, false, 0⟩
def Dirty.zero : Dirty := ⟨0, 0, 0⟩

/-- The CSRs at their reset values (Table 2-6). -/
def Csrs.zero : Csrs :=
  { vl := 0, vstart := 0, strip := 0, vflags := 0, clampb := 0x7F7FFFFF, srseed := 0, mbox := Vector.replicate 16 0,
    retired := 0, trapcause := 0, trappc := 0, trapinfo0 := 0, trapinfo1 := 0, regionno := 0, acktimeout := 8, faultinj := 0,
    injSkip := 0, injLeft := 0, injSeq := none, harness := false }

/-- The generator states that a seed sets (R66). -/
def srStates (seed : BitVec 32) : Vector (BitVec 32) 256 := Vector.ofFn (fun (l : Fin 256) => srInit seed l.val)

def Regs.zero : Regs :=
  { pc := 0, s := Vector.replicate 32 0, c := Vector.replicate 16 CReg.zero, v := Vector.replicate 64 VReg.zero,
    slots := Vector.replicate 4 LSlot.zero, m := Vector.replicate 8 0, tags := Vector.replicate 16 Tag.zero, csr := Csrs.zero,
    shape := 0, loops := [], aside := [], handler := .none_, arr := Arr.zero, g := srStates 0,
    tie := Vector.replicate 16 none, deferred := none, deferCnt := 0, chans := Vector.replicate 4 Chan.zero,
    barsyncP := none, hbarP := none, asideP := (none, none), streams := [], dirty := Dirty.zero, image := false, saves := 0, saveWhy := .preemption, saveTick := 0,
    pageBuf := 0, pageOff := 0 }

def Launch.zero : Launch :=
  { uid := 0, nid := 0, vf := 0, part := 0, node := 0, inst := 0, ninst := 0, prio := 0, code := 0, nativeOff := 0, nativeLen := 0, native := none,
    captab := [], policy := 0, wdLimit := 0, team := false, emulBase := none, trapBase := none, vregKiB := 0, scrKiB := 0 }

def BindRec.zero : BindRec := ⟨.free, 0, 0, 0, 0, 0, 0, 0, 0, 0, 0⟩

/-- A slot in state FREE with its bind record at reset (Table 15-3). -/
def Ctx.free : Ctx :=
  { bind := BindRec.zero, launch := Launch.zero, regs := Regs.zero, hist := [], wait := .none_, out := [], rest := [], mon := Monitor.zero,
    halt := false, bindTick := 0, moving := false, saveWhy := .preemption, faultRec := none, faultAt := none }

/-! ### Cores and dies -/

/-- A line of a level-one data cache: its bytes and the tick of its fill (R147). -/
structure L1Line where
  data : List Byte
  fill : Nat
  deriving DecidableEq, Repr

/-- A fetch line of a level-one instruction cache (R320): the VF, the code object's buffer and base, the line index, and its bytes. -/
structure CodeLine where
  vf   : Nat
  buf  : BitVec 20
  base : Nat
  line : Nat
  data : List Byte
  deriving DecidableEq, Repr

/-- Power of an array (R127): off, requested since a tick, granted at a tick, in VEC since a tick with power kept. -/
inductive ArrPower where
  | off
  | requested (since : Nat)
  | granted (at_ : Nat)
  | idle (since : Nat)
  deriving DecidableEq, Repr

/-- A translation in a core's extent cache (R245): its key (VF, BUF, page number), the leaf, and what the memory port checked: the entry and the
ceiling for the VF. -/
structure Extent where
  vf   : Nat
  buf  : BitVec 20
  page : Nat
  leaf : Word
  e    : Entry
  ceil : BitVec 4
  deriving DecidableEq, Repr

/-- An entry in a memory port's cache (R241), with the two dwords of its share list. -/
structure PortEntry where
  buf    : BitVec 20
  e      : Entry
  share0 : Word
  share1 : Word
  deriving DecidableEq, Repr

/-- A core: pool boundaries (Table 2-5a), the slot that owned the array last (R124), the slots that stand at a MODE WS or MODE RS
(R124), array power, the level-one data cache by line key, the level-one instruction cache, the line fetched last first (R320), and the extent
cache, the translation used last first (R245). -/
structure Core where
  poolb0    : BitVec 8
  poolb1    : BitVec 8
  poolb2    : BitVec 8
  lastOwner : Option Bool
  asking    : BitVec 2
  power     : ArrPower
  l1d       : Tab L1Line
  l1i       : List CodeLine
  ext       : List Extent
  deriving DecidableEq, Repr

/-- PARTLOG (Table 19-3). -/
structure PartLog where
  ovf     : Bool
  lastBuf : BitVec 16
  count   : BitVec 32
  deriving DecidableEq, Repr

/-- A die: its registers (Tables 8-5, 8-6, 12-7, 13-4, 13-8, 15-8, 19-3); its L2 copies of lines homed elsewhere, by line key
(R181); the way of each line that its slices hold, home line or copy (R251); the entry cache of its memory ports, the entry used last first
(R241); the lines with a held invalidation (R182); the stopped channels of its links, link · 4 + channel (R190); the main-clock
step (R350); cores waiting for an array grant in request order and the tick of the last grant (R127); slots waiting for a
copy-engine grant as slot · 4 + channel, with the tick of its last grant (R218). -/
structure Die where
  pitchcfg  : Vector Word 8
  waysplit  : BitVec 5
  l2waymask : Vector (BitVec 16) 64
  partmap   : BitVec 48
  partlog   : Vector PartLog 12
  rowact    : Vector Word 2
  trainstat : Vector Word 2
  copies    : Tab (List Byte)
  l2        : Tab Nat
  entries   : List PortEntry
  heldInv   : List Nat
  stopped   : List Nat
  step16    : Nat
  arrQueue  : List Nat
  arrGrant  : Nat
  ceQueue   : List Nat
  ceGrant   : Nat
  deriving DecidableEq, Repr

/-! ### Stacks and base dies -/

/-- The requester behind a base-die request. -/
inductive BdWho where
  /-- Nobody waits for it. -/
  | none_
  /-- A slot, which runs member uid: the word at its PC, or the deferred access of a number. -/
  | word (slot uid out : Nat)
  /-- The die-link request of this number. -/
  | link (req : Nat)
  /-- The line fill of the home request of this number. -/
  | fill (req : Nat)
  /-- A tile of the copy number num of a channel, whose issuer is member uid. -/
  | tile (slot ch uid num : Nat)
  /-- A run of n bytes of a diagnostic sector for the copy number num of a channel. -/
  | copy (slot ch uid num loc n : Nat)
  /-- The write-back of a home line. -/
  | writeBack (line : Nat)
  /-- The write of a line to DRAM, and its drop, for the CWB of a slot, which runs member uid (R388). -/
  | clean (line slot uid : Nat)
  | drop (line slot uid : Nat)
  /-- A write of the home request of this number, whose line no way of its slice takes (R251). -/
  | through (req : Nat)
  /-- A line fill for PREF: the die, at level 1 the core, and the VF. -/
  | prefetch (die : Nat) (core : Option Nat) (vf : Nat)
  deriving DecidableEq, Repr

/-- A base-die reply (Table 13-3): KIND, STATUS, OLD and the data that follow. Its TAG, GEN, Q and PCH are those of the request that holds
it. -/
structure BdReply where
  kind   : Nat
  status : Nat
  old    : Word
  data   : List Byte
  deriving DecidableEq, Repr

/-- A request to a base die (Table 13-2). num is its place in the order of arrival at the MP; tag is none while it waits there; reply is set
once it is performed. The location key of its bytes is loc; rows are those of a tile's rows, with their buffer offsets; bad are the poisoned
sectors of a line written back; lost holds once a beat of it has failed its CRC, until it is sent again (R262); hurt is the STATUS that an
error in the tile buffer gives it (R263). -/
structure BdReq where
  num    : Nat
  kind   : Nat
  pch    : Nat
  wq     : Bool
  tag    : Option Nat
  gen    : Bool
  layout : Nat
  key    : BitVec 7
  aop    : Nat
  asz    : Bool
  nsect  : Nat
  bmask  : BitVec 32
  buf    : BitVec 20
  off    : Nat
  loc    : Nat
  rows   : List (Nat × Nat)
  data   : List Byte
  opnd   : Word
  cmp    : Word
  who    : BdWho
  bad    : List Nat
  sent   : Nat
  tries  : Nat
  lost   : Bool
  hurt   : Nat
  reply  : Option BdReply
  deriving DecidableEq, Repr

/-- A frame in the scrub map (R253): granules base to base + count − 1, those below next already reached by the scrubber, and the
others that an access has zeroed. -/
structure Scrub where
  base  : Nat
  count : Nat
  next  : Nat
  done  : List Nat
  deriving DecidableEq, Repr

/-- An alert-log entry (Table 13-6): row base, commands sent, tick. -/
structure Alert where
  row  : BitVec 36
  cmds : BitVec 3
  tick : Word
  deriving DecidableEq, Repr

/-- A stack with its base die: MSC lines with their dirty bits, the line used last first (R265), the open row by pch · 16 + bank, row counts by row key
(R268), ROWSTAT's counters, the alert log (R271), requests (R259), the next GEN by pch · 16 + queue · 8 + tag, the last reply held
by the same key (R262), banks in back-off until a tick (R269), pseudo-channels refreshing until a tick (R270), the scrub map,
the sectors of DRAM that are poisoned, those of MSC lines that are, the sectors of DRAM and those of MSC lines with an error that the code
corrects, and the number of corrected errors (R263). -/
structure Stack where
  msc     : List (Nat × Bool)
  rows    : Tab Nat
  counts  : Tab Nat
  rfm     : BitVec 32
  alerts  : BitVec 32
  log     : Tab Alert
  next    : BitVec 6
  queue   : List BdReq
  gens    : Tab Bool
  held    : Tab (Bool × BdReply)
  backoff : Tab Nat
  fresh   : Tab Nat
  scrub   : List Scrub
  poison  : List Nat
  mscPoison : List Nat
  weak    : List Nat
  mscWeak : List Nat
  fixed   : Nat
  deriving DecidableEq, Repr

/-! ### Races, requests and packets -/

/-- A stamp (R158): the context's id, the member that made it and how often it had been saved (R159), its region and the marked bit. -/
structure Stamp where
  slot   : Nat
  uid    : Nat
  saves  : Word
  region : BitVec 16
  marked : Bool
  deriving DecidableEq, Repr

/-- The record of a sector (R158): the writer stamp, the earlier and the later reader stamp, the overflow bit. -/
structure RaceRec where
  writer : Option Stamp
  r0     : Option Stamp
  r1     : Option Stamp
  ovf    : Bool
  deriving DecidableEq, Repr

/-- A packet on the die links (R191). -/
inductive Pkt where
  | read (r : Req)
  | write (r : Req)
  | atomic (r : Req)
  | inval (r : Req)
  | barArrival (r : Req)
  | barRelease (r : Req)
  | readData (r : Req) (data : List Byte)
  | writeAck (r : Req)
  | atomicResult (r : Req) (old : List Byte)
  | invalAck (r : Req)
  | refusal (r : Req) (cause : Cause) (stamp : Nat)
  deriving DecidableEq, Repr

/-- A request that holds its line at its home: a store or atomic that collects invalidation acknowledgements (R181), with the dies still to
answer; where fill holds, a request that waits for the line to come from its stack; or, where old holds the bytes that answer it, one whose write
is on its way to the base die. -/
structure HomeTxn where
  line : Nat
  req  : Req
  dies : BitVec 8
  fill : Bool
  old  : Option (List Byte)
  deriving DecidableEq, Repr

/-- A write, atomic, or barrier request that a home has applied, with its response (R194). -/
structure Dup where
  seq  : BitVec 16
  resp : Pkt
  deriving DecidableEq, Repr

/-! ### Barrier windows and teams -/

/-- A waiter of a completed phase: slot, the member it runs, pitch. -/
structure Waiter where
  slot  : Nat
  uid   : Nat
  pitch : Nat
  deriving DecidableEq, Repr

/-- A release window (R168, R200): the object's location key (or the team's node, when team holds), the die whose profile it uses, the profile's two
registers as they stood at the completion (R171), the completed phase, PHASE after it, whether its pitches have started, the next pitch and the tick
of the last one, and the waiters still to be released. -/
structure Window where
  team    : Bool
  loc     : Nat
  vf      : Nat
  die     : Nat
  lo      : Word
  hi      : Word
  phase   : BitVec 4
  st      : BitVec 4
  started : Bool
  next    : Nat
  last    : Nat
  waiters : List Waiter
  deriving DecidableEq, Repr

/-- A team (R199): its node, root die, current phase, the arrivals the root has received for it, per die the arrivals counted and
not yet sent, and the members that have arrived for it. -/
structure Team where
  vf      : Nat
  node    : BitVec 32
  root    : Option Nat
  phase   : BitVec 4
  got     : Nat
  held    : Tab Nat
  arrived : List Nat
  deriving DecidableEq, Repr

/-! ### Nodes, members and queues -/

/-- Where a completion record goes: a host bus address, or a buffer offset of the parent's capability. -/
inductive DoneAddr where
  | host (a : Nat)
  | buffer (cap : BitVec 128) (off : Nat)
  deriving DecidableEq, Repr

/-- A node (R281 to R288, R307): the launch record's fields, its dependency state, its successors, and how far it has come. order
is its place in the ready order once it is ready; made holds once its members have been prepared; nid is a number of its own, since a
child's node id may equal that of a queued node (R287). bad marks a record that breaks a limit of Table 16-1; boxes are mailbox writes
to single members before they exist, as (member, mailbox, value). -/
structure Node where
  nid     : Nat
  vf      : Nat
  node    : BitVec 32
  code    : Nat
  arg     : Nat
  entry   : BitVec 32
  ninst   : BitVec 32
  prio    : Nat
  cls     : Nat
  team    : Bool
  wd      : Word
  captab  : List (BitVec 128)
  policy  : Word
  mbox    : Vector Word 16
  done    : DoneAddr
  deps    : Nat
  got     : Nat
  succ    : List (BitVec 32)
  parent  : Option Nat
  order   : Option Nat
  made    : Bool
  ended   : Nat
  bad     : Bool
  boxes   : List (Nat × Nat × Word)
  deriving DecidableEq, Repr

/-- A code object translated for a VF (R313): its buffer and its offset there, and its native form. -/
structure Transl where
  vf   : Nat
  buf  : BitVec 20
  base : Nat
  form : List Byte
  deriving DecidableEq, Repr

/-- A member of a node that is not bound (R284, R290): its launch data and registers, whether it has run before, its watchdog
count, its place in the ready order (none while it waits for a page), a debug halt kept for it (R349), and what its monitor has
seen (R173). -/
structure Member where
  launch  : Launch
  regs    : Regs
  image   : Bool
  wdleft  : Word
  cls     : Nat
  order   : Nat
  head    : Bool
  waiting : Option (Nat × Nat)
  halted  : Bool
  mon     : Monitor
  deriving DecidableEq, Repr

/-- A context frame (R295): the VF of its context, its address in units of 4 KiB, its key slot, and its bytes by offset. No capability names it
(R32). -/
structure FrameImg where
  vf    : Nat
  addr  : BitVec 28
  key   : BitVec 7
  parts : Tab (List Byte)
  deriving DecidableEq, Repr

/-- A submission queue (Table 15-1). -/
structure Queue where
  base : BitVec 64
  size : BitVec 13
  tail : BitVec 12
  head : BitVec 12
  deriving DecidableEq, Repr

/-- TDISP states (Table 19-1). -/
inductive Tdisp where
  | configUnlocked | configLocked | run | error
  deriving DecidableEq, Repr

/-- What a VF has: its interface state, SPDM session, keyed IDE stream (R341 to R343), kept decrements and cancellations of node ids not yet live, and
decrements held back while the store of kept ones is full (R283), and a VF reset under way, with whether a STOP_INTERFACE asked for it (R304, R342),
and the changes that have arrived behind that STOP_INTERFACE. Number 64 is PF0, which has a responder too (R343). -/
structure VfState where
  tdisp    : Tdisp
  session  : Bool
  keyed    : Bool
  kept     : Tab Nat
  unsent   : List (BitVec 32)
  cancels  : List (BitVec 32)
  reset    : Option Bool
  later    : List ConfigChange
  deriving DecidableEq, Repr

/-- A property value of the device tree: strings, or cells of 32 bits. -/
inductive DtValue where
  | text (s : String)
  | cells (l : List (BitVec 32))
  deriving DecidableEq, Repr

/-- A node of the device tree below the root: its name, its unit address, its properties, and its children as (name, unit, properties). -/
structure DtNode where
  name     : String
  unit     : Option Nat
  props    : List (String × DtValue)
  children : List (String × Nat × List (String × DtValue))
  deriving DecidableEq, Repr

/-- Messages from Basecamp to the hypervisor: malformed queue entries counted (R282), PART_NOCLASS (R303). -/
structure HyperState where
  malformed : Nat
  noclass   : List (Nat × BitVec 32)
  deriving DecidableEq, Repr

/-- A partition mode change under way (R303): its policy, the new maps, and the members saved for it, by uid. -/
structure ModeChange where
  preempt : Bool
  maps    : List (Nat × BitVec 64)
  saved   : List Nat
  deriving DecidableEq, Repr

/-- A signed answer of the SPDM responder (R344): the slot, whose die signs, the digests of blocks 1 to 4, and the measured partition map and pitch
profiles of block 5. -/
structure Signed where
  slot    : Nat
  blocks  : List (BitVec 512)
  measure : List (BitVec 64)
  deriving DecidableEq, Repr

/-- The package's registers (Tables 12-1, 12-5, 12-6, 15-10, 19-4, 19-5, QUANTUM, VFPART) and key slots. -/
structure Package where
  btbase    : BitVec 28
  btcount   : BitVec 21
  extBusy   : Bool
  ext0      : Word
  ext1      : Word
  keyBusy   : Option (BitVec 7)
  keySlot   : BitVec 7
  keydata   : Vector Word 8
  keys      : Vector (BitVec 512) 128
  quantum   : Word
  freezeArm : Bool
  freezeFrom : Nat
  frozen    : Bool
  freezeAt  : BitVec 62
  watts     : BitVec 12
  partharn  : BitVec 12
  vfEn      : BitVec 64
  vfPart    : Vector (BitVec 4) 64
  deriving DecidableEq, Repr

/-- The next mover: a slot issues its next word, an event of the table happens, or a sector of DRAM or of a line of the MSC, or the tile buffer that
serves request i of a stack, fails, uncorrectably or so that the code corrects it (R263); the packet at a place of the links fails its CRC (R193), or
request i of a stack or its reply does (R262); a packet with a header from outside the model reaches a die (R191). defer: a slot issues its next word,
whose accesses are performed later where the spec lets them (R105, R149); perform: the access at place i of its list is performed, or its result
taken. -/
inductive Move where
  | issue (k : Nat)
  | event (e : Instr)
  | cellError (sec : Nat)
  | cellFixed (sec : Nat)
  | mscError (sec : Nat)
  | mscFixed (sec : Nat)
  | tileError (stack i : Nat) (fixed : Bool)
  | defer (k : Nat)
  | perform (k i : Nat)
  | dropPkt (i : Nat)
  | foreign (die : Nat) (header : BitVec 256)
  | dropBd (stack i : Nat)
  deriving DecidableEq, Repr

/-! ### The machine -/

/-- The whole machine. cur, ctx and others are the slots; mem holds every byte of memory by location key (Mem.lean), as its home
has ordered it; homeLines are the lines in their home slice's L2 with their dirty bits, lineBuf for those of DRAM
the buffer by which each was brought or written last and the offset of its first byte there (Table 13-2), presence the dies that hold copies of a
line (R180), linePoison the poisoned sectors of home lines (R263); secKey is the key tag of a sector that DRAM holds, or will hold once its
line is written back (R250); claims are, by slot, the member for which it is being freed and the one that gave way (R291); tree is the device tree that
Basecamp has built at boot (R322), and procTrees the copies that the operating system has made of it, by VF (R323); measured is the draw of the last
reset's measuring (Table 19-2); rx are the packets that the receiver of a stopped channel
holds, by die · 16 + link · 4 + channel (R190), routers the partitions that the outputs and ingresses of routers do not allow (R193, R345; log 78), and
ctlWait a die's control packets behind 128 that are not answered (R194); flash holds the training records in the
module's SPI flash, by their offset (R272); late (the word of this step defers its accesses), agenda, draws and next number are the model's own. -/
structure State where
  cur       : Nat
  ctx       : Ctx
  others    : Tab Ctx
  tick      : Nat
  resetTick : Nat
  draws     : Nat
  late      : Bool
  agenda    : List Move
  mem       : List Host.Cell
  cores     : Tab Core
  dies      : Vector Die 8
  memStacks    : Vector Stack 12
  flash     : Tab (List Byte)
  pkg       : Package
  homeLines : Tab Bool
  lineBuf   : Tab (BitVec 20 × Nat)
  presence  : Tab (BitVec 8)
  linePoison : List Nat
  secKey    : Tab KeyTag
  races     : Tab RaceRec
  nextReq   : Nat
  reqs      : List Req
  net       : List Pkt
  rx        : Tab (List Pkt)
  routers   : List (Nat × Nat × Nat)
  ctlWait   : List Req
  txns      : List HomeTxn
  seqs      : Tab (BitVec 16)
  dups      : Tab (List Dup)
  windows   : List Window
  teams     : List Team
  nodes     : List Node
  transl    : List Transl
  members   : Tab Member
  frames    : Tab FrameImg
  nextUid   : Nat
  nextOrder : Nat
  claims    : Tab (Nat × Nat)
  queues    : Tab Queue
  vfs       : Tab VfState
  hyper     : HyperState
  modeChg   : Option ModeChange
  signed    : List Signed
  spdmUp    : Bool
  tree      : List DtNode
  procTrees : Tab (List DtNode)
  measured  : Nat
  deriving DecidableEq, Repr

/-! ### Values after reset -/

def Core.zero : Core := ⟨0, 0, 0, none, 0, .off, [], [], []⟩
def PartLog.zero : PartLog := ⟨false, 0, 0⟩
def Queue.zero : Queue := ⟨0, 0, 0, 0⟩
def VfState.zero : VfState := ⟨.configUnlocked, false, false, [], [], [], none, []⟩
def RaceRec.zero : RaceRec := ⟨none, none, none, false⟩
def KeyTag.zero : KeyTag := ⟨0, 0, 0⟩

/-- ROWACT at reset (Table 13-4): EN 1, NEIGH 1, THRESH 0x0800. -/
def rowactReset : Word := 0x8000000000010800

def Die.reset : Die :=
  { pitchcfg := Vector.replicate 8 0, waysplit := 0, l2waymask := Vector.replicate 64 0xFFFF, partmap := 0,
    partlog := Vector.replicate 12 PartLog.zero, rowact := Vector.replicate 2 rowactReset, trainstat := Vector.replicate 2 0,
    copies := [], l2 := [], entries := [], heldInv := [], stopped := [], step16 := 16, arrQueue := [], arrGrant := 0, ceQueue := [], ceGrant := 0 }

def Stack.reset : Stack :=
  { msc := [], rows := [], counts := [], rfm := 0, alerts := 0, log := [], next := 0, queue := [], gens := [], held := [],
    backoff := [], fresh := [], scrub := [], poison := [], mscPoison := [], weak := [], mscWeak := [], fixed := 0 }

def Package.reset : Package :=
  { btbase := 0, btcount := 0, extBusy := false, ext0 := 0, ext1 := 0, keyBusy := none, keySlot := 0,
    keydata := Vector.replicate 8 0, keys := Vector.replicate 128 0, quantum := 8500000, freezeArm := false, freezeFrom := 0, frozen := false,
    freezeAt := 0, watts := 3200, partharn := 0, vfEn := 0, vfPart := Vector.replicate 64 0 }

/-- The machine right after cold reset: no context bound, every table empty, every register at its reset value (INVENTORY.md). -/
def State.reset : State :=
  { cur := 0, ctx := Ctx.free, others := [], tick := 0, resetTick := 0, draws := 0, late := false, agenda := [], mem := [], cores := [],
    dies := Vector.replicate 8 Die.reset, memStacks := Vector.replicate 12 Stack.reset, flash := [], pkg := Package.reset, homeLines := [],
    lineBuf := [], presence := [], linePoison := [], secKey := [], races := [], nextReq := 1, reqs := [], net := [], rx := [], routers := Config.routers, ctlWait := [], txns := [], seqs := [],
    dups := [], windows := [], teams := [], nodes := [], transl := [], members := [], frames := [], nextUid := 1, nextOrder := 0, claims := [], queues := [], vfs := [],
    hyper := ⟨0, []⟩, modeChg := none, signed := [], spdmUp := true, tree := [], procTrees := [], measured := 0 }

end Sys2Proof.Machine
end

