-- ==== Sys2Proof/Machine/Operands.lean ====
section
/-! DEFINITION. Machine/Operands.lean: the registers of a context as its words read and write them (02 R31 to R45): scalar,
capability, vector and mask registers, elements and scales, and the shape. -/

namespace Sys2Proof.Machine

/-- The context with its registers changed. -/
def Ctx.upd (c : Ctx) (f : Regs → Regs) : Ctx := { c with regs := f c.regs }

/-- The context with its CSRs changed. -/
def Ctx.updCsr (c : Ctx) (f : Csrs → Csrs) : Ctx := { c with regs := { c.regs with csr := f c.regs.csr } }

/-- The context with its array state changed. -/
def Ctx.updArr (c : Ctx) (f : Arr → Arr) : Ctx := { c with regs := { c.regs with arr := f c.regs.arr } }

/-! ### Scalar registers (R31) -/

/-- s[n]; s0 reads as zero. -/
def Ctx.getS (c : Ctx) (n : RegNo) : Word := if n = 0 then 0 else (c.regs.s[n.toNat]?).getD 0

/-- A write of s[n]; a write to s0 is discarded. -/
def Ctx.setS (c : Ctx) (n : RegNo) (v : Word) : Ctx :=
  if n = 0 then c else c.upd fun r => { r with s := r.s.setIfInBounds n.toNat v }

/-! ### Capability registers (R32, Table 2-1) -/

/-- c[n] with its validity tag. -/
def Ctx.getC (c : Ctx) (n : RegNo) : CReg := (c.regs.c[n.toNat]?).getD CReg.zero

def Ctx.setC (c : Ctx) (n : RegNo) (v : CReg) : Ctx :=
  c.upd fun r => { r with c := r.c.setIfInBounds n.toNat v }

def capBuf (v : BitVec 128) : BitVec 20 := v.extractLsb' 108 20
def capRights (v : BitVec 128) : BitVec 4 := v.extractLsb' 104 4
def capD (v : BitVec 128) : Bool := v.getLsbD 103
def capS (v : BitVec 128) : Bool := v.getLsbD 102
def capBase (v : BitVec 128) : Nat := (v.extractLsb' 52 48).toNat
def capLen (v : BitVec 128) : Nat := (v.extractLsb' 4 48).toNat

/-- A capability value from its fields (Table 2-1); RSV bits are zero. -/
def mkCap (buf : BitVec 20) (rights : BitVec 4) (d s : Bool) (base len : Nat) : BitVec 128 :=
  buf ++ (rights ++ (BitVec.ofBool d ++ (BitVec.ofBool s ++ ((0 : BitVec 2) ++
    (BitVec.ofNat 48 base ++ (BitVec.ofNat 48 len ++ (0 : BitVec 4)))))))

/-- Rights of an access, in the bit order of RIGHTS: read 8, write 4, execute 2, sync 1 (Table 2-1). -/
def rRead : BitVec 4 := 8
def rWrite : BitVec 4 := 4
def rExec : BitVec 4 := 2
def rSync : BitVec 4 := 1

/-! ### Shapes (R35 to R37, R47) -/

/-- Register count of a shape (Table 2-2). -/
def shapeCount (sh : BitVec 2) : Nat := if sh = 0 then 8 else if sh = 1 then 16 else if sh = 2 then 32 else 64

/-- Register length of a shape in 32-bit words (Table 2-2). -/
def shapeLen (sh : BitVec 2) : Nat := if sh = 0 then 2048 else if sh = 1 then 1024 else if sh = 2 then 512 else 256

/-- R36: the context has vector state when its vector allotment is not zero. -/
def Ctx.hasV (c : Ctx) : Bool := c.launch.vregKiB != 0

/-- VSHAPE.COUNT; 0 with no vector state. -/
def Ctx.count (c : Ctx) : Nat := if c.hasV then shapeCount c.regs.shape else 0

/-- VSHAPE.LEN; 0 with no vector state. -/
def Ctx.len (c : Ctx) : Nat := if c.hasV then shapeLen c.regs.shape else 0

/-- Capacity of a register in elements of a type (R37). -/
def Ctx.capacity (c : Ctx) (t : Ety) : Nat := c.len * 32 / t.width

/-- Bytes that a shape needs (R47). -/
def shapeBytes (sh : BitVec 2) : Nat := (shapeCount sh + 4) * shapeLen sh * 5

/-- R47: a shape fits a vector allotment in KiB. -/
def shapeFits (sh : BitVec 2) (kib : Nat) : Bool := decide (shapeBytes sh ≤ kib * 1024)

/-- A request in KiB rounded up to a multiple of 8 KiB (R47). -/
def roundKiB (k : Nat) : Nat := (k + 7) / 8 * 8

/-! ### Vector registers -/

/-- v[n]. -/
def Ctx.getV (c : Ctx) (n : Nat) : VReg := (c.regs.v[n]?).getD VReg.zero

/-- A write of v[n], which sets its dirty bit (R294). -/
def Ctx.setV (c : Ctx) (n : Nat) (v : VReg) : Ctx :=
  c.upd fun r => { r with v := r.v.setIfInBounds n v, dirty := { r.dirty with vregs := setBits r.dirty.vregs n 1 1 } }

/-- Element i of width w (R37). -/
def VReg.elem (v : VReg) (w i : Nat) : Nat := getBits v.data (i * w) w

/-- A register with element i of width w replaced. -/
def VReg.put (v : VReg) (w i x : Nat) : VReg := { v with data := setBits v.data (i * w) w x }

/-- Block scale j of the side array (R38). -/
def VReg.scale (v : VReg) (j : Nat) : BitVec 20 := v.scales.extractLsb' (20 * j) 20

def VReg.putScale (v : VReg) (j : Nat) (x : BitVec 20) : VReg := { v with scales := setBits v.scales (20 * j) 20 x.toNat }

/-- ReadElem (R98) under the register's own tag: SE elements by R56, the rest with FTZI by R67. -/
def VReg.read (v : VReg) (ftzi : Bool) (i : Nat) : Exact :=
  if v.ty.isSE then seValue v.ty (v.scale (i / 16)) (i % 16) (v.elem 8 i)
  else elemValue v.ty ftzi (v.elem v.ty.width i)

/-- The signed integer of an element. -/
def VReg.sint (v : VReg) (i : Nat) : Int := sintOf v.ty.width (v.elem v.ty.width i)

/-! ### Landing slots -/

def Ctx.getSlot (c : Ctx) (n : Nat) : LSlot := (c.regs.slots[n]?).getD LSlot.zero

/-- A write of a landing slot, which sets its dirty bit (R294). -/
def Ctx.setSlot (c : Ctx) (n : Nat) (v : LSlot) : Ctx :=
  c.upd fun r => { r with slots := r.slots.setIfInBounds n v, dirty := { r.dirty with slots := setBits r.dirty.slots n 1 1 } }

/-! ### Mask registers (R45) -/

/-- m[n]; m0 reads as all ones. -/
def Ctx.getM (c : Ctx) (n : Nat) : BitVec 8192 :=
  if n = 0 then BitVec.allOnes 8192 else (c.regs.m[n]?).getD 0

def Ctx.setM (c : Ctx) (n : Nat) (v : BitVec 8192) : Ctx :=
  c.upd fun r => { r with m := r.m.setIfInBounds n v }

/-- The bits below n of a mask value. -/
def maskBelow (n : Nat) (x : BitVec 8192) : BitVec 8192 := x &&& (BitVec.allOnes n).setWidth 8192

/-! ### Tags -/

def Ctx.getTag (c : Ctx) (n : Nat) : Tag := (c.regs.tags[n]?).getD Tag.zero

def Ctx.setTag (c : Ctx) (n : Nat) (v : Tag) : Ctx :=
  c.upd fun r => { r with tags := r.tags.setIfInBounds n v }

/-- The states of a tag (Table 2-4). -/
def Tag.isPartial (t : Tag) : Bool := match t.st with | .partly _ => true | _ => false
def Tag.isPending (t : Tag) : Bool := match t.st with | .pending => true | _ => false

/-- A tag that holds a landing slot: a vector tag that is pending, landed or partial (Table 2-4). -/
def Tag.holdsSlot (t : Tag) : Bool :=
  t.vec && (match t.st with | .pending => true | .landed => true | .partly _ => true | _ => false)

/-- The lowest landing slot that no tag holds (R41). -/
def Ctx.freeSlot (c : Ctx) : Option Nat :=
  (List.range 4).find? fun s => !(c.regs.tags.toList.any fun t => t.holdsSlot && t.slot == s)

/-- VL and VSTART. -/
def Ctx.vl (c : Ctx) : Nat := c.regs.csr.vl
def Ctx.vstart (c : Ctx) : Nat := c.regs.csr.vstart

def Ctx.setVstart (c : Ctx) (n : Nat) : Ctx := c.updCsr fun r => { r with vstart := n }
def Ctx.setVl (c : Ctx) (n : Nat) : Ctx := c.updCsr fun r => { r with vl := n }

/-! ### Array-held registers and drains (R125, R129, R135) -/

/-- Registers that a group of elements of width w spans (R129). -/
def groupSpan (len elems w : Nat) : Nat := (elems * w + 32 * len - 1) / (32 * len)

/-- First register and register count of the held tile's span. -/
def Ctx.heldSpan (c : Ctx) : Option (Nat × Nat) :=
  c.regs.arr.held.map fun t => (t.vd, groupSpan c.len (t.g * t.n) 32)

/-- Two spans of registers overlap; a span of no register overlaps none. -/
def spansMeet (a n b m : Nat) : Bool := decide (0 < n) && decide (0 < m) && decide (a < b + m) && decide (b < a + n)

/-- R135: one of n registers from r is array-held. -/
def Ctx.heldMeets (c : Ctx) (r n : Nat) : Bool :=
  match c.heldSpan with
  | some (v, k) => spansMeet r n v k
  | none => false

/-- The last word of a drain under way is in its group: DRAINING reads 0 (R125). -/
def Ctx.endDrain (c : Ctx) : Ctx := c.updArr fun a => { a with draining := none }

/-- R125: a word that reads or writes one of n registers from r waits for the drain of a group that holds it. DEDUCED (log 66): the
wait is seen only as the drain's end, so that the word ends it. -/
def Ctx.awaitDrain (c : Ctx) (r n : Nat) : Ctx :=
  match c.regs.arr.draining with
  | some t => if spansMeet r n t.vd (groupSpan c.len (t.g * t.n) 32) then c.endDrain else c
  | none => c

/-! ### Slots (R289) -/

/-- Die, core number within the die, and slot of a slot index (R289). -/
def slotDie (k : Nat) : Nat := if k < 1536 then k / 384 else 4 + (k - 1536) / 128
def slotCore (k : Nat) : Nat := if k < 1536 then k % 384 / 2 else (k - 1536) % 128 / 2
def slotSide (k : Nat) : Nat := k % 2

/-- The slot index of a die, a core and a slot (R289). -/
def slotIndex (d n side : Nat) : Nat := if d < 4 then 384 * d + 2 * n + side else 1536 + 128 * (d - 4) + 2 * n + side

/-- A context is bound to the slot and has not ended or been saved (Table 15-4). -/
def Ctx.bound (c : Ctx) : Bool := c.bind.st == .bind || c.bind.st == .run || c.bind.st == .save

/-- The pool boundaries as a core uses them: one below the boundary beneath it counts as that one (Table 2-5a). -/
def Core.bounds (c : Core) : Nat × Nat × Nat :=
  let b1 := max c.poolb0.toNat c.poolb1.toNat
  (c.poolb0.toNat, b1, max b1 c.poolb2.toNat)

/-- The number by which a team is known. -/
def Launch.team32 (l : Launch) : BitVec 32 := BitVec.ofNat 32 l.nid

/-- The other slot of the same core. -/
def slotMate (k : Nat) : Nat := if k % 2 = 0 then k + 1 else k - 1

/-- Cores of a die (Table 2-6, CTXID): 192 on an M-die, 64 on a B-die; clusters have 16 cores. -/
def dieCores (d : Nat) : Nat := if d < 4 then 192 else 64

/-- The cluster of a slot within its die. -/
def slotCluster (k : Nat) : Nat := slotCore k / 16

/-- The contents of slot k. -/
def State.slot (s : State) (k : Nat) : Ctx := if k = s.cur then s.ctx else tabGet Ctx.free s.others k

/-- The machine with slot k's contents replaced. -/
def State.setSlot (s : State) (k : Nat) (c : Ctx) : State :=
  if k = s.cur then { s with ctx := c } else { s with others := tabPut k c s.others }

/-- The machine with slot k in focus. -/
def State.focus (s : State) (k : Nat) : State :=
  if k = s.cur then s
  else { s with cur := k, ctx := tabGet Ctx.free s.others k, others := tabPut s.cur s.ctx (tabDel k s.others) }

/-- The machine with the focused slot changed. -/
def State.updCtx (s : State) (f : Ctx → Ctx) : State := { s with ctx := f s.ctx }

end Sys2Proof.Machine
end

