-- ==== Sys2Proof/Machine/Mem.lean ====
section
/-! DEFINITION. Machine/Mem.lean: location keys, bytes of memory, and where each location is homed (R180, R189, R242, R244).
A location key is: the physical address below 2^40; 2^40 + d · 2^32 + o for byte o of die d's scratch; 2^64 + a for host bus
address a; 2^70 + u · 2^20 + o for byte o of the scratchpad of member u; 2^96 + p · 2^68 + b · 2^48 + o for offset o of buffer b homed
on peer p. -/

namespace Sys2Proof.Machine

/-! ### Bytes -/

/-- The byte at a location; a location that nothing has written reads as zero. -/
def memGet (m : List Host.Cell) (a : Nat) : Byte := tabGet (0 : Byte) m a

/-- The memory with one byte written, in canonical form. -/
def memPut (m : List Host.Cell) (a : Nat) (v : Byte) : List Host.Cell := tabSet (0 : Byte) a v m

/-- Bytes at consecutive locations. -/
def memBytes (m : List Host.Cell) (a n : Nat) : List Byte := (countFrom a n).map (memGet m)

/-- The memory with bytes written at listed locations, in order. -/
def memWrite (m : List Host.Cell) (cells : List (Nat × Byte)) : List Host.Cell :=
  cells.foldl (fun m c => memPut m c.1 c.2) m

/-- The memory with every byte of a range zero. -/
def memClear (m : List Host.Cell) (a n : Nat) : List Host.Cell := m.filter fun c => !(a ≤ c.1 && c.1 < a + n)

/-- The canonical form: locations strictly rising and no listed byte equal to what an unlisted location reads as. -/
def Memory.wf (m : List Host.Cell) : Bool := tabSorted none m && m.all fun c => c.2 != 0

/-! ### Location keys -/

def locDie (d o : Nat) : Nat := 2 ^ 40 + d * 2 ^ 32 + o
def locHost (a : Nat) : Nat := 2 ^ 64 + a
def locScratch (uid o : Nat) : Nat := 2 ^ 70 + uid * 2 ^ 20 + o
def locPeer (p b o : Nat) : Nat := 2 ^ 96 + p * 2 ^ 68 + b * 2 ^ 48 + o

/-- The kinds of locations. -/
inductive LocKind where
  | dram | dieScratch | host | scratch | peer
  deriving DecidableEq, Repr

def locKind (a : Nat) : LocKind :=
  if a < 2 ^ 40 then .dram else if a < 2 ^ 64 then .dieScratch else if a < 2 ^ 70 then .host
  else if a < 2 ^ 96 then .scratch else .peer

/-- The die that owns a stack (R201): die d of row 0 owns stack d; B-die d owns stacks 2d − 4 and 2d − 3. -/
def stackDie (k : Nat) : Nat := if k < 4 then k else 4 + (k - 4) / 2

/-- The index of a stack on its die (Table 13-4). -/
def stackSide (k : Nat) : Nat := if k < 4 then 0 else (k - 4) % 2

/-- Stack of a physical address, and the address within it (R242). -/
def paStack (a : Nat) : Nat := a / 2 ^ 36 % 16
def paAddr (a : Nat) : Nat := a % 2 ^ 36

/-- The pseudo-die that stands for the peer devices (R202). -/
def peerDie : Nat := 8

/-- The die on which a location is homed (R180, R202). A scratchpad byte has no home outside its core; 9 stands for it. -/
def homeDie (a : Nat) : Nat :=
  match locKind a with
  | .dram => stackDie (paStack a)
  | .dieScratch => (a - 2 ^ 40) / 2 ^ 32 % 8
  | .host => 0
  | .scratch => 9
  | .peer => peerDie

/-- The home slice of a location on its die (R244): address bits 12:8 XOR 17:13; die scratch interleaves at 256 bytes. -/
def homeSlice (a : Nat) : Nat :=
  match locKind a with
  | .dram => (a / 256 % 32) ^^^ (a / 8192 % 32)
  | .dieScratch => a / 256 % 32
  | _ => 0

/-- Bytes that no die but their own may hold a copy of (R180, R181): die scratch of another die, host memory off die 0. -/
def noCopyOn (d a : Nat) : Bool :=
  match locKind a with
  | .dieScratch => homeDie a != d
  | .host => d != 0
  | _ => false

/-- The 128-byte line and the 32-byte sector of a location. -/
def lineOf (a : Nat) : Nat := a / 128
def sectorOf (a : Nat) : Nat := a / 32

/-! ### The die grid (R189) -/

/-- The distance between dies (R189). -/
def dieDist (a b : Nat) : Nat :=
  let d := if a % 4 ≤ b % 4 then b % 4 - a % 4 else a % 4 - b % 4
  min d (4 - d) + (if a / 4 = b / 4 then 0 else 1)

/-- Agents' dies within a scope level of die d (Table 8-12), for dies of this package. -/
def dieInScope (scope d e : Nat) : Bool :=
  if scope ≤ 2 then d == e else if scope = 3 then decide (dieDist d e ≤ 1) else true

/-- PEERS of a scope level (Table 8-12): at level 5 the devices one hop away, at level 6 every reachable one. -/
def scopePeers (n : Nat) : Nat :=
  if n = 5 then (Config.peers.filter fun p => p.2 == 1).length else if n = 6 then Config.peers.length else 0

/-- SCOPETABn for a slot (Tables 8-1, 8-12). -/
def scopeTab (n k : Nat) : Word :=
  let d := slotDie k
  let dies := (List.range 8).foldl (fun a e => if dieInScope n d e then a + 2 ^ e else a) 0
  let clus := if n ≤ 1 then 2 ^ slotCluster k else if d < 4 then 0xFFF else 0xF
  let cores := if n = 0 then 2 ^ (slotCore k % 16) else 0xFFFF
  if 7 ≤ n then 0 else BitVec.ofNat 64 (scopePeers n % 2 ^ 16 * 2 ^ 48 + dies * 2 ^ 32 + clus * 2 ^ 16 + cores)

/-! ### Accessors of the tables of State -/

def State.core (s : State) (n : Nat) : Core := tabGet Core.zero s.cores n
def State.setCore (s : State) (n : Nat) (c : Core) : State := { s with cores := tabPut n c s.cores }
def State.die (s : State) (d : Nat) : Die := (s.dies[d]?).getD Die.reset
def State.setDie (s : State) (d : Nat) (x : Die) : State := { s with dies := s.dies.setIfInBounds d x }
def State.updDie (s : State) (d : Nat) (f : Die → Die) : State := s.setDie d (f (s.die d))
def State.stack (s : State) (k : Nat) : Stack := (s.memStacks[k]?).getD Stack.reset
def State.setStack (s : State) (k : Nat) (x : Stack) : State := { s with memStacks := s.memStacks.setIfInBounds k x }
def State.updStack (s : State) (k : Nat) (f : Stack → Stack) : State := s.setStack k (f (s.stack k))

/-- Cores are keyed by half their slot index. -/
def coreKey (k : Nat) : Nat := k / 2

/-- Every bound slot: the focused one and the others. -/
def State.slots (s : State) : List (Nat × Ctx) := tabPut s.cur s.ctx s.others

/-- A change of every slot. -/
def State.mapSlots (s : State) (f : Nat → Ctx → Ctx) : State :=
  { s with ctx := f s.cur s.ctx, others := s.others.map fun p => (p.1, f p.1 p.2) }

/-- A draw number for a free value; each is used once. -/
def State.draw (s : State) : Nat × State := (s.draws, { s with draws := s.draws + 1 })

/-- The slot to which a member is bound. -/
def State.slotOf (s : State) (uid : Nat) : Option Nat :=
  ((s.slots.filter fun p => p.2.bound && p.2.launch.uid == uid).map (·.1)).head?

/-- A change of slot k. -/
def State.updSlot (s : State) (k : Nat) (f : Ctx → Ctx) : State := s.setSlot k (f (s.slot k))

end Sys2Proof.Machine
end

