-- ==== Sys2Proof/WellFormed.lean ====
section
/-! DEFINITION. WellFormed.lean: which words are legal (04 R79, R85 to R93, R95 and the field lists of the reference
entries). A word whose check fails is ILLEGAL_ENC. -/

namespace Sys2Proof

/-- A field that names an s register holds 0 to 31 (R85). -/
def sReg (r : BitVec 6) : Bool := r.toNat < 32

/-- A field that names a c register holds 0 to 15 (R85). -/
def cReg (r : BitVec 6) : Bool := r.toNat < 16

/-- A field that names an m register holds 0 to 7 (R85). -/
def mReg (r : BitVec 6) : Bool := r.toNat < 8

/-- A destination mask is m1 to m7 (R45). -/
def mDst (r : BitVec 6) : Bool := r.toNat < 8 && r != 0

def Hdr.zero : Hdr := ⟨0, 0, 0, 0⟩

/-- R79: TC1 ≠ 0 requires TC0 ≠ 0 and TC1 ≠ TC0. -/
def Hdr.tagsOk (h : Hdr) : Bool := h.tc1 == 0 || (h.tc0 != 0 && h.tc1 != h.tc0)

/-- R79: a word that is no tagged producer has TA = 0. -/
def Hdr.plain (h : Hdr) : Bool := h.ta == 0 && h.tagsOk

/-- R79: a tagged producer requires TA ≠ 0. -/
def Hdr.producer (h : Hdr) : Bool := h.ta != 0 && h.tagsOk

/-- R79: CSRR requires a TA exactly when it reads a mailbox. -/
def Hdr.taIf (p : Bool) (h : Hdr) : Bool := (h.ta != 0) == p && h.tagsOk

/-- Format A: B used or zero, E used or zero, COND used (0 to 5) or zero (R86). -/
def FmtA.ok (b : FmtA) (useB useE useCond : Bool) : Bool :=
  sReg b.d && sReg b.a && (if useB then sReg b.b else b.b == 0) && (if useE then sReg b.e else b.e == 0) &&
    (if useCond then b.cond.toNat < 6 else b.cond == 0) && b.z == 0

/-- Format B: COND used (0 to 5) or zero (R87). -/
def FmtB.ok (b : FmtB) (useCond : Bool) : Bool :=
  sReg b.d && sReg b.a && (if useCond then b.cond.toNat < 6 else b.cond == 0) && b.z == 0

/-- Format M: SCOPE ≠ 7, and SCOPE = 0 with ORD = 00 (R85, R89). -/
def FmtM.markOk (b : FmtM) : Bool := b.scope != 7 && (b.ord != 0 || b.scope == 0)

/-- A form that is plain only: ORD and SCOPE are zero. -/
def FmtM.unmarked (b : FmtM) : Bool := b.ord == 0 && b.scope == 0

/-- FAR and AOP are zero outside AMO and CAS (R89). -/
def FmtM.atom0 (b : FmtM) : Bool := b.far == 0 && b.aop == 0

/-- An x form: X names s1 to s31 and OFF19[15:0] is zero (R89). -/
def FmtM.xOk (b : FmtM) : Bool := sReg b.x && b.x != 0 && b.off.extractLsb' 0 16 == 0

/-- The fields of format V that a word may leave unused. -/
inductive FieldV where
  | va | vb | vc | mask | mz | rm | ftzi | ftzo | sat | fn | imm
  deriving DecidableEq, Repr

/-- Every field but VD and the listed ones is zero (R85). -/
def FmtV.zeroBut (b : FmtV) (l : List FieldV) : Bool :=
  (l.contains .va || b.va == 0) && (l.contains .vb || b.vb == 0) && (l.contains .vc || b.vc == 0) &&
  (l.contains .mask || b.mask == 0) && (l.contains .mz || b.mz == 0) && (l.contains .rm || b.rm == 0) &&
  (l.contains .ftzi || b.ftzi == 0) && (l.contains .ftzo || b.ftzo == 0) && (l.contains .sat || b.sat == 0) &&
  (l.contains .fn || b.fn == 0) && (l.contains .imm || b.imm == 0)

/-- IMM10, bits 50:41 of a BR.i word (R91). -/
def FmtJ.imm10 (b : FmtJ) : BitVec 10 := b.b ++ b.lo

/-- Format J: A used (1) or zero (0); B zero (0), an s register (1) or IMM10 (2); COND; OFF32 (Table 4-9). -/
def FmtJ.ok (b : FmtJ) (useA useB : Nat) (useCond useOff : Bool) : Bool :=
  (if useA == 1 then sReg b.a else b.a == 0) &&
  (if useB == 2 then true else if useB == 1 then sReg b.b && b.lo == 0 else b.b == 0 && b.lo == 0) &&
  (if useCond then b.cond.toNat < 6 else b.cond == 0) && b.z == 0 && (useOff || b.off == 0)

/-- The loop forms: bits 50:48 and 31:16 zero, END from 1 to 65,535 (Table 4-8). -/
def FmtL.tailOk (b : FmtL) : Bool := b.z0 == 0 && b.z1 == 0 && b.fin != 0

def FmtY.zero : FmtY := ⟨0, 0, 0, 0, 0, 0, 0⟩

/-- What a register field of format Y holds. -/
inductive RegUse where
  | no | s | c
  deriving DecidableEq, Repr

def RegUse.ok : RegUse → BitVec 6 → Bool
  | .no, r => r == 0
  | .s, r => sReg r
  | .c, r => cReg r

/-- Format Y: the register fields as the entry uses them, and SCOPE 0 to 6 or zero (R85, R92). -/
def FmtY.ok (y : FmtY) (d a b e : RegUse) (useScope : Bool) : Bool :=
  d.ok y.d && a.ok y.a && b.ok y.b && e.ok y.e && (if useScope then y.scope != 7 else y.scope == 0)

/-- CSR numbers of MBOX0 to MBOX15 (Table 2-6). -/
def isMbox (n : BitVec 20) : Bool := 0x020 <= n.toNat && n.toNat <= 0x02F

/-- A CSR number that Table 2-6 lists, with IMM20[19:12] zero (R50). -/
def csrListed (n : BitVec 20) : Bool :=
  n.toNat <= 0x008 || n.toNat == 0x010 || (0x020 <= n.toNat && n.toNat <= 0x033) || n.toNat == 0x040 || n.toNat == 0x041 ||
    (0x050 <= n.toNat && n.toNat <= 0x055) || (0x060 <= n.toNat && n.toNat <= 0x067) || (0x070 <= n.toNat && n.toNat <= 0x072)

/-- The fields of format X that a matrix word may use. -/
inductive FieldX where
  | vd | va | vb | g | n | msel | imm
  deriving DecidableEq, Repr

/-- Every field but the listed ones is zero; FN is used by no word (Table 7-4, R85). -/
def FmtX.zeroBut (b : FmtX) (l : List FieldX) : Bool :=
  (l.contains .vd || b.vd == 0) && (l.contains .va || b.va == 0) && (l.contains .vb || b.vb == 0) &&
  (l.contains .g || b.g == 0) && (l.contains .n || b.n == 0) && (l.contains .msel || b.msel == 0) && b.fn == 0 &&
  (l.contains .imm || b.imm == 0)

/-- ROPE: L in IMM20[3:0] and p in IMM20[7:4] (Table 7-4). -/
def FmtX.ropeL (b : FmtX) : Nat := b.imm.toNat % 16
def FmtX.ropeP (b : FmtX) : Nat := b.imm.toNat / 16 % 16

/-- The opcode field, bits 79:72 (R75). -/
def opOf (w : IWord) : BitVec 8 := w.extractLsb' 72 8

/-- The fates of unassigned opcode values (Table 4-14). -/
inductive OpFate where
  | illegalOp | emulWindow | undefOp
  deriving DecidableEq, Repr

/-- R96: the fate of an opcode value; none for an assigned one. -/
def opFate (op : Nat) : Option OpFate :=
  if op == 0x00 || 0xF0 <= op then some .illegalOp
  else if 0xE0 <= op then some .emulWindow
  else if op == 0x1E || op == 0x1F || op == 0x3F || (0x5C <= op && op <= 0x5F) || (0x71 <= op && op <= 0x7F) ||
      op == 0xBE || op == 0xBF || 0xC9 <= op then some .undefOp
  else none

def fateOf (w : IWord) : Option OpFate := opFate (opOf w).toNat

/-- A core of a die: 192 on an M-die, 64 on a B-die. -/
def coreOk (die core : Nat) : Bool := die < 8 && core < (if die < 4 then 192 else 64)

/-- A privileged register that the spec gives. -/
def PrivReg.ok : PrivReg → Bool
  | .poolb die core n => coreOk die core && n < 3
  | .pitchcfg die n => die < 8 && n < 8
  | .keydata n => n < 8
  | .vfpart vf => vf < 64
  | .waysplit die => die < 8
  | .l2waymask die vf => die < 8 && vf < 64
  | .rowact die n => die < 8 && n < 2
  | .rowstat die n => die < 8 && n < 2
  | .trainstat die n => die < 8 && n < 2
  | .partmap die => die < 8
  | .partlog die p => die < 8 && p < 12
  | .bindRec k dword => k < 2048 && dword < 4
  | .sqbase vf q => vf < 64 && q < 4
  | .sqsize vf q => vf < 64 && q < 4
  | .sqtail vf q => vf < 64 && q < 4
  | .sqhead vf q => vf < 64 && q < 4
  | .btbase => true | .btcount => true | .extinv0 => true | .extinv1 => true | .keyslot => true | .quantum => true
  | .freezeReg => true | .pwrcap => true | .partharn => true

/-- Dwords at a physical address: aligned, and within the 40 bits of an address (R242). -/
def tableOk (pa : Nat) (data : List (BitVec 64)) : Bool := pa % 8 == 0 && pa + 8 * data.length <= 2 ^ 40

/-- A configuration change. -/
def ConfigChange.ok : ConfigChange → Bool
  | .register r _ => r.ok
  | .table pa data => tableOk pa data

/-- A unit of R347. -/
def FaultUnit.ok : FaultUnit → Bool
  | .extentCache die core => coreOk die core
  | .mpEntryCache die => die < 8
  | .l1i die core => coreOk die core
  | .l1d die core => coreOk die core
  | .copyEngine die => die < 8
  | .mpQueue stack => stack < 12
  | .baseDieQueue stack => stack < 12
  | .dieLink die link => die < 8 && link < 4

/-- A word is well-formed when its header, its fields and its unused fields meet R79, R85 to R93 and its entry. A word of an
unassigned opcode is well-formed when its opcode has that fate (Table 4-14); a device event is well-formed when the units it
names exist. DEDUCED (log 67): an x form of LD takes no ORD or SCOPE, since its form line in R395 has none. -/
def Instr.wf : Instr → Bool
  | .nop h b => h == Hdr.zero && b == FmtY.zero
  | .halt h b => h.plain && b == FmtY.zero
  | .jmp h b => h.plain && b.ok 0 0 false true
  | .jmpR h b => h.plain && b.ok 1 0 false false
  | .call h b => h.plain && b.ok 0 0 false true
  | .callR h b => h.plain && b.ok 1 0 false false
  | .ret h b => h.plain && b.ok 0 0 false false
  | .br h b => h.plain && b.ok 1 1 true true
  | .brI h b => h.plain && b.ok 1 2 true true
  | .brz h b => h.plain && b.ok 1 0 false true
  | .brnz h b => h.plain && b.ok 1 0 false true
  | .loop h b => h.plain && sReg b.a && b.imm == 0 && b.tailOk
  | .loopI h b => h.plain && b.a == 0 && b.tailOk
  | .sloop h b => h.plain && sReg b.a && b.imm.extractLsb' 0 14 == 0 && b.imm.extractLsb' 14 2 != 3 && b.tailOk
  | .trap h b => h.plain && b.ok .no .no .no .no false && b.fn == 0 && true
  | .tret h b => h.plain && b == FmtY.zero
  | .brk h b => h.plain && b.ok .no .no .no .no false && b.fn == 0 && true
  | .yield h b => h.plain && b == FmtY.zero
  | .csrr h b => h.taIf (isMbox b.imm) && b.ok .s .no .no .no false && b.fn == 0 && csrListed b.imm
  | .csrw h b => h.plain && b.ok .no .s .no .no false && b.fn == 0 && csrListed b.imm
  | .csrs h b => h.plain && b.ok .no .s .no .no false && b.fn == 0 && csrListed b.imm
  | .csrc h b => h.plain && b.ok .no .s .no .no false && b.fn == 0 && csrListed b.imm
  | .locq h b => h.plain && b.ok .s .c .no .no false && b.fn == 0 && true
  | .launch h b => h.plain && b.ok .s .c .no .no false && b.fn == 0 && true
  | .region h b => h.plain && b.ok .s .no .no .no false && b.fn == 0 && b.imm == 0
  | .fence h b => h.plain && b.ok .no .no .no .no true && b.fn != 0 && b.fn.extractLsb' 7 3 == 0 && b.imm == 0
  | .monitor h b => h.plain && b.ok .no .c .no .no false && b.fn == 0 && true
  | .waitm h b => h.plain && b.ok .s .no .s .no false && b.fn == 0 && b.imm == 0
  | .pause h b => h.plain && b.ok .no .no .no .no false && b.fn == 0 && true
  | .add h b => h.plain && b.ok true false false
  | .addI h b => h.plain && b.ok false
  | .sub h b => h.plain && b.ok true false false
  | .mul h b => h.plain && b.ok true false false
  | .mulI h b => h.plain && b.ok false
  | .mulh h b => h.plain && b.ok true false false
  | .div h b => h.plain && b.ok true false false
  | .rem h b => h.plain && b.ok true false false
  | .and h b => h.plain && b.ok true false false
  | .andI h b => h.plain && b.ok false
  | .or h b => h.plain && b.ok true false false
  | .orI h b => h.plain && b.ok false
  | .xor h b => h.plain && b.ok true false false
  | .xorI h b => h.plain && b.ok false
  | .shl h b => h.plain && b.ok true false false
  | .shlI h b => h.plain && b.ok false && b.imm.toNat < 64
  | .shr h b => h.plain && b.ok true false false
  | .shrI h b => h.plain && b.ok false && b.imm.toNat < 64
  | .sar h b => h.plain && b.ok true false false
  | .sarI h b => h.plain && b.ok false && b.imm.toNat < 64
  | .cmp h b => h.plain && b.ok true false true
  | .cmpI h b => h.plain && b.ok true
  | .sel h b => h.plain && b.ok true true false
  | .li h b => h.plain && sReg b.d && b.z == 0
  | .lih h b => h.plain && sReg b.d && b.z == 0 && b.imm.toNat < 0x10000
  | .clz h b => h.plain && b.ok false false false
  | .popc h b => h.plain && b.ok false false false
  | .min h b => h.plain && b.ok true false false
  | .max h b => h.plain && b.ok true false false
  | .rotl h b => h.plain && b.ok true false false
  | .rotr h b => h.plain && b.ok true false false
  | .ldB h b => h.producer && sReg b.d && cReg b.c && b.x == 0 && b.e == 0 && b.markOk && b.ord != 3 && b.bel == 0 && b.atom0 && b.mask == 0
  | .ldH h b => h.producer && sReg b.d && cReg b.c && b.x == 0 && b.e == 0 && b.markOk && b.ord != 3 && b.bel == 0 && b.atom0 && b.mask == 0
  | .ldW h b => h.producer && sReg b.d && cReg b.c && b.x == 0 && b.e == 0 && b.markOk && b.ord != 3 && b.bel == 0 && b.atom0 && b.mask == 0
  | .ldD h b => h.producer && sReg b.d && cReg b.c && b.x == 0 && b.e == 0 && b.markOk && b.ord != 3 && b.bel == 0 && b.atom0 && b.mask == 0
  | .stB h b => h.plain && sReg b.d && cReg b.c && b.x == 0 && b.e == 0 && b.markOk && b.ord != 2 && b.atom0 && b.mask == 0
  | .stH h b => h.plain && sReg b.d && cReg b.c && b.x == 0 && b.e == 0 && b.markOk && b.ord != 2 && b.atom0 && b.mask == 0
  | .stW h b => h.plain && sReg b.d && cReg b.c && b.x == 0 && b.e == 0 && b.markOk && b.ord != 2 && b.atom0 && b.mask == 0
  | .stD h b => h.plain && sReg b.d && cReg b.c && b.x == 0 && b.e == 0 && b.markOk && b.ord != 2 && b.atom0 && b.mask == 0
  | .ldBx h b => h.producer && sReg b.d && cReg b.c && b.xOk && b.e == 0 && b.unmarked && b.bel == 0 && b.atom0 && b.mask == 0
  | .ldHx h b => h.producer && sReg b.d && cReg b.c && b.xOk && b.e == 0 && b.unmarked && b.bel == 0 && b.atom0 && b.mask == 0
  | .ldWx h b => h.producer && sReg b.d && cReg b.c && b.xOk && b.e == 0 && b.unmarked && b.bel == 0 && b.atom0 && b.mask == 0
  | .ldDx h b => h.producer && sReg b.d && cReg b.c && b.xOk && b.e == 0 && b.unmarked && b.bel == 0 && b.atom0 && b.mask == 0
  | .stBx h b => h.plain && sReg b.d && cReg b.c && b.xOk && b.e == 0 && b.unmarked && b.atom0 && b.mask == 0
  | .stHx h b => h.plain && sReg b.d && cReg b.c && b.xOk && b.e == 0 && b.unmarked && b.atom0 && b.mask == 0
  | .stWx h b => h.plain && sReg b.d && cReg b.c && b.xOk && b.e == 0 && b.unmarked && b.atom0 && b.mask == 0
  | .stDx h b => h.plain && sReg b.d && cReg b.c && b.xOk && b.e == 0 && b.unmarked && b.atom0 && b.mask == 0
  | .amoW h b => h.producer && sReg b.d && cReg b.c && b.x == 0 && sReg b.e && b.markOk && b.bel == 0 && b.aop.toNat < 10 && b.mask == 0
  | .amoD h b => h.producer && sReg b.d && cReg b.c && b.x == 0 && sReg b.e && b.markOk && b.bel == 0 && b.aop.toNat < 9 && b.mask == 0
  | .casW h b => h.producer && sReg b.d && cReg b.c && sReg b.x && sReg b.e && b.markOk && b.bel == 0 && b.aop == 0 && b.mask == 0
  | .casD h b => h.producer && sReg b.d && cReg b.c && sReg b.x && sReg b.e && b.markOk && b.bel == 0 && b.aop == 0 && b.mask == 0
  | .ldcap h b => h.plain && b.ok .c .no .no .no false && b.fn == 0 && b.imm.toNat < 64
  | .cderive h b => h.plain && b.ok .c .c .s .s false && b.fn.toNat < 2 && b.imm == 0
  | .cadd h b => h.plain && b.ok .c .c .s .no false && b.fn == 0 && b.imm == 0
  | .caddI h b => h.plain && b.ok .c .c .no .no false && b.fn == 0 && true
  | .crestrict h b => h.plain && b.ok .c .c .no .no false && b.fn.toNat < 32 && b.imm == 0
  | .cread h b => h.plain && b.ok .s .c .no .no false && b.fn == 0 && b.imm.toNat < 3
  | .cwb h b => h.plain && b.ok .no .c .no .no false && b.fn.toNat < 2 && true
  | .pref h b => h.plain && b.d.toNat < 2 && cReg b.c && b.x == 0 && b.e == 0 && b.unmarked && b.bel == 0 && b.atom0 && b.mask == 0
  | .vld h b => h.producer && cReg b.c && b.x == 0 && b.e == 0 && b.unmarked && b.bel == 0 && b.atom0
  | .vldS h b => h.producer && cReg b.c && sReg b.x && b.e == 0 && b.unmarked && b.bel == 0 && b.atom0
  | .vldb h b => h.producer && cReg b.c && b.x == 0 && b.e == 0 && b.unmarked && b.bel == 0 && b.atom0 && b.mask == 0
  | .vst h b => h.plain && cReg b.c && b.x == 0 && b.e == 0 && b.unmarked && b.atom0
  | .vstS h b => h.plain && cReg b.c && sReg b.x && b.x != 0 && b.e == 0 && b.unmarked && b.atom0
  | .vstSStream h b => h.plain && cReg b.c && b.x == 0 && b.e == 0 && b.unmarked && b.atom0 && b.mask == 0
  | .vldx h b => h.producer && cReg b.c && b.xOk && b.e == 0 && b.unmarked && b.bel == 0 && b.atom0
  | .vstx h b => h.plain && cReg b.c && b.xOk && b.e == 0 && b.unmarked && b.atom0
  | .vbind h b => h.plain && b.ok .c .c .s .c false && 1 <= b.fn.toNat && b.fn.toNat < 12 && (b.e == 0 || 9 <= b.fn.toNat) && true
  | .vunbind h b => h.plain && b.ok .s .c .no .no false && b.fn == 0 && true
  | .copy h b => h.plain && b.ok .no .c .s .no true && b.fn == 0 && b.imm.toNat < 4
  | .copyq h b => h.plain && b.ok .s .no .no .no false && b.fn == 0 && b.imm.toNat < 4
  | .barinit h b => h.plain && b.ok .no .c .s .no true && b.fn.toNat < 4 && b.imm.extractLsb' 0 4 == 0
  | .barrive h b => h.plain && b.ok .s .c .no .no true && b.fn == 0 && b.imm.extractLsb' 0 4 == 0
  | .barwait h b => h.plain && b.ok .s .c .s .no true && b.fn == 0 && b.imm.extractLsb' 0 4 == 0
  | .barsync h b => h.plain && b.ok .s .c .no .no true && b.fn == 0 && b.imm.extractLsb' 0 4 == 0
  | .barquery h b => h.plain && b.ok .s .c .no .no false && b.fn.toNat < 2 && b.imm.extractLsb' 0 4 == 0
  | .hbar h b => h.plain && b.ok .s .no .no .no true && b.fn.toNat < 4 && b.imm == 0
  | .vadd h b => h.plain && b.zeroBut [.va, .vb, .mask, .mz, .rm, .ftzi, .ftzo, .sat]
  | .vaddVs h b => h.plain && b.zeroBut [.va, .vb, .mask, .mz, .rm, .ftzi, .ftzo, .sat] && sReg b.vb
  | .vsub h b => h.plain && b.zeroBut [.va, .vb, .mask, .mz, .rm, .ftzi, .ftzo, .sat]
  | .vsubVs h b => h.plain && b.zeroBut [.va, .vb, .mask, .mz, .rm, .ftzi, .ftzo, .sat] && sReg b.vb
  | .vmul h b => h.plain && b.zeroBut [.va, .vb, .mask, .mz, .rm, .ftzi, .ftzo, .sat]
  | .vmulVs h b => h.plain && b.zeroBut [.va, .vb, .mask, .mz, .rm, .ftzi, .ftzo, .sat] && sReg b.vb
  | .vfma h b => h.plain && b.zeroBut [.va, .vb, .mask, .mz, .rm, .ftzi, .ftzo, .sat, .vc]
  | .vfmaVs h b => h.plain && b.zeroBut [.va, .vb, .mask, .mz, .rm, .ftzi, .ftzo, .sat, .vc] && sReg b.vb
  | .vfms h b => h.plain && b.zeroBut [.va, .vb, .mask, .mz, .rm, .ftzi, .ftzo, .sat, .vc]
  | .vfmsVs h b => h.plain && b.zeroBut [.va, .vb, .mask, .mz, .rm, .ftzi, .ftzo, .sat, .vc] && sReg b.vb
  | .vfnma h b => h.plain && b.zeroBut [.va, .vb, .mask, .mz, .rm, .ftzi, .ftzo, .sat, .vc]
  | .vfnmaVs h b => h.plain && b.zeroBut [.va, .vb, .mask, .mz, .rm, .ftzi, .ftzo, .sat, .vc] && sReg b.vb
  | .vdiv h b => h.plain && b.zeroBut [.va, .vb, .mask, .mz, .rm, .ftzi, .ftzo, .sat]
  | .vdivVs h b => h.plain && b.zeroBut [.va, .vb, .mask, .mz, .rm, .ftzi, .ftzo, .sat] && sReg b.vb
  | .vmin h b => h.plain && b.zeroBut [.va, .vb, .mask, .mz, .rm, .ftzi, .ftzo, .sat]
  | .vminVs h b => h.plain && b.zeroBut [.va, .vb, .mask, .mz, .rm, .ftzi, .ftzo, .sat] && sReg b.vb
  | .vmax h b => h.plain && b.zeroBut [.va, .vb, .mask, .mz, .rm, .ftzi, .ftzo, .sat]
  | .vmaxVs h b => h.plain && b.zeroBut [.va, .vb, .mask, .mz, .rm, .ftzi, .ftzo, .sat] && sReg b.vb
  | .vand h b => h.plain && b.zeroBut [.va, .vb, .mask, .mz]
  | .vandVs h b => h.plain && b.zeroBut [.va, .vb, .mask, .mz] && sReg b.vb
  | .vor h b => h.plain && b.zeroBut [.va, .vb, .mask, .mz]
  | .vorVs h b => h.plain && b.zeroBut [.va, .vb, .mask, .mz] && sReg b.vb
  | .vxor h b => h.plain && b.zeroBut [.va, .vb, .mask, .mz]
  | .vxorVs h b => h.plain && b.zeroBut [.va, .vb, .mask, .mz] && sReg b.vb
  | .vshl h b => h.plain && b.zeroBut [.va, .vb, .mask, .mz, .rm, .ftzi, .ftzo, .sat]
  | .vshlVs h b => h.plain && b.zeroBut [.va, .vb, .mask, .mz, .rm, .ftzi, .ftzo, .sat] && sReg b.vb
  | .vshr h b => h.plain && b.zeroBut [.va, .vb, .mask, .mz, .rm, .ftzi, .ftzo, .sat]
  | .vshrVs h b => h.plain && b.zeroBut [.va, .vb, .mask, .mz, .rm, .ftzi, .ftzo, .sat] && sReg b.vb
  | .vshra h b => h.plain && b.zeroBut [.va, .vb, .mask, .mz, .rm, .ftzi, .ftzo, .sat]
  | .vshraVs h b => h.plain && b.zeroBut [.va, .vb, .mask, .mz, .rm, .ftzi, .ftzo, .sat] && sReg b.vb
  | .vmulh h b => h.plain && b.zeroBut [.va, .vb, .mask, .mz, .rm, .ftzi, .ftzo, .sat]
  | .vmulhVs h b => h.plain && b.zeroBut [.va, .vb, .mask, .mz, .rm, .ftzi, .ftzo, .sat] && sReg b.vb
  | .vcmp h b => h.plain && b.zeroBut [.va, .vb, .mask, .mz, .ftzi, .fn] && mDst b.vd && b.fn.toNat < 11
  | .vcmpVs h b => h.plain && b.zeroBut [.va, .vb, .mask, .mz, .ftzi, .fn] && mDst b.vd && sReg b.vb && b.fn.toNat < 11
  | .vclamp h b => h.plain && b.zeroBut [.va, .vb, .mask, .mz, .rm, .ftzi, .ftzo, .sat]
  | .vclampVs h b => h.plain && b.zeroBut [.va, .vb, .mask, .mz, .rm, .ftzi, .ftzo, .sat] && sReg b.vb
  | .vsel h b => h.plain && b.zeroBut [.va, .vb, .vc, .mask, .mz] && mReg b.vc
  | .vabs h b => h.plain && b.zeroBut [.va, .mask, .mz, .rm, .ftzi, .ftzo, .sat]
  | .vneg h b => h.plain && b.zeroBut [.va, .mask, .mz, .rm, .ftzi, .ftzo, .sat]
  | .vsqrt h b => h.plain && b.zeroBut [.va, .mask, .mz, .rm, .ftzi, .ftzo, .sat]
  | .vcvt h b => h.plain && b.zeroBut [.va, .mask, .mz, .rm, .ftzi, .ftzo, .sat, .fn] && 1 <= b.fn.toNat && b.fn.toNat < 12 && (b.fn.toNat < 9 || b.mask == 0)
  | .vcvtSr h b => h.plain && b.zeroBut [.va, .mask, .mz, .ftzi, .ftzo, .sat, .fn] && 1 <= b.fn.toNat && b.fn.toNat < 12 && (b.fn.toNat < 9 || b.mask == 0)
  | .vsplat h b => h.plain && b.zeroBut [.vb, .mask, .mz, .fn] && sReg b.vb && 1 <= b.fn.toNat && b.fn.toNat < 9
  | .vred h b => h.plain && b.zeroBut [.va, .mask, .rm, .ftzi, .ftzo, .sat]
  | .vscan h b => h.plain && b.zeroBut [.va, .mask, .rm, .ftzi, .ftzo, .sat]
  | .vslide h b => h.plain && b.zeroBut [.va, .vb, .mask, .mz, .fn, .imm] && sReg b.vb && b.fn.toNat < 2
  | .vperm h b => h.plain && b.zeroBut [.va, .vb, .mask, .mz]
  | .vget h b => h.tagsOk && b.zeroBut [.va, .vb, .imm] && sReg b.vd && sReg b.vb
  | .vput h b => h.plain && b.zeroBut [.va, .vb, .imm] && sReg b.va && sReg b.vb
  | .viota h b => h.plain && b.zeroBut [.mask, .mz, .rm, .sat, .fn, .imm] && 1 <= b.fn.toNat && b.fn.toNat < 9
  | .vdot h b => h.plain && b.zeroBut [.va, .vb, .mask, .rm, .ftzi, .ftzo, .imm]
  | .mop h b => h.plain && b.zeroBut [.va, .vb, .fn] && mDst b.vd && mReg b.va && mReg b.vb && b.fn.toNat < 8
  | .mpop h b => h.plain && b.zeroBut [.va, .mask] && sReg b.vd && mReg b.va
  | .vfirst h b => h.plain && b.zeroBut [.va, .mask] && sReg b.vd && mReg b.va
  | .vsetshape h b => h.plain && b.zeroBut [.imm] && sReg b.vd && b.imm.toNat < 4
  | .vsetl h b => h.plain && b.zeroBut [.va] && sReg b.vd && sReg b.va
  | .vsetlI h b => h.plain && b.zeroBut [.imm] && sReg b.vd
  | .vtag h b => h.plain && b.zeroBut [.fn, .imm] && b.fn.toNat < 12 && b.imm.toNat < 64 && b.vd.toNat + b.imm.toNat + 1 <= 64
  | .vclz h b => h.plain && b.zeroBut [.va, .mask, .mz]
  | .vpopc h b => h.plain && b.zeroBut [.va, .mask, .mz]
  | .vcompress h b => h.plain && b.zeroBut [.va, .mask, .mz]
  | .vexpand h b => h.plain && b.zeroBut [.va, .mask, .mz]
  | .modeVec h b => h.plain && b.zeroBut [.msel] && b.msel == 0
  | .modeWs h b => h.plain && b.zeroBut [.msel] && b.msel == 1
  | .modeRs h b => h.plain && b.zeroBut [.msel] && b.msel == 2
  | .mma h b => h.plain && b.zeroBut [.vd, .va, .vb, .g, .n]
  | .mwld h b => h.plain && b.zeroBut [.vb, .g, .n]
  | .mdrain h b => h.plain && b.zeroBut [.vd, .g, .n]
  | .mzero h b => h.plain && b.zeroBut [.vd, .g, .n]
  | .rope h b => h.plain && b.zeroBut [.imm] && b.imm.toNat < 256 && 1 <= b.ropeL && b.ropeL <= 8 && b.ropeP < b.ropeL
  | .sfn h b => h.producer && b.z0 == 0 && b.z1 == 0
  | .sfload h b => h.plain && b.z0 == 0 && b.z1 == 0 && b.vd == 0 && b.mask == 0 && b.mz == 0 && b.rm == 0 && b.ftzi == 0 && b.ftzo == 0 && 16 <= b.fid.toNat
  | .mstat h b => h.plain && b.zeroBut [.vd, .imm] && sReg b.vd && b.imm.toNat < 4
  | .illegalOp w => fateOf w == some .illegalOp
  | .emulWindow w => fateOf w == some .emulWindow
  | .undefOp w => fateOf w == some .undefOp
  | .tagArrival k t => k < 2048 && t < 16
  | .drainComplete k => k < 2048
  | .arrayPowerGrant die => die < 8
  | .arrayPowerDown die core => coreOk die core
  | .mmaFinish k => k < 2048
  | .ropeTimeout k => k < 2048
  | .poolMove k => k < 2048
  | .l1dLineExpiry die core _ => coreOk die core
  | .ackTimeout _ => true
  | .linkRead _ => true
  | .linkWrite _ => true
  | .linkAtomic _ => true
  | .linkInvalidate _ => true
  | .linkBarrierArrival _ => true
  | .linkBarrierRelease _ => true
  | .linkReadData _ => true
  | .linkWriteAck _ => true
  | .linkAtomicResult _ => true
  | .linkInvalidationAck _ => true
  | .linkRefusal _ => true
  | .bdRead st _ => st < 12
  | .bdWrite st _ => st < 12
  | .bdMaskedWrite st _ => st < 12
  | .bdAtomic st _ => st < 12
  | .bdDrop st _ => st < 12
  | .bdTileRead st _ => st < 12
  | .bdDiagnosticRead st _ => st < 12
  | .bdReply st _ => st < 12
  | .mpTimeout st _ => st < 12
  | .backoffEnd st pch bank => st < 12 && pch < 64 && bank < 16
  | .refresh st pch => st < 12 && pch < 64
  | .scrubGranule st => st < 12
  | .ceStartGrant die => die < 8
  | .copySector k ch => k < 2048 && ch < 4
  | .barrierPitch _ => true
  | .waitmTimeout k => k < 2048
  | .waitmWake k => k < 2048
  | .regionWrapResume k => k < 2048
  | .watchdog k => k < 2048
  | .sqtailWrite vf q _ => vf < 64 && q < 4
  | .sqNode vf q => vf < 64 && q < 4
  | .sqMbox vf q => vf < 64 && q < 4
  | .nodeReady vf _ => vf < 64
  | .bind k _ => k < 2048
  | .dispatch k => k < 2048
  | .save k _ => k < 2048
  | .saveComplete k => k < 2048
  | .free k => k < 2048
  | .quantumExpiry _ => true
  | .pageInComplete buf off => buf < 2 ^ 20 && off < 2 ^ 48
  | .extinvBuf _ => true
  | .extinvAll _ => true
  | .extinvComplete => true
  | .keyLoad _ => true
  | .keyLoadComplete => true
  | .keyErase _ => true
  | .waysplitWrite die _ => die < 8
  | .vfpartWrite vf _ => vf < 64
  | .partharnWrite _ => true
  | .partitionModeChange _ maps => maps.all fun x => x.1 < 8
  | .vfReset vf => vf < 64
  | .stopInterface vf => vf < 64
  | .tdispChangeRequest vf _ change => vf < 64 && change.ok
  | .challenge slot => slot < 8
  | .getMeasurements slot => slot < 8
  | .recoverableFault u => u.ok
  | .freezeArm _ => true
  | .freeze => true
  | .debugHalt k => k < 2048
  | .debugResume k => k < 2048
  | .throttleStep die => die < 8
  | .throttleRaise die => die < 8
  | .coldReset => true
  | .warmReset => true
  | .registerWrite r _ => r.ok
  | .lockInterface vf => vf < 64
  | .startInterface vf => vf < 64
  | .keyExchange vf => vf ≤ 64
  | .ideStreamKeying vf => vf < 64
  | .linkStop die link vc => die < 8 && link < 4 && vc < 4
  | .linkGo die link vc => die < 8 && link < 4 && vc < 4
  | .dirtyLineWriteBack _ => true
  | .tableEntryChange pa data => tableOk pa data

/-- The words of Table 4-12 and Table 4-14: what a fetch can find. The other constructors are device events. -/
def Instr.isWord : Instr → Bool
  | .nop _ _ => true
  | .halt _ _ => true
  | .jmp _ _ => true
  | .jmpR _ _ => true
  | .call _ _ => true
  | .callR _ _ => true
  | .ret _ _ => true
  | .br _ _ => true
  | .brI _ _ => true
  | .brz _ _ => true
  | .brnz _ _ => true
  | .loop _ _ => true
  | .loopI _ _ => true
  | .sloop _ _ => true
  | .trap _ _ => true
  | .tret _ _ => true
  | .brk _ _ => true
  | .yield _ _ => true
  | .csrr _ _ => true
  | .csrw _ _ => true
  | .csrs _ _ => true
  | .csrc _ _ => true
  | .locq _ _ => true
  | .launch _ _ => true
  | .region _ _ => true
  | .fence _ _ => true
  | .monitor _ _ => true
  | .waitm _ _ => true
  | .pause _ _ => true
  | .add _ _ => true
  | .addI _ _ => true
  | .sub _ _ => true
  | .mul _ _ => true
  | .mulI _ _ => true
  | .mulh _ _ => true
  | .div _ _ => true
  | .rem _ _ => true
  | .and _ _ => true
  | .andI _ _ => true
  | .or _ _ => true
  | .orI _ _ => true
  | .xor _ _ => true
  | .xorI _ _ => true
  | .shl _ _ => true
  | .shlI _ _ => true
  | .shr _ _ => true
  | .shrI _ _ => true
  | .sar _ _ => true
  | .sarI _ _ => true
  | .cmp _ _ => true
  | .cmpI _ _ => true
  | .sel _ _ => true
  | .li _ _ => true
  | .lih _ _ => true
  | .clz _ _ => true
  | .popc _ _ => true
  | .min _ _ => true
  | .max _ _ => true
  | .rotl _ _ => true
  | .rotr _ _ => true
  | .ldB _ _ => true
  | .ldH _ _ => true
  | .ldW _ _ => true
  | .ldD _ _ => true
  | .stB _ _ => true
  | .stH _ _ => true
  | .stW _ _ => true
  | .stD _ _ => true
  | .ldBx _ _ => true
  | .ldHx _ _ => true
  | .ldWx _ _ => true
  | .ldDx _ _ => true
  | .stBx _ _ => true
  | .stHx _ _ => true
  | .stWx _ _ => true
  | .stDx _ _ => true
  | .amoW _ _ => true
  | .amoD _ _ => true
  | .casW _ _ => true
  | .casD _ _ => true
  | .ldcap _ _ => true
  | .cderive _ _ => true
  | .cadd _ _ => true
  | .caddI _ _ => true
  | .crestrict _ _ => true
  | .cread _ _ => true
  | .cwb _ _ => true
  | .pref _ _ => true
  | .vld _ _ => true
  | .vldS _ _ => true
  | .vldb _ _ => true
  | .vst _ _ => true
  | .vstS _ _ => true
  | .vstSStream _ _ => true
  | .vldx _ _ => true
  | .vstx _ _ => true
  | .vbind _ _ => true
  | .vunbind _ _ => true
  | .copy _ _ => true
  | .copyq _ _ => true
  | .barinit _ _ => true
  | .barrive _ _ => true
  | .barwait _ _ => true
  | .barsync _ _ => true
  | .barquery _ _ => true
  | .hbar _ _ => true
  | .vadd _ _ => true
  | .vaddVs _ _ => true
  | .vsub _ _ => true
  | .vsubVs _ _ => true
  | .vmul _ _ => true
  | .vmulVs _ _ => true
  | .vfma _ _ => true
  | .vfmaVs _ _ => true
  | .vfms _ _ => true
  | .vfmsVs _ _ => true
  | .vfnma _ _ => true
  | .vfnmaVs _ _ => true
  | .vdiv _ _ => true
  | .vdivVs _ _ => true
  | .vmin _ _ => true
  | .vminVs _ _ => true
  | .vmax _ _ => true
  | .vmaxVs _ _ => true
  | .vand _ _ => true
  | .vandVs _ _ => true
  | .vor _ _ => true
  | .vorVs _ _ => true
  | .vxor _ _ => true
  | .vxorVs _ _ => true
  | .vshl _ _ => true
  | .vshlVs _ _ => true
  | .vshr _ _ => true
  | .vshrVs _ _ => true
  | .vshra _ _ => true
  | .vshraVs _ _ => true
  | .vmulh _ _ => true
  | .vmulhVs _ _ => true
  | .vcmp _ _ => true
  | .vcmpVs _ _ => true
  | .vclamp _ _ => true
  | .vclampVs _ _ => true
  | .vsel _ _ => true
  | .vabs _ _ => true
  | .vneg _ _ => true
  | .vsqrt _ _ => true
  | .vcvt _ _ => true
  | .vcvtSr _ _ => true
  | .vsplat _ _ => true
  | .vred _ _ => true
  | .vscan _ _ => true
  | .vslide _ _ => true
  | .vperm _ _ => true
  | .vget _ _ => true
  | .vput _ _ => true
  | .viota _ _ => true
  | .vdot _ _ => true
  | .mop _ _ => true
  | .mpop _ _ => true
  | .vfirst _ _ => true
  | .vsetshape _ _ => true
  | .vsetl _ _ => true
  | .vsetlI _ _ => true
  | .vtag _ _ => true
  | .vclz _ _ => true
  | .vpopc _ _ => true
  | .vcompress _ _ => true
  | .vexpand _ _ => true
  | .modeVec _ _ => true
  | .modeWs _ _ => true
  | .modeRs _ _ => true
  | .mma _ _ => true
  | .mwld _ _ => true
  | .mdrain _ _ => true
  | .mzero _ _ => true
  | .rope _ _ => true
  | .sfn _ _ => true
  | .sfload _ _ => true
  | .mstat _ _ => true
  | .illegalOp _ => true
  | .emulWindow _ => true
  | .undefOp _ => true
  | .tagArrival _ _ => false
  | .drainComplete _ => false
  | .arrayPowerGrant _ => false
  | .arrayPowerDown _ _ => false
  | .mmaFinish _ => false
  | .ropeTimeout _ => false
  | .poolMove _ => false
  | .l1dLineExpiry _ _ _ => false
  | .ackTimeout _ => false
  | .linkRead _ => false
  | .linkWrite _ => false
  | .linkAtomic _ => false
  | .linkInvalidate _ => false
  | .linkBarrierArrival _ => false
  | .linkBarrierRelease _ => false
  | .linkReadData _ => false
  | .linkWriteAck _ => false
  | .linkAtomicResult _ => false
  | .linkInvalidationAck _ => false
  | .linkRefusal _ => false
  | .bdRead _ _ => false
  | .bdWrite _ _ => false
  | .bdMaskedWrite _ _ => false
  | .bdAtomic _ _ => false
  | .bdDrop _ _ => false
  | .bdTileRead _ _ => false
  | .bdDiagnosticRead _ _ => false
  | .bdReply _ _ => false
  | .mpTimeout _ _ => false
  | .backoffEnd _ _ _ => false
  | .refresh _ _ => false
  | .scrubGranule _ => false
  | .ceStartGrant _ => false
  | .copySector _ _ => false
  | .barrierPitch _ => false
  | .waitmTimeout _ => false
  | .waitmWake _ => false
  | .regionWrapResume _ => false
  | .watchdog _ => false
  | .sqtailWrite _ _ _ => false
  | .sqNode _ _ => false
  | .sqMbox _ _ => false
  | .nodeReady _ _ => false
  | .bind _ _ => false
  | .dispatch _ => false
  | .save _ _ => false
  | .saveComplete _ => false
  | .free _ => false
  | .quantumExpiry _ => false
  | .pageInComplete _ _ => false
  | .extinvBuf _ => false
  | .extinvAll _ => false
  | .extinvComplete => false
  | .keyLoad _ => false
  | .keyLoadComplete => false
  | .keyErase _ => false
  | .waysplitWrite _ _ => false
  | .vfpartWrite _ _ => false
  | .partharnWrite _ => false
  | .partitionModeChange _ _ => false
  | .vfReset _ => false
  | .stopInterface _ => false
  | .tdispChangeRequest _ _ _ => false
  | .challenge _ => false
  | .getMeasurements _ => false
  | .recoverableFault _ => false
  | .freezeArm _ => false
  | .freeze => false
  | .debugHalt _ => false
  | .debugResume _ => false
  | .throttleStep _ => false
  | .throttleRaise _ => false
  | .coldReset => false
  | .warmReset => false
  | .registerWrite _ _ => false
  | .lockInterface _ => false
  | .startInterface _ => false
  | .keyExchange _ => false
  | .ideStreamKeying _ => false
  | .linkStop _ _ _ => false
  | .linkGo _ _ _ => false
  | .dirtyLineWriteBack _ => false
  | .tableEntryChange _ _ => false

end Sys2Proof
end

