-- ==== Sys2Proof/Decode.lean ====
section
/-! DEFINITION. Decode.lean: the words of the instruction set (04 R72, R75, R86 to R96): the fields of each format, the opcode
map of Table 4-12, the fates of Table 4-14, and the encoder. Decoding is total: a word of an assigned opcode that fails its
encoding rules is rejected by name (illegalEnc), and so is a byte string shorter than one word. -/

namespace Sys2Proof

/-- Why a byte string is no instruction: ILLEGAL_ENC (R96), or fewer than ten bytes. -/
inductive DecodeError where
  | illegalEnc | tooShort
  deriving DecidableEq, Repr

/-- Bits 71:57 (Table 4-1). -/
def parseHdr (w : IWord) : Hdr :=
  { pd := w.extractLsb' 69 3, ta := w.extractLsb' 65 4, tc0 := w.extractLsb' 61 4, tc1 := w.extractLsb' 57 4 }

/-- Table 4-2. -/
def parseA (w : IWord) : FmtA :=
  { d := w.extractLsb' 51 6, a := w.extractLsb' 45 6, b := w.extractLsb' 39 6, e := w.extractLsb' 33 6,
    cond := w.extractLsb' 29 4, z := w.extractLsb' 0 29 }

/-- Table 4-3. -/
def parseB (w : IWord) : FmtB :=
  { d := w.extractLsb' 51 6, a := w.extractLsb' 45 6, cond := w.extractLsb' 41 4, z := w.extractLsb' 32 9,
    imm := w.extractLsb' 0 32 }

/-- Table 4-4. -/
def parseK (w : IWord) : FmtK :=
  { d := w.extractLsb' 51 6, z := w.extractLsb' 48 3, imm := w.extractLsb' 0 48 }

/-- Table 4-5. -/
def parseM (w : IWord) : FmtM :=
  { d := w.extractLsb' 51 6, c := w.extractLsb' 45 6, x := w.extractLsb' 39 6, e := w.extractLsb' 33 6,
    scope := w.extractLsb' 30 3, ord := w.extractLsb' 28 2, bel := w.extractLsb' 27 1, far := w.extractLsb' 26 1,
    aop := w.extractLsb' 22 4, mask := w.extractLsb' 19 3, off := w.extractLsb' 0 19 }

/-- Table 4-6. -/
def parseV (w : IWord) : FmtV :=
  { vd := w.extractLsb' 51 6, va := w.extractLsb' 45 6, vb := w.extractLsb' 39 6, vc := w.extractLsb' 33 6,
    mask := w.extractLsb' 30 3, mz := w.extractLsb' 29 1, rm := w.extractLsb' 27 2, ftzi := w.extractLsb' 26 1,
    ftzo := w.extractLsb' 25 1, sat := w.extractLsb' 24 1, fn := w.extractLsb' 20 4, imm := w.extractLsb' 0 20 }

/-- Table 4-7. -/
def parseJ (w : IWord) : FmtJ :=
  { a := w.extractLsb' 51 6, b := w.extractLsb' 45 6, lo := w.extractLsb' 41 4, cond := w.extractLsb' 37 4,
    z := w.extractLsb' 32 5, off := w.extractLsb' 0 32 }

/-- Table 4-8. -/
def parseL (w : IWord) : FmtL :=
  { a := w.extractLsb' 51 6, z0 := w.extractLsb' 48 3, imm := w.extractLsb' 32 16, z1 := w.extractLsb' 16 16,
    fin := w.extractLsb' 0 16 }

/-- Table 4-10. -/
def parseY (w : IWord) : FmtY :=
  { d := w.extractLsb' 51 6, a := w.extractLsb' 45 6, b := w.extractLsb' 39 6, e := w.extractLsb' 33 6,
    scope := w.extractLsb' 30 3, fn := w.extractLsb' 20 10, imm := w.extractLsb' 0 20 }

/-- Table 4-11, the matrix words. -/
def parseX (w : IWord) : FmtX :=
  { vd := w.extractLsb' 51 6, va := w.extractLsb' 45 6, vb := w.extractLsb' 39 6, g := w.extractLsb' 33 6,
    n := w.extractLsb' 27 6, msel := w.extractLsb' 24 3, fn := w.extractLsb' 20 4, imm := w.extractLsb' 0 20 }

/-- Table 4-11, SFN and SFLOAD. -/
def parseS (w : IWord) : FmtS :=
  { vd := w.extractLsb' 51 6, va := w.extractLsb' 45 6, z0 := w.extractLsb' 33 12, mask := w.extractLsb' 30 3,
    mz := w.extractLsb' 29 1, rm := w.extractLsb' 27 2, ftzi := w.extractLsb' 26 1, ftzo := w.extractLsb' 25 1,
    fid := w.extractLsb' 20 5, z1 := w.extractLsb' 0 20 }

/-- Row 0x0_ of Table 4-12, by the low four bits of OP. -/
def parseRow0 (w : IWord) : Nat → Option Instr
  | 1 => some (.nop (parseHdr w) (parseY w))
  | 2 => some (.halt (parseHdr w) (parseY w))
  | 3 => some (.jmp (parseHdr w) (parseJ w))
  | 4 => some (.jmpR (parseHdr w) (parseJ w))
  | 5 => some (.call (parseHdr w) (parseJ w))
  | 6 => some (.callR (parseHdr w) (parseJ w))
  | 7 => some (.ret (parseHdr w) (parseJ w))
  | 8 => some (.br (parseHdr w) (parseJ w))
  | 9 => some (.brI (parseHdr w) (parseJ w))
  | 10 => some (.brz (parseHdr w) (parseJ w))
  | 11 => some (.brnz (parseHdr w) (parseJ w))
  | 12 => some (.loop (parseHdr w) (parseL w))
  | 13 => some (.loopI (parseHdr w) (parseL w))
  | 14 => some (.sloop (parseHdr w) (parseL w))
  | 15 => some (.trap (parseHdr w) (parseY w))
  | _ => none

/-- Row 0x1_ of Table 4-12, by the low four bits of OP. -/
def parseRow1 (w : IWord) : Nat → Option Instr
  | 0 => some (.tret (parseHdr w) (parseY w))
  | 1 => some (.brk (parseHdr w) (parseY w))
  | 2 => some (.yield (parseHdr w) (parseY w))
  | 3 => some (.csrr (parseHdr w) (parseY w))
  | 4 => some (.csrw (parseHdr w) (parseY w))
  | 5 => some (.csrs (parseHdr w) (parseY w))
  | 6 => some (.csrc (parseHdr w) (parseY w))
  | 7 => some (.locq (parseHdr w) (parseY w))
  | 8 => some (.launch (parseHdr w) (parseY w))
  | 9 => some (.region (parseHdr w) (parseY w))
  | 10 => some (.fence (parseHdr w) (parseY w))
  | 11 => some (.monitor (parseHdr w) (parseY w))
  | 12 => some (.waitm (parseHdr w) (parseY w))
  | 13 => some (.pause (parseHdr w) (parseY w))
  | _ => none

/-- Row 0x2_ of Table 4-12, by the low four bits of OP. -/
def parseRow2 (w : IWord) : Nat → Option Instr
  | 0 => some (.add (parseHdr w) (parseA w))
  | 1 => some (.addI (parseHdr w) (parseB w))
  | 2 => some (.sub (parseHdr w) (parseA w))
  | 3 => some (.mul (parseHdr w) (parseA w))
  | 4 => some (.mulI (parseHdr w) (parseB w))
  | 5 => some (.mulh (parseHdr w) (parseA w))
  | 6 => some (.div (parseHdr w) (parseA w))
  | 7 => some (.rem (parseHdr w) (parseA w))
  | 8 => some (.and (parseHdr w) (parseA w))
  | 9 => some (.andI (parseHdr w) (parseB w))
  | 10 => some (.or (parseHdr w) (parseA w))
  | 11 => some (.orI (parseHdr w) (parseB w))
  | 12 => some (.xor (parseHdr w) (parseA w))
  | 13 => some (.xorI (parseHdr w) (parseB w))
  | 14 => some (.shl (parseHdr w) (parseA w))
  | 15 => some (.shlI (parseHdr w) (parseB w))
  | _ => none

/-- Row 0x3_ of Table 4-12, by the low four bits of OP. -/
def parseRow3 (w : IWord) : Nat → Option Instr
  | 0 => some (.shr (parseHdr w) (parseA w))
  | 1 => some (.shrI (parseHdr w) (parseB w))
  | 2 => some (.sar (parseHdr w) (parseA w))
  | 3 => some (.sarI (parseHdr w) (parseB w))
  | 4 => some (.cmp (parseHdr w) (parseA w))
  | 5 => some (.cmpI (parseHdr w) (parseB w))
  | 6 => some (.sel (parseHdr w) (parseA w))
  | 7 => some (.li (parseHdr w) (parseK w))
  | 8 => some (.lih (parseHdr w) (parseK w))
  | 9 => some (.clz (parseHdr w) (parseA w))
  | 10 => some (.popc (parseHdr w) (parseA w))
  | 11 => some (.min (parseHdr w) (parseA w))
  | 12 => some (.max (parseHdr w) (parseA w))
  | 13 => some (.rotl (parseHdr w) (parseA w))
  | 14 => some (.rotr (parseHdr w) (parseA w))
  | _ => none

/-- Row 0x4_ of Table 4-12, by the low four bits of OP. -/
def parseRow4 (w : IWord) : Nat → Option Instr
  | 0 => some (.ldB (parseHdr w) (parseM w))
  | 1 => some (.ldH (parseHdr w) (parseM w))
  | 2 => some (.ldW (parseHdr w) (parseM w))
  | 3 => some (.ldD (parseHdr w) (parseM w))
  | 4 => some (.stB (parseHdr w) (parseM w))
  | 5 => some (.stH (parseHdr w) (parseM w))
  | 6 => some (.stW (parseHdr w) (parseM w))
  | 7 => some (.stD (parseHdr w) (parseM w))
  | 8 => some (.ldBx (parseHdr w) (parseM w))
  | 9 => some (.ldHx (parseHdr w) (parseM w))
  | 10 => some (.ldWx (parseHdr w) (parseM w))
  | 11 => some (.ldDx (parseHdr w) (parseM w))
  | 12 => some (.stBx (parseHdr w) (parseM w))
  | 13 => some (.stHx (parseHdr w) (parseM w))
  | 14 => some (.stWx (parseHdr w) (parseM w))
  | 15 => some (.stDx (parseHdr w) (parseM w))
  | _ => none

/-- Row 0x5_ of Table 4-12, by the low four bits of OP. -/
def parseRow5 (w : IWord) : Nat → Option Instr
  | 0 => some (.amoW (parseHdr w) (parseM w))
  | 1 => some (.amoD (parseHdr w) (parseM w))
  | 2 => some (.casW (parseHdr w) (parseM w))
  | 3 => some (.casD (parseHdr w) (parseM w))
  | 4 => some (.ldcap (parseHdr w) (parseY w))
  | 5 => some (.cderive (parseHdr w) (parseY w))
  | 6 => some (.cadd (parseHdr w) (parseY w))
  | 7 => some (.caddI (parseHdr w) (parseY w))
  | 8 => some (.crestrict (parseHdr w) (parseY w))
  | 9 => some (.cread (parseHdr w) (parseY w))
  | 10 => some (.cwb (parseHdr w) (parseY w))
  | 11 => some (.pref (parseHdr w) (parseM w))
  | _ => none

/-- Row 0x6_ of Table 4-12, by the low four bits of OP. -/
def parseRow6 (w : IWord) : Nat → Option Instr
  | 0 => some (.vld (parseHdr w) (parseM w))
  | 1 => some (.vldS (parseHdr w) (parseM w))
  | 2 => some (.vldb (parseHdr w) (parseM w))
  | 3 => some (.vst (parseHdr w) (parseM w))
  | 4 => some (if (parseM w).x == 0 then .vstSStream (parseHdr w) (parseM w) else .vstS (parseHdr w) (parseM w))
  | 5 => some (.vldx (parseHdr w) (parseM w))
  | 6 => some (.vstx (parseHdr w) (parseM w))
  | 7 => some (.vbind (parseHdr w) (parseY w))
  | 8 => some (.vunbind (parseHdr w) (parseY w))
  | 9 => some (.copy (parseHdr w) (parseY w))
  | 10 => some (.copyq (parseHdr w) (parseY w))
  | 11 => some (.barinit (parseHdr w) (parseY w))
  | 12 => some (.barrive (parseHdr w) (parseY w))
  | 13 => some (.barwait (parseHdr w) (parseY w))
  | 14 => some (.barsync (parseHdr w) (parseY w))
  | 15 => some (.barquery (parseHdr w) (parseY w))
  | _ => none

/-- Row 0x7_ of Table 4-12, by the low four bits of OP. -/
def parseRow7 (w : IWord) : Nat → Option Instr
  | 0 => some (.hbar (parseHdr w) (parseY w))
  | _ => none

/-- Row 0x8_ of Table 4-12, by the low four bits of OP. -/
def parseRow8 (w : IWord) : Nat → Option Instr
  | 0 => some (.vadd (parseHdr w) (parseV w))
  | 1 => some (.vaddVs (parseHdr w) (parseV w))
  | 2 => some (.vsub (parseHdr w) (parseV w))
  | 3 => some (.vsubVs (parseHdr w) (parseV w))
  | 4 => some (.vmul (parseHdr w) (parseV w))
  | 5 => some (.vmulVs (parseHdr w) (parseV w))
  | 6 => some (.vfma (parseHdr w) (parseV w))
  | 7 => some (.vfmaVs (parseHdr w) (parseV w))
  | 8 => some (.vfms (parseHdr w) (parseV w))
  | 9 => some (.vfmsVs (parseHdr w) (parseV w))
  | 10 => some (.vfnma (parseHdr w) (parseV w))
  | 11 => some (.vfnmaVs (parseHdr w) (parseV w))
  | 12 => some (.vdiv (parseHdr w) (parseV w))
  | 13 => some (.vdivVs (parseHdr w) (parseV w))
  | 14 => some (.vmin (parseHdr w) (parseV w))
  | 15 => some (.vminVs (parseHdr w) (parseV w))
  | _ => none

/-- Row 0x9_ of Table 4-12, by the low four bits of OP. -/
def parseRow9 (w : IWord) : Nat → Option Instr
  | 0 => some (.vmax (parseHdr w) (parseV w))
  | 1 => some (.vmaxVs (parseHdr w) (parseV w))
  | 2 => some (.vand (parseHdr w) (parseV w))
  | 3 => some (.vandVs (parseHdr w) (parseV w))
  | 4 => some (.vor (parseHdr w) (parseV w))
  | 5 => some (.vorVs (parseHdr w) (parseV w))
  | 6 => some (.vxor (parseHdr w) (parseV w))
  | 7 => some (.vxorVs (parseHdr w) (parseV w))
  | 8 => some (.vshl (parseHdr w) (parseV w))
  | 9 => some (.vshlVs (parseHdr w) (parseV w))
  | 10 => some (.vshr (parseHdr w) (parseV w))
  | 11 => some (.vshrVs (parseHdr w) (parseV w))
  | 12 => some (.vshra (parseHdr w) (parseV w))
  | 13 => some (.vshraVs (parseHdr w) (parseV w))
  | 14 => some (.vmulh (parseHdr w) (parseV w))
  | 15 => some (.vmulhVs (parseHdr w) (parseV w))
  | _ => none

/-- Row 0xA_ of Table 4-12, by the low four bits of OP. -/
def parseRowA (w : IWord) : Nat → Option Instr
  | 0 => some (.vcmp (parseHdr w) (parseV w))
  | 1 => some (.vcmpVs (parseHdr w) (parseV w))
  | 2 => some (.vclamp (parseHdr w) (parseV w))
  | 3 => some (.vclampVs (parseHdr w) (parseV w))
  | 4 => some (.vsel (parseHdr w) (parseV w))
  | 5 => some (.vabs (parseHdr w) (parseV w))
  | 6 => some (.vneg (parseHdr w) (parseV w))
  | 7 => some (.vsqrt (parseHdr w) (parseV w))
  | 8 => some (.vcvt (parseHdr w) (parseV w))
  | 9 => some (.vcvtSr (parseHdr w) (parseV w))
  | 10 => some (.vsplat (parseHdr w) (parseV w))
  | 11 => some (.vred (parseHdr w) (parseV w))
  | 12 => some (.vscan (parseHdr w) (parseV w))
  | 13 => some (.vslide (parseHdr w) (parseV w))
  | 14 => some (.vperm (parseHdr w) (parseV w))
  | 15 => some (.vget (parseHdr w) (parseV w))
  | _ => none

/-- Row 0xB_ of Table 4-12, by the low four bits of OP. -/
def parseRowB (w : IWord) : Nat → Option Instr
  | 0 => some (.vput (parseHdr w) (parseV w))
  | 1 => some (.viota (parseHdr w) (parseV w))
  | 2 => some (.vdot (parseHdr w) (parseV w))
  | 3 => some (.mop (parseHdr w) (parseV w))
  | 4 => some (.mpop (parseHdr w) (parseV w))
  | 5 => some (.vfirst (parseHdr w) (parseV w))
  | 6 => some (.vsetshape (parseHdr w) (parseV w))
  | 7 => some (.vsetl (parseHdr w) (parseV w))
  | 8 => some (.vsetlI (parseHdr w) (parseV w))
  | 9 => some (.vtag (parseHdr w) (parseV w))
  | 10 => some (.vclz (parseHdr w) (parseV w))
  | 11 => some (.vpopc (parseHdr w) (parseV w))
  | 12 => some (.vcompress (parseHdr w) (parseV w))
  | 13 => some (.vexpand (parseHdr w) (parseV w))
  | _ => none

/-- Row 0xC_ of Table 4-12, by the low four bits of OP. -/
def parseRowC (w : IWord) : Nat → Option Instr
  | 0 => some (if (parseX w).msel == 1 then .modeWs (parseHdr w) (parseX w) else if (parseX w).msel == 2 then .modeRs (parseHdr w) (parseX w) else .modeVec (parseHdr w) (parseX w))
  | 1 => some (.mma (parseHdr w) (parseX w))
  | 2 => some (.mwld (parseHdr w) (parseX w))
  | 3 => some (.mdrain (parseHdr w) (parseX w))
  | 4 => some (.mzero (parseHdr w) (parseX w))
  | 5 => some (.rope (parseHdr w) (parseX w))
  | 6 => some (.sfn (parseHdr w) (parseS w))
  | 7 => some (.sfload (parseHdr w) (parseS w))
  | 8 => some (.mstat (parseHdr w) (parseX w))
  | _ => none

/-- The instruction form that the opcode of w names (R94), with the fields of its format; none for an unassigned opcode. -/
def parseAssigned (w : IWord) : Option Instr :=
  match (opOf w).toNat / 16 with
  | 0 => parseRow0 w ((opOf w).toNat % 16)
  | 1 => parseRow1 w ((opOf w).toNat % 16)
  | 2 => parseRow2 w ((opOf w).toNat % 16)
  | 3 => parseRow3 w ((opOf w).toNat % 16)
  | 4 => parseRow4 w ((opOf w).toNat % 16)
  | 5 => parseRow5 w ((opOf w).toNat % 16)
  | 6 => parseRow6 w ((opOf w).toNat % 16)
  | 7 => parseRow7 w ((opOf w).toNat % 16)
  | 8 => parseRow8 w ((opOf w).toNat % 16)
  | 9 => parseRow9 w ((opOf w).toNat % 16)
  | 10 => parseRowA w ((opOf w).toNat % 16)
  | 11 => parseRowB w ((opOf w).toNat % 16)
  | 12 => parseRowC w ((opOf w).toNat % 16)
  | _ => none

/-- The form that any word names: an assigned form, or the fate of its unassigned opcode (R96). -/
def parse (w : IWord) : Instr :=
  match parseAssigned w with
  | some i => i
  | none =>
    match fateOf w with
    | some .illegalOp => .illegalOp w
    | some .emulWindow => .emulWindow w
    | some .undefOp => .undefOp w
    | none => .undefOp w

/-- Decoding a word: its form when the encoding rules hold, ILLEGAL_ENC otherwise (R84 steps 2 and 3). -/
def decodeWord (w : IWord) : Except DecodeError Instr :=
  if (parse w).wf then .ok (parse w) else .error .illegalEnc

/-- The word of ten bytes, little-endian (R72). -/
def wordOfBytes (l : List Byte) : IWord :=
  BitVec.ofNat 80 (l.foldr (fun b n => b.toNat + 256 * n) 0)

/-- Decoding the bytes at a fetch: the first ten bytes are the word, the rest is returned (R72). -/
def decode (l : List Byte) : Except DecodeError (Instr × List Byte) :=
  if l.length < 10 then .error .tooShort
  else (decodeWord (wordOfBytes (l.take 10))).map (fun i => (i, l.drop 10))

/-- The ten bytes of a word, little-endian (R72). -/
def bytesOfWord (w : IWord) : List Byte := (List.range 10).map (fun i => w.extractLsb' (8 * i) 8)

/-- What the decoder reads from an instruction whose bits are w, bit 0 the least significant bit of its first byte. -/
def decodeTableWord (nbits w : Nat) : Option Instr :=
  match decode (bytesOfWord (BitVec.ofNat 80 (w % 2 ^ nbits))) with
  | .ok (i, _) => some i
  | .error _ => none

/-- A word from its opcode, header and 57-bit body, high fields first (Table 4-1). -/
def packWord (op : BitVec 8) (h : Hdr) (body : BitVec 57) : IWord := op ++ (h.pd ++ (h.ta ++ (h.tc0 ++ (h.tc1 ++ body))))

/-- Table 4-2. -/
def packA (op : BitVec 8) (h : Hdr) (b : FmtA) : IWord :=
  packWord op h (b.d ++ (b.a ++ (b.b ++ (b.e ++ (b.cond ++ b.z)))))

/-- Table 4-3. -/
def packB (op : BitVec 8) (h : Hdr) (b : FmtB) : IWord :=
  packWord op h (b.d ++ (b.a ++ (b.cond ++ (b.z ++ b.imm))))

/-- Table 4-4. -/
def packK (op : BitVec 8) (h : Hdr) (b : FmtK) : IWord :=
  packWord op h (b.d ++ (b.z ++ b.imm))

/-- Table 4-5. -/
def packM (op : BitVec 8) (h : Hdr) (b : FmtM) : IWord :=
  packWord op h (b.d ++ (b.c ++ (b.x ++ (b.e ++ (b.scope ++ (b.ord ++ (b.bel ++ (b.far ++ (b.aop ++ (b.mask ++ b.off))))))))))

/-- Table 4-6. -/
def packV (op : BitVec 8) (h : Hdr) (b : FmtV) : IWord :=
  packWord op h (b.vd ++ (b.va ++ (b.vb ++ (b.vc ++ (b.mask ++ (b.mz ++ (b.rm ++ (b.ftzi ++ (b.ftzo ++ (b.sat ++ (b.fn ++ b.imm)))))))))))

/-- Table 4-7. -/
def packJ (op : BitVec 8) (h : Hdr) (b : FmtJ) : IWord :=
  packWord op h (b.a ++ (b.b ++ (b.lo ++ (b.cond ++ (b.z ++ b.off)))))

/-- Table 4-8. -/
def packL (op : BitVec 8) (h : Hdr) (b : FmtL) : IWord :=
  packWord op h (b.a ++ (b.z0 ++ (b.imm ++ (b.z1 ++ b.fin))))

/-- Table 4-10. -/
def packY (op : BitVec 8) (h : Hdr) (b : FmtY) : IWord :=
  packWord op h (b.d ++ (b.a ++ (b.b ++ (b.e ++ (b.scope ++ (b.fn ++ b.imm))))))

/-- Table 4-11. -/
def packX (op : BitVec 8) (h : Hdr) (b : FmtX) : IWord :=
  packWord op h (b.vd ++ (b.va ++ (b.vb ++ (b.g ++ (b.n ++ (b.msel ++ (b.fn ++ b.imm)))))))

/-- Table 4-11. -/
def packS (op : BitVec 8) (h : Hdr) (b : FmtS) : IWord :=
  packWord op h (b.vd ++ (b.va ++ (b.z0 ++ (b.mask ++ (b.mz ++ (b.rm ++ (b.ftzi ++ (b.ftzo ++ (b.fid ++ b.z1)))))))))

/-- The word of an instruction form, from the layouts of Tables 4-1 to 4-11 and the opcodes of Table 4-12. An event has none. -/
def encode : Instr → Option IWord
  | .nop h b => some (packY 0x01 h b)
  | .halt h b => some (packY 0x02 h b)
  | .jmp h b => some (packJ 0x03 h b)
  | .jmpR h b => some (packJ 0x04 h b)
  | .call h b => some (packJ 0x05 h b)
  | .callR h b => some (packJ 0x06 h b)
  | .ret h b => some (packJ 0x07 h b)
  | .br h b => some (packJ 0x08 h b)
  | .brI h b => some (packJ 0x09 h b)
  | .brz h b => some (packJ 0x0A h b)
  | .brnz h b => some (packJ 0x0B h b)
  | .loop h b => some (packL 0x0C h b)
  | .loopI h b => some (packL 0x0D h b)
  | .sloop h b => some (packL 0x0E h b)
  | .trap h b => some (packY 0x0F h b)
  | .tret h b => some (packY 0x10 h b)
  | .brk h b => some (packY 0x11 h b)
  | .yield h b => some (packY 0x12 h b)
  | .csrr h b => some (packY 0x13 h b)
  | .csrw h b => some (packY 0x14 h b)
  | .csrs h b => some (packY 0x15 h b)
  | .csrc h b => some (packY 0x16 h b)
  | .locq h b => some (packY 0x17 h b)
  | .launch h b => some (packY 0x18 h b)
  | .region h b => some (packY 0x19 h b)
  | .fence h b => some (packY 0x1A h b)
  | .monitor h b => some (packY 0x1B h b)
  | .waitm h b => some (packY 0x1C h b)
  | .pause h b => some (packY 0x1D h b)
  | .add h b => some (packA 0x20 h b)
  | .addI h b => some (packB 0x21 h b)
  | .sub h b => some (packA 0x22 h b)
  | .mul h b => some (packA 0x23 h b)
  | .mulI h b => some (packB 0x24 h b)
  | .mulh h b => some (packA 0x25 h b)
  | .div h b => some (packA 0x26 h b)
  | .rem h b => some (packA 0x27 h b)
  | .and h b => some (packA 0x28 h b)
  | .andI h b => some (packB 0x29 h b)
  | .or h b => some (packA 0x2A h b)
  | .orI h b => some (packB 0x2B h b)
  | .xor h b => some (packA 0x2C h b)
  | .xorI h b => some (packB 0x2D h b)
  | .shl h b => some (packA 0x2E h b)
  | .shlI h b => some (packB 0x2F h b)
  | .shr h b => some (packA 0x30 h b)
  | .shrI h b => some (packB 0x31 h b)
  | .sar h b => some (packA 0x32 h b)
  | .sarI h b => some (packB 0x33 h b)
  | .cmp h b => some (packA 0x34 h b)
  | .cmpI h b => some (packB 0x35 h b)
  | .sel h b => some (packA 0x36 h b)
  | .li h b => some (packK 0x37 h b)
  | .lih h b => some (packK 0x38 h b)
  | .clz h b => some (packA 0x39 h b)
  | .popc h b => some (packA 0x3A h b)
  | .min h b => some (packA 0x3B h b)
  | .max h b => some (packA 0x3C h b)
  | .rotl h b => some (packA 0x3D h b)
  | .rotr h b => some (packA 0x3E h b)
  | .ldB h b => some (packM 0x40 h b)
  | .ldH h b => some (packM 0x41 h b)
  | .ldW h b => some (packM 0x42 h b)
  | .ldD h b => some (packM 0x43 h b)
  | .stB h b => some (packM 0x44 h b)
  | .stH h b => some (packM 0x45 h b)
  | .stW h b => some (packM 0x46 h b)
  | .stD h b => some (packM 0x47 h b)
  | .ldBx h b => some (packM 0x48 h b)
  | .ldHx h b => some (packM 0x49 h b)
  | .ldWx h b => some (packM 0x4A h b)
  | .ldDx h b => some (packM 0x4B h b)
  | .stBx h b => some (packM 0x4C h b)
  | .stHx h b => some (packM 0x4D h b)
  | .stWx h b => some (packM 0x4E h b)
  | .stDx h b => some (packM 0x4F h b)
  | .amoW h b => some (packM 0x50 h b)
  | .amoD h b => some (packM 0x51 h b)
  | .casW h b => some (packM 0x52 h b)
  | .casD h b => some (packM 0x53 h b)
  | .ldcap h b => some (packY 0x54 h b)
  | .cderive h b => some (packY 0x55 h b)
  | .cadd h b => some (packY 0x56 h b)
  | .caddI h b => some (packY 0x57 h b)
  | .crestrict h b => some (packY 0x58 h b)
  | .cread h b => some (packY 0x59 h b)
  | .cwb h b => some (packY 0x5A h b)
  | .pref h b => some (packM 0x5B h b)
  | .vld h b => some (packM 0x60 h b)
  | .vldS h b => some (packM 0x61 h b)
  | .vldb h b => some (packM 0x62 h b)
  | .vst h b => some (packM 0x63 h b)
  | .vstS h b => some (packM 0x64 h b)
  | .vstSStream h b => some (packM 0x64 h b)
  | .vldx h b => some (packM 0x65 h b)
  | .vstx h b => some (packM 0x66 h b)
  | .vbind h b => some (packY 0x67 h b)
  | .vunbind h b => some (packY 0x68 h b)
  | .copy h b => some (packY 0x69 h b)
  | .copyq h b => some (packY 0x6A h b)
  | .barinit h b => some (packY 0x6B h b)
  | .barrive h b => some (packY 0x6C h b)
  | .barwait h b => some (packY 0x6D h b)
  | .barsync h b => some (packY 0x6E h b)
  | .barquery h b => some (packY 0x6F h b)
  | .hbar h b => some (packY 0x70 h b)
  | .vadd h b => some (packV 0x80 h b)
  | .vaddVs h b => some (packV 0x81 h b)
  | .vsub h b => some (packV 0x82 h b)
  | .vsubVs h b => some (packV 0x83 h b)
  | .vmul h b => some (packV 0x84 h b)
  | .vmulVs h b => some (packV 0x85 h b)
  | .vfma h b => some (packV 0x86 h b)
  | .vfmaVs h b => some (packV 0x87 h b)
  | .vfms h b => some (packV 0x88 h b)
  | .vfmsVs h b => some (packV 0x89 h b)
  | .vfnma h b => some (packV 0x8A h b)
  | .vfnmaVs h b => some (packV 0x8B h b)
  | .vdiv h b => some (packV 0x8C h b)
  | .vdivVs h b => some (packV 0x8D h b)
  | .vmin h b => some (packV 0x8E h b)
  | .vminVs h b => some (packV 0x8F h b)
  | .vmax h b => some (packV 0x90 h b)
  | .vmaxVs h b => some (packV 0x91 h b)
  | .vand h b => some (packV 0x92 h b)
  | .vandVs h b => some (packV 0x93 h b)
  | .vor h b => some (packV 0x94 h b)
  | .vorVs h b => some (packV 0x95 h b)
  | .vxor h b => some (packV 0x96 h b)
  | .vxorVs h b => some (packV 0x97 h b)
  | .vshl h b => some (packV 0x98 h b)
  | .vshlVs h b => some (packV 0x99 h b)
  | .vshr h b => some (packV 0x9A h b)
  | .vshrVs h b => some (packV 0x9B h b)
  | .vshra h b => some (packV 0x9C h b)
  | .vshraVs h b => some (packV 0x9D h b)
  | .vmulh h b => some (packV 0x9E h b)
  | .vmulhVs h b => some (packV 0x9F h b)
  | .vcmp h b => some (packV 0xA0 h b)
  | .vcmpVs h b => some (packV 0xA1 h b)
  | .vclamp h b => some (packV 0xA2 h b)
  | .vclampVs h b => some (packV 0xA3 h b)
  | .vsel h b => some (packV 0xA4 h b)
  | .vabs h b => some (packV 0xA5 h b)
  | .vneg h b => some (packV 0xA6 h b)
  | .vsqrt h b => some (packV 0xA7 h b)
  | .vcvt h b => some (packV 0xA8 h b)
  | .vcvtSr h b => some (packV 0xA9 h b)
  | .vsplat h b => some (packV 0xAA h b)
  | .vred h b => some (packV 0xAB h b)
  | .vscan h b => some (packV 0xAC h b)
  | .vslide h b => some (packV 0xAD h b)
  | .vperm h b => some (packV 0xAE h b)
  | .vget h b => some (packV 0xAF h b)
  | .vput h b => some (packV 0xB0 h b)
  | .viota h b => some (packV 0xB1 h b)
  | .vdot h b => some (packV 0xB2 h b)
  | .mop h b => some (packV 0xB3 h b)
  | .mpop h b => some (packV 0xB4 h b)
  | .vfirst h b => some (packV 0xB5 h b)
  | .vsetshape h b => some (packV 0xB6 h b)
  | .vsetl h b => some (packV 0xB7 h b)
  | .vsetlI h b => some (packV 0xB8 h b)
  | .vtag h b => some (packV 0xB9 h b)
  | .vclz h b => some (packV 0xBA h b)
  | .vpopc h b => some (packV 0xBB h b)
  | .vcompress h b => some (packV 0xBC h b)
  | .vexpand h b => some (packV 0xBD h b)
  | .modeVec h b => some (packX 0xC0 h b)
  | .modeWs h b => some (packX 0xC0 h b)
  | .modeRs h b => some (packX 0xC0 h b)
  | .mma h b => some (packX 0xC1 h b)
  | .mwld h b => some (packX 0xC2 h b)
  | .mdrain h b => some (packX 0xC3 h b)
  | .mzero h b => some (packX 0xC4 h b)
  | .rope h b => some (packX 0xC5 h b)
  | .sfn h b => some (packS 0xC6 h b)
  | .sfload h b => some (packS 0xC7 h b)
  | .mstat h b => some (packX 0xC8 h b)
  | .illegalOp w => some w
  | .emulWindow w => some w
  | .undefOp w => some w
  | .tagArrival _ _ => none
  | .drainComplete _ => none
  | .arrayPowerGrant _ => none
  | .arrayPowerDown _ _ => none
  | .mmaFinish _ => none
  | .ropeTimeout _ => none
  | .poolMove _ => none
  | .l1dLineExpiry _ _ _ => none
  | .ackTimeout _ => none
  | .linkRead _ => none
  | .linkWrite _ => none
  | .linkAtomic _ => none
  | .linkInvalidate _ => none
  | .linkBarrierArrival _ => none
  | .linkBarrierRelease _ => none
  | .linkReadData _ => none
  | .linkWriteAck _ => none
  | .linkAtomicResult _ => none
  | .linkInvalidationAck _ => none
  | .linkRefusal _ => none
  | .bdRead _ _ => none
  | .bdWrite _ _ => none
  | .bdMaskedWrite _ _ => none
  | .bdAtomic _ _ => none
  | .bdDrop _ _ => none
  | .bdTileRead _ _ => none
  | .bdDiagnosticRead _ _ => none
  | .bdReply _ _ => none
  | .mpTimeout _ _ => none
  | .backoffEnd _ _ _ => none
  | .refresh _ _ => none
  | .scrubGranule _ => none
  | .ceStartGrant _ => none
  | .copySector _ _ => none
  | .barrierPitch _ => none
  | .waitmTimeout _ => none
  | .waitmWake _ => none
  | .regionWrapResume _ => none
  | .watchdog _ => none
  | .sqtailWrite _ _ _ => none
  | .sqNode _ _ => none
  | .sqMbox _ _ => none
  | .nodeReady _ _ => none
  | .bind _ _ => none
  | .dispatch _ => none
  | .save _ _ => none
  | .saveComplete _ => none
  | .free _ => none
  | .quantumExpiry _ => none
  | .pageInComplete _ _ => none
  | .extinvBuf _ => none
  | .extinvAll _ => none
  | .extinvComplete => none
  | .keyLoad _ => none
  | .keyLoadComplete => none
  | .keyErase _ => none
  | .waysplitWrite _ _ => none
  | .vfpartWrite _ _ => none
  | .partharnWrite _ => none
  | .partitionModeChange _ _ => none
  | .vfReset _ => none
  | .stopInterface _ => none
  | .tdispChangeRequest _ _ _ => none
  | .challenge _ => none
  | .getMeasurements _ => none
  | .recoverableFault _ => none
  | .freezeArm _ => none
  | .freeze => none
  | .debugHalt _ => none
  | .debugResume _ => none
  | .throttleStep _ => none
  | .throttleRaise _ => none
  | .coldReset => none
  | .warmReset => none
  | .registerWrite _ _ => none
  | .lockInterface _ => none
  | .startInterface _ => none
  | .keyExchange _ => none
  | .ideStreamKeying _ => none
  | .linkStop _ _ _ => none
  | .linkGo _ _ _ => none
  | .dirtyLineWriteBack _ => none
  | .tableEntryChange _ _ => none

end Sys2Proof
end

