-- ==== Sys2Proof/Machine/Flags.lean ====
section
/-! DEFINITION. Machine/Flags.lean: VFLAGS (03 R68) and the conditions of CMP, BR and VCMP (R370, R380, R447). -/

namespace Sys2Proof.Machine

/-- A word ORs the flags of its active elements into VFLAGS when it retires (R68). -/
def Ctx.orFlags (c : Ctx) (f : Flags) : Ctx := c.updCsr fun r => { r with vflags := r.vflags ||| f }

/-- COND of CMP and BR on 64 bits (R370): eq, ne, lt, ge signed, ltu, geu unsigned. -/
def condHolds (cond : BitVec 4) (x y : Word) : Bool :=
  if cond = 0 then x == y
  else if cond = 1 then x != y
  else if cond = 2 then x.slt y
  else if cond = 3 then !(x.slt y)
  else if cond = 4 then x.ult y
  else !(x.ult y)

/-- Whether VCMP's condition needs float tags (un), integer tags (the unsigned relations), or takes both (Table 23-5). -/
def vcmpLegal (t : Ety) (fn : Nat) : Bool :=
  if fn == 10 then t.isFloat else if 6 ≤ fn then t.isInt else t.isPlain

/-- The relation that FN names, on an order: eq, ne, lt, le, gt, ge. -/
def relHolds (fn : Nat) (o : Ordering) : Bool :=
  match fn, o with
  | 0, .eq => true
  | 1, .lt => true | 1, .gt => true
  | 2, .lt => true
  | 3, .lt => true | 3, .eq => true
  | 4, .gt => true
  | 5, .gt => true | 5, .eq => true
  | _, _ => false

/-- VCMP on two float values (Table 23-5): NaN makes ne and un true, the ordered relations false with NV. -/
def vcmpFloat (fn : Nat) (x y : Exact) : Bool × Flags :=
  match x.cmp y with
  | some o => (relHolds fn o, fNone)
  | none => (fn == 1 || fn == 10, if 2 ≤ fn && fn ≤ 5 then fNV else fNone)

/-- VCMP on two integer bit patterns of width w. -/
def vcmpInt (fn w : Nat) (x y : Nat) : Bool :=
  if 6 ≤ fn then relHolds (fn - 4) (compare x y) else relHolds fn (compare (sintOf w x) (sintOf w y))

end Sys2Proof.Machine
end

