-- ==== Sys2Proof/Machine/Ops.lean ====
section
/-! DEFINITION. Machine/Ops.lean: the named operations of a word on its context: what a word does to the machine (WR), tags and
commits (02 R41 to R43, 04 R79 to R82), the loop end test (06 R109), taking a trap and returning from one (16 R315 to R317),
and the issue of a word from its first check to its retirement (04 R76 to R84, 06 R105). -/

namespace Sys2Proof.Machine

/-- What a word does once its issue checks have passed: it retires (done), retires with a taken transfer to t that pops the loop
entries R110 names when pop holds (jump), raises a cause with its TRAPINFO (trap), raises a cause whose TRAPINFO is the word
itself (trapW, Table 16-4), or does not retire yet (stall). The state carries the effects made so far. -/
inductive WR (σ : Type) where
  | done (s : σ)
  | jump (s : σ) (t : Nat) (pop : Bool)
  | trap (s : σ) (c : Cause) (i0 i1 : Word)
  | trapW (s : σ) (c : Cause)
  | stall (s : σ)
  deriving Repr

/-- The result with its state changed. -/
def WR.map {σ τ : Type} (f : σ → τ) : WR σ → WR τ
  | .done s => .done (f s)
  | .jump s t p => .jump (f s) t p
  | .trap s c i0 i1 => .trap (f s) c i0 i1
  | .trapW s c => .trapW (f s) c
  | .stall s => .stall (f s)

/-- A word that acts on its own context only. -/
def onCtx (f : Ctx → WR Ctx) (s : State) : WR State := (f s.ctx).map fun c => { s with ctx := c }

/-! ### TRAPINFO (R319, Table 16-4) -/

/-- INFO0 of the memory layout: a byte offset in 47:0. -/
def mInfo0 (off : Nat) : Word := BitVec.ofNat 64 (off % 2 ^ 48)

/-- INFO1 of the memory layout: BUF and the capability register. -/
def mInfo1 (buf : BitVec 20) (creg : Nat) : Word := BitVec.ofNat 64 (buf.toNat + creg % 16 * 2 ^ 24)

/-- INFO0 of the word layout: word bits 63:0. -/
def wInfo0 (w : IWord) : Word := w.extractLsb' 0 64

/-- INFO1 of the word layout: word bits 79:64 in 15:0; VSTART in 44:32 for the causes that carry it. -/
def wInfo1 (w : IWord) (c : Cause) (vstart : Nat) : Word :=
  BitVec.ofNat 64 ((w.extractLsb' 64 16).toNat +
    (match c with
     | .noVstate | .type_ | .modeErr | .arrayHeld | .loopErr | .vlRange => vstart % 2 ^ 13 * 2 ^ 32
     | _ => 0))

/-! ### Taking a trap, the task fault, and the return (R315 to R317) -/

/-- TRAPCAUSE, TRAPPC and TRAPINFO0-1 after a trap at the PC (R315 step 1, Table 2-6). -/
def Ctx.noteTrap (c : Ctx) (cause : Cause) (i0 i1 : Word) : Ctx :=
  c.updCsr fun r => { r with
    trapcause := BitVec.ofNat 8 cause.code, trappc := BitVec.ofNat 32 c.regs.pc, trapinfo0 := i0, trapinfo1 := i1 }

/-- R315: a task fault. The slot goes to state 6 (Table 15-4), and keeps the cause, TRAPPC and TRAPINFO0 for the completion record
(R299, Table 15-7). DEDUCED (log 21): the four trap registers are written here too, since TRAPCAUSE is the cause of the last trap
(Table 2-6) and R317 has TRAPINFO describe the word of a task fault. -/
def Ctx.taskFault (c : Ctx) (cause : Cause) (i0 i1 : Word) : Ctx :=
  { c.noteTrap cause i0 i1 with
    bind := { c.bind with st := .faulted }, faultRec := some (cause, c.regs.pc, i0), wait := .none_, rest := [] }

/-- R315: the four steps of a delivery to the handler at word w. The distance count starts afresh (R77). The mark of a BARSYNC or HBAR that has
arrived is set aside with the loop stack, for the return to it (R366). -/
def Ctx.deliver (c : Ctx) (cause : Cause) (i0 i1 : Word) (h : Handler) (w : BitVec 32) : Ctx :=
  { (c.noteTrap cause i0 i1).upd (fun r => { r with
      aside := r.loops, loops := [], handler := h, pc := w.toNat, asideP := (r.barsyncP, r.hbarP), barsyncP := none, hbarP := none }) with
    hist := [], wait := .none_, rest := [] }

/-- Where a cause goes (R315, R317): a handler and its word, or none for a task fault. -/
def Ctx.trapTarget (c : Ctx) (cause : Cause) : Option (Handler × BitVec 32) :=
  match c.regs.handler with
  | .none_ =>
    match cause with
    | .undefOp | .emulWindow => c.launch.emulBase.map fun w => (.emulation, w)
    | .emulNested => none
    | _ => if c.launch.policy.getLsbD cause.code then c.launch.trapBase.map fun w => (.trap, w) else none
  | _ => none

/-- R317: an undefined or window opcode inside the emulation handler is EMUL_NESTED. -/
def Ctx.nestedCause (c : Ctx) (cause : Cause) : Cause :=
  match c.regs.handler, cause with
  | .emulation, .undefOp => .emulNested
  | .emulation, .emulWindow => .emulNested
  | _, _ => cause

/-- Taking a trap precisely at the word at the PC (R106, R315, R317). -/
def Ctx.takeTrap (c : Ctx) (cause : Cause) (i0 i1 : Word) : Ctx :=
  let cause := c.nestedCause cause
  match c.trapTarget cause with
  | some (h, w) => c.deliver cause i0 i1 h w
  | none => c.taskFault cause i0 i1

/-- The mark of an arrival that still holds at a PC: that of the word there. -/
def markAt (m : Option (Nat × BitVec 4)) (pc : Nat) : Option (Nat × BitVec 4) := m.filter fun x => x.1 == pc

/-- R316: the return from a handler. A BARSYNC or HBAR that it returns to resumes its wait (R366); one that the handler has moved TRAPPC past is
abandoned. -/
def Ctx.trapReturn (c : Ctx) : Ctx :=
  let pc := c.regs.csr.trappc.toNat
  { c with
    regs := { c.regs with
      pc := pc, loops := c.regs.aside, aside := [], handler := .none_,
      barsyncP := markAt c.regs.asideP.1 pc, hbarP := markAt c.regs.asideP.2 pc, asideP := (none, none) },
    hist := [] }

/-! ### Commits (R42, R43) -/

/-- The deferred-fault code of a cause (Table 16-4). -/
def deferCode : Cause → Nat
  | .permRemote => 1 | .page => 2 | .raceWW => 3 | .raceRW => 4 | .raceWR => 5 | .raceOvf => 6 | .barErr => 7 | _ => 0

/-- R197: a deferred fault enters the record, or the saturating count of further ones. -/
def Ctx.deferFault (c : Ctx) (d : DeferRec) : Ctx :=
  match c.regs.deferred with
  | none => c.upd fun r => { r with deferred := some d }
  | some _ => c.upd fun r => { r with deferCnt := if r.deferCnt = 0xFFFF then 0xFFFF else r.deferCnt + 1 }

/-- A failed tag's cause enters the deferred-fault record and the tag becomes empty (Table 2-4). -/
def Ctx.deferTag (c : Ctx) (t : Nat) : Ctx :=
  match (c.getTag t).st with
  | .failed f =>
    (c.setTag t { c.getTag t with st := .empty }).deferFault ⟨deferCode f.cause, f.pc, f.serial, f.buf, f.off⟩
  | _ => c

/-- The positions of an element list that a mask value selects, merged into data of width w. -/
def mergeData (w : Nat) (dst src : BitVec 65536) (pos : BitVec 8192) (n : Nat) : BitVec 65536 :=
  (List.range n).foldl (fun d i => if pos.getLsbD i then setBits d (i * w) w (getBits src (i * w) w) else d) dst

/-- The block scales that a block mask selects, merged. -/
def mergeScales (dst src : BitVec 10240) (blks : BitVec 512) (n : Nat) : BitVec 10240 :=
  (List.range n).foldl (fun d j => if blks.getLsbD j then setBits d (20 * j) 20 (getBits src (20 * j) 20) else d) dst

/-- R43: the landed data reach the destination register; the tag becomes empty. An SFN's flags have been raised at landing. -/
def Ctx.commit (c : Ctx) (t : Nat) : Ctx :=
  let g := c.getTag t
  match g.st with
  | .landed =>
    let c1 := c.setTag t { g with st := .empty }
    if g.vec then
      let l := c.getSlot g.slot
      let v := c.getV g.dst.toNat
      c1.setV g.dst.toNat
        { ty := l.ty, data := mergeData l.ty.width v.data l.data l.pos (c.capacity l.ty),
          scales := mergeScales v.scales l.scales l.blks (c.len / 4) }
    else c1.setS g.dst g.latch
  | _ => c

/-- The arrival of a pending result (R42): the tag is landed; an SFN ORs in its flags (R223). DEDUCED (log 76): the landing slot becomes dirty, as
R294 has it; the sum of Table 15-9 for the second save of its program leaves that slot out. -/
def Ctx.land (c : Ctx) (t : Nat) : Ctx :=
  let g := c.getTag t
  match g.st with
  | .pending =>
    let c1 := c.setTag t { g with st := .landed, sfn := false, flags := 0 }
    let c2 := if g.sfn then c1.orFlags g.flags else c1
    if g.vec then c2.upd fun r => { r with dirty := { r.dirty with slots := setBits r.dirty.slots g.slot 1 1 } } else c2
  | _ => c

/-- Step 1 of R80 for one consumed tag: the context after arrival and commit; or the kept cause of a failed tag, which commits
nothing and empties the tag (R42). -/
inductive TagWork where
  | ok (c : Ctx)
  | failed (c : Ctx) (f : TagFail)

/-- Step 1 of R80 for one consumed tag. -/
def Ctx.consume (c : Ctx) (t : Nat) : TagWork :=
  if t = 0 then .ok c
  else
    let g := c.getTag t
    match g.st with
    | .empty => .ok c
    | .pending => .ok ((c.land t).commit t)
    | .landed => .ok (c.commit t)
    | .partly _ => .ok c
    | .failed f => .failed (c.setTag t { g with st := .empty }) f

/-- Step 2 of R80: the context ready for TA to be allocated, its earlier use landed and committed or, when it had failed, moved to
the deferred-fault record. -/
def Ctx.retag (c : Ctx) (t : Nat) : Ctx :=
  let g := c.getTag t
  match g.st with
  | .empty => c
  | .pending => (c.land t).commit t
  | .landed => c.commit t
  | .partly _ => c
  | .failed _ => c.deferTag t

/-- The context whose registers a word reads once it has allocated TA (R80 step 3): the tag's earlier use has been committed. A word
without TA, or one that resumes its own partial tag, changes nothing. DEDUCED (log 22). -/
def Ctx.afterAlloc (c : Ctx) (t : Nat) : Ctx := if t = 0 then c else c.retag t

/-- Part of the result of tag t is still to come (R42, R105). -/
def Ctx.tagBusy (c : Ctx) (t : Nat) : Bool := t != 0 && c.out.any fun x => match x with | .acc a => a.tag == t | .fence _ _ => false

/-- Every result of the context's tags has come. -/
def Ctx.arrived (c : Ctx) : Bool := !c.out.any fun x => match x with | .acc a => a.tag != 0 | .fence _ _ => false

/-- Every pending tag lands. -/
def Ctx.landAll (c : Ctx) : Ctx := (List.range 16).foldl Ctx.land c

/-- A word waits for the results of the tags that it consumes or allocates (R80). -/
def Ctx.waitsTags (c : Ctx) (h : Hdr) : Bool := c.tagBusy h.tc0.toNat || c.tagBusy h.tc1.toNat || c.tagBusy h.ta.toNat

/-- Allocation of a scalar tag with its result (R41), after its earlier use (R80). -/
def Ctx.allocS (c : Ctx) (t : Nat) (d : RegNo) (latch : Word) : Ctx :=
  (c.retag t).setTag t { st := .pending, used := true, dst := d, vec := false, slot := 0, latch := latch, sfn := false, flags := 0 }

/-- R41: a vector producer finds no landing slot that is free or held by its own tag. -/
def Ctx.noSlot (c : Ctx) (t : Nat) : Bool :=
  !(c.getTag t).holdsSlot && c.freeSlot.isNone

/-! ### Loops (R107 to R110) -/

/-- VL and STRIP of the innermost remaining SLOOP entry (R109). -/
def Ctx.restoreSloop (c : Ctx) : Ctx :=
  match c.regs.loops.find? (·.sloop) with
  | some e => c.updCsr fun r => { r with vl := e.len, strip := BitVec.ofNat 64 e.strip }
  | none => c

/-- R109: the end test at the word at pc, cascading through the entries that end there; the context with its next PC. -/
def Ctx.endTest : Nat → Nat → Ctx → Ctx
  | 0, pc, c => c.upd fun r => { r with pc := pc + 1 }
  | n + 1, pc, c =>
    match c.regs.loops with
    | [] => c.upd fun r => { r with pc := pc + 1 }
    | e :: l =>
      if e.fin ≠ pc then c.upd fun r => { r with pc := pc + 1 }
      else
        let rem := if e.sloop then e.rem - e.len else e.rem - 1
        let strip := if e.sloop then e.strip + 1 else e.strip
        if rem > 0 then
          let len := if e.sloop then min rem e.vlmax else e.len
          let c1 := c.upd fun r => { r with loops := { e with rem := rem, strip := strip, len := len } :: l, pc := e.start }
          if e.sloop then c1.updCsr fun r => { r with vl := len, strip := BitVec.ofNat 64 strip } else c1
        else ((c.upd fun r => { r with loops := l }).restoreSloop).endTest n pc

/-- R110: the entries whose range excludes the target are popped. VL and STRIP stay as they are until the next end test (R112, R393; log 20). -/
def Ctx.popFor (t : Nat) (c : Ctx) : Ctx :=
  c.upd fun r => { r with loops := r.loops.dropWhile fun e => !(e.start ≤ t && t ≤ e.fin) }

/-! ### The issue of a word -/

/-- The classes of words that Table 7-1 tells apart. -/
inductive WClass where
  | lane | vgetput | vprod | vstore | vshape | vcfg | matrix | mstat | modeArr | other
  deriving DecidableEq, Repr

/-- What the issue of a word needs to know: its bits, header, the s registers it names as sources (R76), its untagged
destination, the vector registers it names (R36), whether it needs vector state, and its class. -/
structure Issue where
  word  : IWord
  hdr   : Hdr
  reads : List RegNo
  dst   : RegNo
  vregs : List (BitVec 6)
  needV : Bool
  cls   : WClass
  deriving DecidableEq, Repr

/-- R77: the distance from 1 to 7 of the nearest writer of r; 0 when there is none. -/
def writerDist (hist : List (Option (BitVec 6))) (r : RegNo) : Nat :=
  match (hist.take 7).findIdx? (fun w => w == some r) with
  | some i => i + 1
  | none => 0

/-- R77: the register with the largest required distance, and that distance. -/
def pdNeed (hist : List (Option (BitVec 6))) (reads : List RegNo) : RegNo × Nat :=
  reads.foldl (fun a r => if r ≠ 0 ∧ a.2 < writerDist hist r then (r, writerDist hist r) else a) (0, 0)

/-- R84 step 4: TAG_FAULT for a consumed tag that was never used or is partial, or a TA that is partial at another PC (R115). DESIGN CHOICE
(log 76): where several of the tags that a word names raise it, TRAPINFO0 names TC0, else TC1, else TA, and 'never used' before 'partial'; R84
gives no order among them. -/
def tagCheck (c : Ctx) (h : Hdr) : Option (Nat × Nat) :=
  let own := match (c.getTag h.ta.toNat).st with
    | .partly pc => h.ta ≠ 0 && pc.toNat = c.regs.pc
    | _ => false
  let bad (t : Nat) : Option (Nat × Nat) :=
    if t = 0 then none
    else if !(c.getTag t).used then some (t, 0)
    else if (c.getTag t).isPartial && !(own && t = h.ta.toNat) then some (t, 2)
    else none
  match bad h.tc0.toNat with
  | some x => some x
  | none =>
    match bad h.tc1.toNat with
    | some x => some x
    | none => if h.ta ≠ 0 && (c.getTag h.ta.toNat).isPartial && !own then some (h.ta.toNat, 2) else none

/-- What the checks of R84 steps 4 to 6 find: a cause with its TRAPINFO, or none. -/
def issueCheck (w : Issue) (c : Ctx) : Option (Cause × Word × Word) :=
  match tagCheck c w.hdr with
  | some (t, k) => some (.tagFault, BitVec.ofNat 64 (t + k * 256), 0)
  | none =>
    let need := pdNeed c.hist w.reads
    if w.hdr.pd.toNat < need.2 then some (.pdFault, BitVec.ofNat 64 (need.1.toNat + need.2 * 256), 0)
    else if w.needV && !c.hasV then some (.noVstate, wInfo0 w.word, wInfo1 w.word .noVstate c.vstart)
    else if w.needV && w.vregs.any (fun r => decide (c.count ≤ r.toNat)) then
      some (.type_, wInfo0 w.word, wInfo1 w.word .type_ c.vstart)
    else none

/-- The word-class check of Table 7-1: allowed, MODE_ERR, or a stall. own is the context's array mode, mate the other slot's. -/
inductive ClassVerdict where
  | allow | modeErr | stall
  deriving DecidableEq, Repr

/-- Table 7-1. -/
def classCheck (cls : WClass) (own mate : Nat) : ClassVerdict :=
  if own ≠ 0 then
    match cls with
    | .lane | .vprod | .vshape => .modeErr
    | _ => .allow
  else if mate ≠ 0 then
    match cls with
    | .lane | .modeArr => .stall
    | .matrix => .modeErr
    | _ => .allow
  else .allow

/-- The retirement of a word (R105): RETIRED, the producer history (R76), and the next PC. -/
def Ctx.retire (c : Ctx) (dst : RegNo) : Ctx :=
  { c with
    regs := { c.regs with csr := { c.regs.csr with retired := c.regs.csr.retired + 1 } },
    hist := ((if dst = 0 then none else some dst) :: c.hist).take 7, wait := .none_ }

/-- A word's result, once its checks have passed, on the machine. -/
def finish (w : Issue) : WR State → Host.Outcome State Fault Refusal
  | .done s => .next (s.updCtx fun c => (c.retire w.dst).endTest 5 c.regs.pc)
  | .jump s t pop =>
    .next (s.updCtx fun c => ((if pop then (c.retire w.dst).popFor t else c.retire w.dst)).upd fun r => { r with pc := t })
  | .trap s cause i0 i1 => .next (s.updCtx fun c => c.takeTrap cause i0 i1)
  | .trapW s cause => .next (s.updCtx fun c => c.takeTrap cause (wInfo0 w.word) (wInfo1 w.word cause c.vstart))
  | .stall s => .next s

/-- The vector registers that a word touches before its meaning: those it names, and the destinations of the vector tags it names. -/
def Issue.touches (w : Issue) (c : Ctx) : List Nat :=
  w.vregs.map BitVec.toNat ++
  ([w.hdr.tc0, w.hdr.tc1, w.hdr.ta].filter fun t => t ≠ 0 && (c.getTag t.toNat).vec && (c.getTag t.toNat).st != .empty).map
    fun t => (c.getTag t.toNat).dst.toNat

/-- The context once the drain that the word waits for has ended (R125). -/
def Ctx.awaitDrains (c : Ctx) (l : List Nat) : Ctx := l.foldl (fun c r => c.awaitDrain r 1) c

/-- Step 1 of R80 for TC0 and TC1, and then the word-class check and the word's own meaning. A word that finds one of them failed raises
its cause and commits nothing (Table 2-4): with TC1 failed, TC0 stays as it was. -/
def commitThen (w : Issue) (body : State → WR State) (s : State) : WR State :=
  if s.ctx.waitsTags w.hdr then .stall s
  else match s.ctx.consume w.hdr.tc0.toNat with
  | .failed c f => .trap { s with ctx := c } f.cause (mInfo0 f.off.toNat) (mInfo1 f.buf f.creg.toNat)
  | .ok c0 =>
    match c0.consume w.hdr.tc1.toNat with
    | .failed _ f =>
      .trap { s with ctx := s.ctx.setTag w.hdr.tc1.toNat { s.ctx.getTag w.hdr.tc1.toNat with st := .empty } } f.cause
        (mInfo0 f.off.toNat) (mInfo1 f.buf f.creg.toNat)
    | .ok c1 =>
      let c2 := c1.awaitDrains (w.touches s.ctx)
      let s1 := { s with ctx := c2 }
      match classCheck w.cls c2.regs.arr.mode (s.slot (slotMate s.cur)).regs.arr.mode with
      | .modeErr => .trapW s1 .modeErr
      | .stall => .stall s1
      | .allow => body s1

/-- The word at the PC has a request at a home, or its answer, or has all its effects but the end of its region. -/
def Wait.atHome : Wait → Bool
  | .remote _ _ _ => true
  | .answered _ _ _ _ _ _ => true
  | .check _ _ => true
  | .regionWrap _ => true
  | _ => false

/-- The debug port has halted the context at a word boundary: a word that has begun ends first (R349). -/
def Ctx.stopped (c : Ctx) : Bool := c.halt && c.wait == .none_

/-- The slot of State.cur runs a context that may issue (Table 15-4, R349, R49). During a save, a word whose request is at its home
still takes its answer, so that no access is half performed in a frame (R44, R356). -/
def Ctx.runs (c : Ctx) : Bool :=
  (c.bind.st == .run && !c.stopped && !c.moving) || (c.bind.st == .save && c.wait.atHome)

/-- A word at the PC of the context of State.cur: issue checks, commits, meaning, retirement. A word with a request at a home waits for
its answer; one that has begun and waits for anything else goes on at its meaning. -/
def runWord (w : Issue) (body : State → WR State) (s : State) : Host.Outcome State Fault Refusal :=
  if !s.ctx.runs then .fault .noContext
  else
    match s.ctx.wait with
    | .none_ =>
      match issueCheck w s.ctx with
      | some (cause, i0, i1) => .next (s.updCtx fun c => c.takeTrap cause i0 i1)
      | none => finish w (commitThen w body s)
    | .remote _ _ _ => .next s
    | _ => finish w (body s)

/-! ### Issue records by format -/

/-- Format A: A, B and E are sources as the word uses them (R76). -/
def issueA (op : BitVec 8) (h : Hdr) (b : FmtA) : Issue :=
  { word := packA op h b, hdr := h, reads := [b.a, b.b, b.e], dst := b.d, vregs := [], needV := false, cls := .other }

/-- Format B: A is a source. -/
def issueB (op : BitVec 8) (h : Hdr) (b : FmtB) : Issue :=
  { word := packB op h b, hdr := h, reads := [b.a], dst := b.d, vregs := [], needV := false, cls := .other }

/-- Format K reads no register (R400). -/
def issueK (op : BitVec 8) (h : Hdr) (b : FmtK) : Issue :=
  { word := packK op h b, hdr := h, reads := [], dst := b.d, vregs := [], needV := false, cls := .other }

/-- Format J with its sources. -/
def issueJ (op : BitVec 8) (h : Hdr) (b : FmtJ) (reads : List RegNo) (dst : RegNo) : Issue :=
  { word := packJ op h b, hdr := h, reads := reads, dst := dst, vregs := [], needV := false, cls := .other }

/-- The loop forms of format J. -/
def issueL (op : BitVec 8) (h : Hdr) (b : FmtL) : Issue :=
  { word := packL op h b, hdr := h, reads := [b.a], dst := 0, vregs := [], needV := false, cls := .other }

/-- Format Y with its sources and its untagged destination. -/
def issueY (op : BitVec 8) (h : Hdr) (b : FmtY) (reads : List RegNo) (dst : RegNo) : Issue :=
  { word := packY op h b, hdr := h, reads := reads, dst := dst, vregs := [], needV := false, cls := .other }

/-- Format M with its sources. The scalar memory words name no vector register. -/
def issueM (op : BitVec 8) (h : Hdr) (b : FmtM) (reads : List RegNo) : Issue :=
  { word := packM op h b, hdr := h, reads := reads, dst := 0, vregs := [], needV := false, cls := .other }

/-- The vector memory words: D names a vector register. -/
def issueMV (op : BitVec 8) (h : Hdr) (b : FmtM) (reads : List RegNo) (cls : WClass) : Issue :=
  { word := packM op h b, hdr := h, reads := reads, dst := 0, vregs := [b.d], needV := true, cls := cls }

/-- Format V with its scalar sources, untagged destination and vector registers. -/
def issueV (op : BitVec 8) (h : Hdr) (b : FmtV) (reads : List RegNo) (dst : RegNo) (vregs : List (BitVec 6)) (cls : WClass) :
    Issue :=
  { word := packV op h b, hdr := h, reads := reads, dst := dst, vregs := vregs, needV := true, cls := cls }

/-- Format X of the matrix words. -/
def issueX (op : BitVec 8) (h : Hdr) (b : FmtX) (dst : RegNo) (vregs : List (BitVec 6)) (cls : WClass) : Issue :=
  { word := packX op h b, hdr := h, reads := [], dst := dst, vregs := vregs, needV := true, cls := cls }

/-- Format X of SFN and SFLOAD. -/
def issueS (op : BitVec 8) (h : Hdr) (b : FmtS) (vregs : List (BitVec 6)) (cls : WClass) : Issue :=
  { word := packS op h b, hdr := h, reads := [], dst := 0, vregs := vregs, needV := true, cls := cls }

end Sys2Proof.Machine
end

