-- ==== Sys2Proof/Machine/Buffers.lean ====
section
/-! DEFINITION. Machine/Buffers.lean: CheckCap (R98), the buffer table (R241, R242), the memory port's checks (R239) and translation
(R243, R244, R246), by way of the entry caches of the memory ports (R241) and the extent caches of the cores (R245). -/

namespace Sys2Proof.Machine

/-! ### The core's stage -/

/-- A cause with its TRAPINFO. -/
structure Trap where
  cause : Cause
  i0    : Word
  i1    : Word
  deriving DecidableEq, Repr

/-- A cause in the memory layout (R319) for an offset of a buffer. -/
def memTrap (c : Cause) (buf : BitVec 20) (creg : RegNo) (off : Nat) : Trap := ⟨c, mInfo0 off, mInfo1 buf creg.toNat⟩

/-- An access that the core's stage has passed: buffer, offset in it, and the capability's S bit and register. -/
structure Win where
  buf  : BitVec 20
  off  : Nat
  s    : Bool
  creg : RegNo
  deriving DecidableEq, Repr

/-- BASE + off of a register, for TRAPINFO, modulo 2^48. -/
def winOff (v : BitVec 128) (off : Int) : Nat := (((capBase v : Int) + off) % 2 ^ 48).toNat

/-- CheckCap (R98). -/
def checkCap (c : Ctx) (n : RegNo) (off : Int) (size : Nat) (need : BitVec 4) (align : Nat) : Except Trap Win :=
  let r := c.getC n
  let t := fun k => Except.error (memTrap k (capBuf r.val) n (winOff r.val off))
  if !r.valid then t .capInvalid
  else if need &&& ~~~(capRights r.val) ≠ 0 then t .capRights
  else if off < 0 ∨ (capLen r.val : Int) < off + size then t .capBounds
  else if (capBase r.val + off.toNat) % align ≠ 0 then t .misalign
  else .ok ⟨capBuf r.val, capBase r.val + off.toNat, capS r.val, n⟩

/-! ### The buffer table -/

/-- Buffer types (Table 12-2). -/
inductive BufType where
  | global | scratch | dieScratch | host | aperture | diagnostic | bad
  deriving DecidableEq, Repr

def BufType.ofCode : Nat → BufType
  | 0 => .global | 1 => .scratch | 2 => .dieScratch | 3 => .host | 4 => .aperture | 5 => .diagnostic | _ => .bad

def Entry.v (e : Entry) : Bool := e.d0.getLsbD 63
def Entry.ty (e : Entry) : BufType := BufType.ofCode (getBits e.d0 60 3)
def Entry.chk (e : Entry) : Bool := e.d0.getLsbD 59
def Entry.key (e : Entry) : Nat := getBits e.d0 52 7
def Entry.ceil (e : Entry) : BitVec 4 := e.d0.extractLsb' 48 4
def Entry.length (e : Entry) : Nat := getBits e.d0 0 48
def Entry.vf (e : Entry) : Nat := getBits e.d1 58 6
def Entry.part (e : Entry) : Nat := getBits e.d1 54 4
def Entry.psize (e : Entry) : Nat := getBits e.d1 52 2
def Entry.ilv (e : Entry) : Nat := getBits e.d1 50 2
def Entry.hpol (e : Entry) : Nat := getBits e.d1 48 2
def Entry.hsel (e : Entry) : Nat := getBits e.d1 44 4
def Entry.share (e : Entry) : Nat := getBits e.d1 30 14
def Entry.peer (e : Entry) : Nat := getBits e.d1 16 14
def Entry.ptroot (e : Entry) : Nat := getBits e.d2 12 28 * 4096
def Entry.dstart (e : Entry) : Nat := getBits e.d2 8 24 * 256

/-- Every RSV bit of the entry is zero (Table 12-2). DESIGN CHOICE (log 76): in d2 of a die-scratch entry bits 39:32, to which the table gives no
meaning there, are taken as RSV. -/
def Entry.rsvOk (e : Entry) : Bool :=
  getBits e.d1 0 16 == 0 && e.rest &&
  (if e.ty = .dieScratch then getBits e.d2 32 32 == 0 && getBits e.d2 0 8 == 0
   else getBits e.d2 40 24 == 0 && getBits e.d2 0 12 == 0) &&
  getBits e.d3 40 24 == 0 && getBits e.d3 0 5 == 0 && (e.chk || getBits e.d3 5 35 == 0)

/-- V = 1, no reserved value, every RSV bit zero (R239 check 1, Table 12-2). -/
def Entry.valid (e : Entry) : Bool := e.v && e.ty != .bad && decide (e.hpol ≤ 1) && e.rsvOk

/-- log2 of the page size. -/
def Entry.pageBits (e : Entry) : Nat := if e.psize = 0 then 16 else if e.psize = 1 then 21 else if e.psize = 2 then 25 else 30

/-- A little-endian dword of memory. -/
def State.dword (s : State) (a : Nat) : BitVec 64 := BitVec.ofNat 64 (numOf (memBytes s.mem a 8))

/-- The table's base address and count (Table 12-1). -/
def State.btBase (s : State) : Nat := s.pkg.btbase.toNat * 4096
def State.btCount (s : State) : Nat := s.pkg.btcount.toNat

/-- Who reads a table: Basecamp, which reads memory; a member at its core, through the extent cache and the memory ports of its die; its copy
channels, through the memory ports; the memory ports of a home (R240). -/
inductive Reader where
  | basecamp
  | member (uid : Nat)
  | engine (uid : Nat)
  | home (die : Nat)
  deriving DecidableEq, Repr

/-- The die whose memory ports a reader meets. -/
def State.portOf (s : State) (who : Reader) : Option Nat :=
  match who with
  | .basecamp => none
  | .home d => some d
  | .member uid | .engine uid => (s.slotOf uid).map slotDie

/-- The entry of a buffer as it stands in memory (R241). -/
def State.entry (s : State) (buf : BitVec 20) : Entry :=
  let a := s.btBase + 64 * buf.toNat
  { d0 := s.dword a, d1 := s.dword (a + 8), d2 := s.dword (a + 16), d3 := s.dword (a + 24),
    rest := s.dword (a + 32) == 0 && s.dword (a + 40) == 0 && s.dword (a + 48) == 0 && s.dword (a + 56) == 0 }

/-- The indices of the buffer table whose entries hold a byte other than 0, once each in canonical memory: every valid entry is one of them. -/
def State.bufs (s : State) : List (BitVec 20) :=
  ((s.mem.filter fun c => decide (s.btBase ≤ c.1) && decide (c.1 < s.btBase + 64 * s.btCount)).foldr
    (fun c l => let i := (c.1 - s.btBase) / 64; if l.head? = some i then l else i :: l) []).map (BitVec.ofNat 20)

/-- A dword of a share list in memory (R242). -/
def State.shareWord (s : State) (e : Entry) (i : Nat) : Word := s.dword (s.btBase + 64 * s.btCount + 16 * e.share + 8 * i)

/-- The entry of a buffer in the cache of a reader's memory ports. -/
def State.portEntry (s : State) (who : Reader) (buf : BitVec 20) : Option PortEntry :=
  (s.portOf who).bind fun d => (s.die d).entries.find? (·.buf == buf)

/-- The entry of a buffer, as a reader sees it. -/
def State.entryFor (s : State) (who : Reader) (buf : BitVec 20) : Entry :=
  match s.portEntry who buf with
  | some x => x.e
  | none => s.entry buf

/-- Element j of a share list (R242), as a reader sees it: VF, PART, rights, valid. -/
def State.shareElem (s : State) (who : Reader) (buf : BitVec 20) (e : Entry) (j : Nat) : BitVec 16 :=
  let w := match s.portEntry who buf with
    | some x => if j < 4 then x.share0 else x.share1
    | none => s.shareWord e (j / 4)
  w.extractLsb' (16 * (j % 4)) 16

/-- The rights a share element gives to a requester, if it matches (R239 check 2). -/
def shareRights (x : BitVec 16) (vf part : Nat) : Option (BitVec 4) :=
  if x.getLsbD 1 && getBits x 10 6 == vf && getBits x 6 4 == part then some (x.extractLsb' 2 4) else none

/-- Memory of a VF in ERROR stays unreadable to every other VF (Table 19-1). -/
def State.barred (s : State) (e : Entry) (vf : Nat) : Bool := e.vf != vf && (tabGet VfState.zero s.vfs e.vf).tdisp == .error

/-- The effective ceiling for a requester: CEIL for the owner, the share element's rights for a sharer, none for any other (R239). -/
def State.ceiling (s : State) (who : Reader) (buf : BitVec 20) (e : Entry) (vf part : Nat) : Option (BitVec 4) :=
  if e.vf = vf ∧ e.part = part then some e.ceil
  else if e.share = 0 ∨ s.barred e vf = true then none
  else (List.range 8).findSome? fun j => shareRights (s.shareElem who buf e j) vf part

/-! ### The memory port's stage -/

/-- What an access does at the port, beside the rights it needs: query and maintain check no ceiling (R388, R401). -/
inductive AccKind where
  | read | write | atomic | exec | sync | query | maintain | arm
  deriving DecidableEq, Repr

/-- The rights of a kind (R239). -/
def AccKind.need : AccKind → BitVec 4
  | .read => rRead | .write => rWrite | .atomic => rRead ||| rWrite | .exec => rExec | .sync => 0 | .query => 0
  | .maintain => 0 | .arm => rRead

/-- R239 check 4 beside the ceiling: aperture buffers admit no access, diagnostic buffers no write or atomic, and MONITOR no host,
aperture or diagnostic buffer (R412). A query reports any type (R401). -/
def typeRefuses (t : BufType) (k : AccKind) : Bool :=
  match k with
  | .query => false
  | .write | .atomic => t = .aperture || t = .diagnostic
  | .arm => t = .aperture || t = .diagnostic || t = .host
  | _ => t = .aperture

/-- R341: a host buffer of a VF in CONFIG_LOCKED or RUN whose stream is not keyed. -/
def State.noStream (s : State) (e : Entry) : Bool :=
  let v := tabGet VfState.zero s.vfs e.vf
  e.ty = .host && (v.tdisp = .configLocked || v.tdisp = .run) && !v.keyed

/-! ### Translation -/

/-- Levels of a page table (R243). -/
def tableLevels (pageBits length : Nat) : Nat → Nat → Nat
  | 0, l => l
  | n + 1, l => if length ≤ 2 ^ (pageBits + 9 * l) then l else tableLevels pageBits length n (l + 1)

/-- The walk of R243 from a node with the page-number digits from the top: the leaf, or none where an entry has V = 0. read gives the
entries. -/
def walkTable (read : Nat → Word) : Nat → Nat → Nat → Option Word
  | 0, _, _ => none
  | l + 1, node, page =>
    let e := read (node + 8 * (page / 2 ^ (9 * l) % 512))
    if !e.getLsbD 63 then none
    else if l = 0 then some e else walkTable read l (getBits e 12 28 * 4096) page

/-- The leaf of a page number of a buffer. -/
def State.leaf (s : State) (e : Entry) (page : Nat) : Option Word :=
  walkTable s.dword (tableLevels e.pageBits e.length 6 1) e.ptroot page

/-- The stacks of an interleaved buffer, and the granule (R244). DESIGN CHOICE (log 76): HSEL, to which the spec gives no meaning above 3 with ILV 1,
nor above 7 for die scratch, counts modulo 4 there, and modulo 8. -/
def ilvStacks (e : Entry) : List Nat :=
  if e.ilv = 1 then [e.hsel % 4, 2 * (e.hsel % 4) + 4] else List.range 12
def ilvGrain (e : Entry) : Nat := if e.ilv = 3 then 256 else 4096

/-- Where one byte of a buffer lies. -/
inductive Where where
  | at_ (loc : Nat)
  | page
  | swap
  | bounds
  deriving DecidableEq, Repr

/-- The page offset and member stack of a byte (R244): none for a stack-local buffer. -/
def ilvSplit (e : Entry) (off : Nat) : Option Nat × Nat :=
  if e.ilv = 0 then (none, off)
  else
    let n := (ilvStacks e).length
    let g := off / ilvGrain e
    (some (nthD 0 (ilvStacks e) (g % n)), g / n * ilvGrain e + off % ilvGrain e)

/-- The page-offset form of a host buffer ignores ILV (R244). -/
def Entry.flat (e : Entry) : Entry := if e.ty = .host then { e with d1 := setBits e.d1 50 2 0 } else e

/-- The page number of an offset of a buffer (R243, R244). -/
def Entry.pageNo (e : Entry) (off : Nat) : Nat := (ilvSplit e.flat off).2 / 2 ^ e.pageBits

/-- A buffer that translates through a page table. -/
def Entry.paged (e : Entry) : Bool :=
  e.ty = .host || e.ty = .diagnostic || (e.ty = .global && e.hpol != 1)

/-! ### The extent cache (R245) -/

/-- The translation that the extent cache of a member's core holds for a byte of a buffer. -/
def State.extOf (s : State) (who : Reader) (buf : BitVec 20) (off : Nat) : Option Extent :=
  match who with
  | .member uid => (s.slotOf uid).bind fun k =>
    (s.core (coreKey k)).ext.find? fun x => x.vf == (s.slot k).launch.vf && x.buf == buf && x.page == x.e.pageNo off
  | _ => none

/-- The page-table translation of a byte from its leaf (R243, R244, R246). resOk leaves a non-resident leaf usable (R401). -/
def Entry.leafAt (e : Entry) (leaf : Option Word) (off : Nat) (resOk : Bool) : Where :=
  let (m, q) := ilvSplit e off
  match leaf with
  | none => .page
  | some l =>
    if e.ty = .host then
      let a := getBits l 12 50 * 4096
      if a % 2 ^ e.pageBits ≠ 0 then .page
      else if !l.getLsbD 62 && !resOk then .swap else .at_ (locHost (a + q % 2 ^ e.pageBits))
    else
      let a := getBits l 12 28 * 4096
      if a % 2 ^ e.pageBits ≠ 0 ∨ (m = none ∧ 12 ≤ a / 2 ^ 36) then .page
      else if !l.getLsbD 62 && !resOk then .swap
      else match m with
        | none => .at_ (a + q % 2 ^ e.pageBits)
        | some k => .at_ (k * 2 ^ 36 + a % 2 ^ 36 + q % 2 ^ e.pageBits)

/-- The translation of a byte under an entry, by the extent cache where it holds one made under it: every byte of an access meets one entry
(R249). -/
def State.pageAt (s : State) (who : Reader) (buf : BitVec 20) (e : Entry) (off : Nat) (resOk : Bool) : Where :=
  match (s.extOf who buf off).filter fun x => x.e == e with
  | some x => x.e.flat.leafAt (some x.leaf) off resOk
  | none => e.flat.leafAt (s.leaf e (e.pageNo off)) off resOk

/-- One byte of a buffer, for the member whose scratchpad a scratch buffer names, with its allotment in bytes (R212, R244). DEDUCED (log 77): an
aperture, which needs no translation (R207) and of which LOCQ alone asks, lies at the issuing core like the scratchpad. -/
def State.place (s : State) (who : Reader) (e : Entry) (buf : BitVec 20) (uid allot off : Nat) (resOk : Bool) : Where :=
  match e.ty with
  | .scratch => if off < allot then .at_ (locScratch uid off) else .bounds
  | .aperture => .at_ (locScratch uid off)
  | .dieScratch =>
    let d := e.hsel % 8
    let a := e.dstart + off
    if a < (s.die d).waysplit.toNat * Config.wayBytes d then .at_ (locDie d a) else .bounds
  | _ =>
    if e.hpol = 1 && e.ty = .global then .at_ (locPeer e.peer buf.toNat off) else s.pageAt who buf e off resOk

/-- The locations of an access, or the first byte that stops it with its offset. -/
def State.places (s : State) (who : Reader) (e : Entry) (buf : BitVec 20) (uid allot : Nat) (resOk : Bool) :
    Nat → Nat → Except (Where × Nat) (List Nat)
  | 0, _ => .ok []
  | n + 1, off =>
    match s.place who e buf uid allot off resOk with
    | .at_ a =>
      match s.places who e buf uid allot resOk n (off + 1) with
      | .ok l => .ok (a :: l)
      | .error x => .error x
    | x => .error (x, off)

/-! ### The checks of R239 -/

/-- Checks 3 to 5 of R239, from an entry and a ceiling. -/
def State.portLimits (s : State) (e : Entry) (ceil : BitVec 4) (w : Win) (size : Nat) (need : BitVec 4) (k : AccKind) :
    Except Cause Entry :=
  if w.s ≠ (e.ty = .scratch || e.ty = .dieScratch) then .error .capInvalid
  else if need &&& ~~~ceil ≠ 0 ∨ typeRefuses e.ty k = true ∨ (k ≠ .query ∧ s.noStream e = true) then .error .capRights
  else if e.length < w.off + size then .error .capBounds
  else .ok e

/-- Checks 1 to 5 of R239 for a requester. need are the rights used. A translation that the extent cache holds has passed checks 1 and 2
(R245). -/
def State.portCheck (s : State) (who : Reader) (vf part : Nat) (w : Win) (size : Nat) (need : BitVec 4) (k : AccKind) :
    Except Cause Entry :=
  match s.extOf who w.buf w.off with
  | some x => if s.barred x.e vf then .error .capInvalid else s.portLimits x.e x.ceil w size need k
  | none =>
    let e := s.entryFor who w.buf
    if s.btCount ≤ w.buf.toNat ∨ e.valid = false then .error .capInvalid
    else match s.ceiling who w.buf e vf part with
      | none => .error .capInvalid
      | some ceil => s.portLimits e ceil w size need k

/-! ### What the caches come to hold -/

/-- An entry used by the memory ports of a die: it joins their cache of 256 entries (R241). DESIGN CHOICE (log 17): the entry used longest ago
leaves. -/
def State.usePort (s : State) (d : Nat) (buf : BitVec 20) : State :=
  s.updDie d fun x =>
    let p : PortEntry := (x.entries.find? (·.buf == buf)).getD
      (let e := s.entry buf; ⟨buf, e, s.shareWord e 0, s.shareWord e 1⟩)
    { x with entries := (p :: x.entries.filter (·.buf != buf)).take 256 }

/-- The translation of a byte as the member in slot k makes it, if it passes every check and its page is resident (R245). -/
def State.newExtent (s : State) (k : Nat) (buf : BitVec 20) (off : Nat) : Option Extent :=
  let l := (s.slot k).launch
  let who : Reader := .member l.uid
  let e := s.entryFor who buf
  match s.leaf e (e.pageNo off), s.ceiling who buf e l.vf l.part, e.flat.leafAt (s.leaf e (e.pageNo off)) off false with
  | some leaf, some ceil, .at_ _ => if e.valid then some ⟨l.vf, buf, e.pageNo off, leaf, e, ceil⟩ else none
  | _, _, _ => none

/-- A translation of a byte of a paged buffer used by the member in slot k: it joins the extent cache of 64 translations, of which the least
recently used one leaves (R245). One made under a new entry takes the place of all made under an older one, so that a word that has met the new
entry does not meet the old one again (R249). -/
def State.useExtent (s : State) (k : Nat) (buf : BitVec 20) (off : Nat) : State :=
  let put := fun (s : State) (x : Extent) =>
    let c := s.core (coreKey k)
    s.setCore (coreKey k) { c with ext := (x :: c.ext.filter fun y => y != x && (y.buf != x.buf || y.e == x.e)).take 64 }
  match s.extOf (.member (s.slot k).launch.uid) buf off with
  | some x => put s x
  | none =>
    if !(s.entryFor (.member (s.slot k).launch.uid) buf).paged then s
    else match s.newExtent k buf off with
      | some x => put (s.usePort (slotDie k) buf) x
      | none => s

/-- An invalidation under way names a translation (Table 12-5). -/
def State.namesExt (s : State) (x : Extent) : Bool :=
  let first := getBits s.pkg.ext1 32 32
  let n := getBits s.pkg.ext1 0 32
  s.pkg.ext0.getLsbD 62 || (x.buf == s.pkg.ext0.extractLsb' 42 20 && (n == 0 || (decide (first ≤ x.page) && decide (x.page < first + n))))

/-- While an invalidation runs, the elements of a vector word from a free one on meet the new translations (R249). -/
def State.extTurn (s : State) (e : Nat) : State :=
  if s.pkg.extBusy && Config.extDropped s.draws e then
    let c := s.core (coreKey s.cur)
    s.setCore (coreKey s.cur) { c with ext := c.ext.filter fun x => !s.namesExt x }
  else s

/-! ### Both stages for the focused context -/

/-- Bytes of the scratchpad allotment. -/
def Ctx.scrBytes (c : Ctx) : Nat := c.launch.scrKiB * 1024

/-- What stops an access after the core's stage: a cause, or a swap for a page (R246). -/
inductive Stop where
  | trap (t : Trap)
  | swap (buf : BitVec 20) (off : Nat)
  deriving DecidableEq, Repr

/-- Translate (R98, R239) for a reader on behalf of a context: the entry and the locations of an access. -/
def State.translateBy (s : State) (who : Reader) (c : Ctx) (w : Win) (size : Nat) (need : BitVec 4) (k : AccKind) :
    Except Stop (Entry × List Nat) :=
  match s.portCheck who c.launch.vf c.launch.part w size need k with
  | .error x => .error (.trap (memTrap x w.buf w.creg w.off))
  | .ok e =>
    match s.places who e w.buf c.launch.uid c.scrBytes (k == .query) size w.off with
    | .ok l => .ok (e, l)
    | .error (.page, o) => .error (.trap (memTrap .page w.buf w.creg o))
    | .error (.swap, o) => .error (.swap w.buf o)
    | .error (_, o) => .error (.trap (memTrap .capBounds w.buf w.creg o))

/-- Translate for an access of the context itself. -/
def State.translate (s : State) (c : Ctx) (w : Win) (size : Nat) (need : BitVec 4) (k : AccKind) : Except Stop (Entry × List Nat) :=
  s.translateBy (.member c.launch.uid) c w size need k

/-- R240: the die of a home on another die, whose memory port does not admit an access of the focused context; a peer makes its own check. -/
def State.homeBar (s : State) (c : Ctx) (w : Win) (size : Nat) (need : BitVec 4) (k : AccKind) (l : List Nat) : Option Nat :=
  (l.map homeDie).eraseDups.find? fun d => d != slotDie s.cur && decide (d < 8) &&
    (match s.portCheck (.home d) c.launch.vf c.launch.part w size need k with | .ok _ => false | .error _ => true)

/-- CheckCap and then Translate. -/
def State.access (s : State) (c : Ctx) (n : RegNo) (off : Int) (size : Nat) (need : BitVec 4) (align : Nat) (k : AccKind) :
    Except Stop (Win × Entry × List Nat) :=
  match checkCap c n off size need align with
  | .error t => .error (.trap t)
  | .ok w =>
    match s.translate c w size (if k = .query ∨ k = .maintain then 0 else need) k with
    | .error x => .error x
    | .ok (e, l) => .ok (w, e, l)

/-- R296 steps 1 and 2: the focused slot starts a save for a page, and the word has not retired. -/
def Ctx.startSwap (c : Ctx) (buf : BitVec 20) (off : Nat) : Ctx :=
  { c with
    bind := { c.bind with st := .save }, saveWhy := .pageSwap,
    regs := { c.regs with pageBuf := buf, pageOff := BitVec.ofNat 64 off } }

/-- PARTLOG (Table 19-3): a refusal or a drop of a packet of a partition, counted on a die. -/
def State.countRefusal (s : State) (d part : Nat) (buf : BitVec 20) : State :=
  s.updDie d fun x =>
    let p := (x.partlog[part]?).getD PartLog.zero
    let full := p.count == BitVec.allOnes 32
    let q : PartLog := { ovf := p.ovf || full || p.count + 1 == BitVec.allOnes 32, lastBuf := buf.setWidth 16,
                         count := if full then p.count else p.count + 1 }
    { x with partlog := x.partlog.setIfInBounds part q }

/-- Check 2 of R239 at the issuing die's memory port: a buffer is neither the focused context's (VF, PART)'s nor shared with it. -/
def State.notOwned (s : State) (buf : BitVec 20) : Bool :=
  let who : Reader := .member s.ctx.launch.uid
  decide (buf.toNat < s.btCount) && (s.entryFor who buf).valid &&
  (s.ceiling who buf (s.entryFor who buf) s.ctx.launch.vf s.ctx.launch.part).isNone

/-- The memory port has refused an access of the focused context, through a capability, at that check. -/
def State.portBars (s : State) (t : Trap) : Bool :=
  t.cause == .capInvalid && (s.ctx.getC (t.i1.extractLsb' 24 6)).valid && s.notOwned (t.i1.extractLsb' 0 20)

/-- A word stopped by either stage: its trap, or a swap. A refusal of its PART is counted on its die (R345). -/
def stopWord (s : State) : Stop → WR State
  | .trap t => .trap (if s.portBars t then s.countRefusal (slotDie s.cur) s.ctx.launch.part (t.i1.extractLsb' 0 20) else s) t.cause t.i0 t.i1
  | .swap buf off => .stall (s.updCtx fun c => c.startSwap buf off)

end Sys2Proof.Machine
end

