-- ==== Sys2Proof/Machine/Xts.lean ====
section
/-! DEFINITION. Machine/Xts.lean: AES-256 and its XTS mode on a sector of 32 bytes, the cipher that R250 names (12). PRESUMED (log 70): the
cipher is that of FIPS 197 and IEEE 1619; of a key pair, the bytes of KEYDATA0 to 3 are the data key and those of KEYDATA4 to 7 the
tweak key, each little-endian (R5). A byte is a number below 256, and a block a list of 16. -/

namespace Sys2Proof.Machine

/-- The S-box, sixteen entries a number, entry 0 lowest. -/
def aesTab : List Nat :=
  [0x76ABD7FE2B670130C56F6BF27B777C63, 0xC072A49CAFA2D4ADF04759FA7DC982CA,
   0x1531D871F1E5A534CCF73F362693FDB7, 0x75B227EBE28012079A059618C323C704,
   0x842FE329B3D63B52A05A6E1B1A2C8309, 0xCF584C4A39BECB6A5BB1FC20ED00D153,
   0xA89F3C507F02F94585334D43FBAAEFD0, 0xD2F3FF1021DAB6BCF5389D928F40A351,
   0x73195D643D7EA7C41744975FEC130CCD, 0xDB0B5EDE14B8EE4688902A22DC4F8160,
   0x79E4959162ACD3C25C2406490A3A32E0, 0x08AE7A65EAF4566CA94ED58D6D37C8E7,
   0x8A8BBD4B1F74DDE8C6B4A61C2E2578BA, 0x9E1DC186B95735610EF6034866B53E70,
   0xDF2855CEE9871E9B948ED9691198F8E1, 0x16BB54B00F2D99416842E6BF0D89A18C]

/-- The inverse S-box. -/
def aesInvTab : List Nat :=
  [0xFBD7F3819EA340BF38A53630D56A0952, 0xCBE9DEC444438E3487FF2F9B8239E37C,
   0x4EC3FA420B954CEE3D23C2A632947B54, 0x25D18B6D49A25B76B224D92866A12E08,
   0x92B6655DCC5CA4D41698688664F6F872, 0x849D8DA75746155EDAB9EDFD5048706C,
   0x0645B3B80558E4F70AD3BC8C00ABD890, 0x6B8A130103BDAFC1020F3FCA8F1E2CD0,
   0x73E6B4F0CECFF297EADC674F4111913A, 0x6EDF751CE837F9E28535ADE72274AC96,
   0x1BBE18AA0E62B76F89C5291D711AF147, 0xF45ACD78FEC0DB9A2079D2C64B3E56FC,
   0x5FEC8027591012B131C7078833A8DD1F, 0xEF9CC9939F7AE52D0D4AB519A97F5160,
   0x619953833CBBEBC8B0F52AAE4D3BE0A0, 0x7D0C2155631469E126D677BA7E042B17]

/-- An entry of a table of bytes. -/
def tabByte (t : List Nat) (x : Nat) : Nat := nthD 0 t (x / 16) / 2 ^ (8 * (x % 16)) % 256

def aesSub (x : Nat) : Nat := tabByte aesTab x
def aesInvSub (x : Nat) : Nat := tabByte aesInvTab x

/-- Multiplication by x in the field of the cipher. -/
def gfDouble (a : Nat) : Nat := if a < 128 then 2 * a else Nat.xor (2 * a - 256) 0x1B

/-- The products of a byte by 9, 11, 13 and 14. -/
def gfMul9 (a : Nat) : Nat := Nat.xor (gfDouble (gfDouble (gfDouble a))) a
def gfMul11 (a : Nat) : Nat := Nat.xor (gfMul9 a) (gfDouble a)
def gfMul13 (a : Nat) : Nat := Nat.xor (gfMul9 a) (gfDouble (gfDouble a))
def gfMul14 (a : Nat) : Nat := Nat.xor (Nat.xor (gfDouble (gfDouble (gfDouble a))) (gfDouble (gfDouble a))) (gfDouble a)

/-- Bytes added in the field. -/
def xorBytes (a b : List Nat) : List Nat := a.zipWith Nat.xor b

/-- ShiftRows and its inverse: byte i of the result stands at i + 4 · (i mod 4), or at i − 4 · (i mod 4), modulo 16. -/
def shiftRows (l : List Nat) : List Nat := (List.range 16).map fun i => nthD 0 l ((i + 4 * (i % 4)) % 16)
def invShiftRows (l : List Nat) : List Nat := (List.range 16).map fun i => nthD 0 l ((i + 12 * (i % 4)) % 16)

/-- MixColumns and its inverse. -/
def mixColumns : List Nat → List Nat
  | a :: b :: c :: d :: l =>
    let t := Nat.xor (Nat.xor a b) (Nat.xor c d)
    Nat.xor a (Nat.xor t (gfDouble (Nat.xor a b))) :: Nat.xor b (Nat.xor t (gfDouble (Nat.xor b c))) ::
    Nat.xor c (Nat.xor t (gfDouble (Nat.xor c d))) :: Nat.xor d (Nat.xor t (gfDouble (Nat.xor d a))) :: mixColumns l
  | _ => []
def invMixColumns : List Nat → List Nat
  | a :: b :: c :: d :: l =>
    let m := fun (w x y z : Nat) => Nat.xor (Nat.xor (gfMul14 w) (gfMul11 x)) (Nat.xor (gfMul13 y) (gfMul9 z))
    m a b c d :: m b c d a :: m c d a b :: m d a b c :: invMixColumns l
  | _ => []

/-- Eight words of the key schedule from the eight before them. -/
def keyNext (rcon : Nat) (w : List (List Nat)) : List (List Nat) :=
  match w with
  | [a, b, c, d, e, f, g, h] =>
    let rot := (h.drop 1 ++ h.take 1).map aesSub
    let a1 := xorBytes a (xorBytes rot [rcon, 0, 0, 0])
    let b1 := xorBytes b a1
    let c1 := xorBytes c b1
    let d1 := xorBytes d c1
    let e1 := xorBytes e (d1.map aesSub)
    let f1 := xorBytes f e1
    let g1 := xorBytes g f1
    [a1, b1, c1, d1, e1, f1, g1, xorBytes h g1]
  | _ => w

/-- The words of the key schedule. -/
def keyWords : Nat → Nat → List (List Nat) → List (List Nat)
  | 0, _, w => w
  | n + 1, rcon, w => w ++ keyWords n (gfDouble rcon) (keyNext rcon w)

/-- A list cut into pieces of four. -/
def fours {α : Type} : List α → List (List α)
  | a :: b :: c :: d :: l => [a, b, c, d] :: fours l
  | _ => []

/-- The fifteen round keys of a key of 32 bytes. -/
def roundKeys (key : List Nat) : List (List Nat) := ((fours (keyWords 7 1 (fours key))).map List.flatten).take 15

/-- The cipher on a block. -/
def aesEnc (keys : List (List Nat)) (b : List Nat) : List Nat :=
  match keys with
  | [] => b
  | k0 :: ks =>
    let mid := ks.dropLast.foldl (fun x k => xorBytes (mixColumns (shiftRows (x.map aesSub))) k) (xorBytes b k0)
    xorBytes (shiftRows (mid.map aesSub)) (ks.getLastD [])

/-- The inverse cipher on a block. -/
def aesDec (keys : List (List Nat)) (b : List Nat) : List Nat :=
  match keys with
  | [] => b
  | k0 :: ks =>
    let top := (invShiftRows (xorBytes b (ks.getLastD []))).map aesInvSub
    let mid := ks.dropLast.reverse.foldl (fun x k => (invShiftRows (invMixColumns (xorBytes x k))).map aesInvSub) top
    xorBytes mid k0

/-! ### XTS on a sector -/

/-- Bytes of a number, least significant first. -/
def leBytes (n v : Nat) : List Nat := (List.range n).map fun i => v / 256 ^ i % 256

/-- The number that bytes hold. -/
def leNum : List Nat → Nat
  | [] => 0
  | b :: l => b + 256 * leNum l

/-- The multiplication of a tweak by the primitive element. -/
def tweakNext (t : List Nat) : List Nat :=
  let v := leNum t
  leBytes 16 (if v < 2 ^ 127 then 2 * v else Nat.xor (2 * v - 2 ^ 128) 0x87)

/-- The data key and the tweak key of a pair. -/
def dataKeys (key : BitVec 512) : List (List Nat) := roundKeys (leBytes 32 (key.toNat % 2 ^ 256))
def tweakKeys (key : BitVec 512) : List (List Nat) := roundKeys (leBytes 32 (key.toNat / 2 ^ 256))

/-- A cipher on the two blocks of a sector under the tweak of a buffer offset (R250). -/
def xtsWith (f : List Nat → List Nat) (key : BitVec 512) (buf off : Nat) (bs : List Nat) : List Nat :=
  let t0 := aesEnc (tweakKeys key) (leBytes 16 (buf * 2 ^ 48 + off))
  let t1 := tweakNext t0
  xorBytes (f (xorBytes (bs.take 16) t0)) t0 ++ xorBytes (f (xorBytes (bs.drop 16) t1)) t1

/-- A sector enciphered, and deciphered (R250). -/
def xtsEnc (key : BitVec 512) (buf off : Nat) (bs : List Nat) : List Nat := xtsWith (aesEnc (dataKeys key)) key buf off bs
def xtsDec (key : BitVec 512) (buf off : Nat) (bs : List Nat) : List Nat := xtsWith (aesDec (dataKeys key)) key buf off bs

end Sys2Proof.Machine
end

