-- ==== Sys2Proof/Machine/BaseDie.lean ====
section
/-! DEFINITION. Machine/BaseDie.lean: DRAM rows and their activation counts (R256, R268 to R271), the memory-side cache (R265),
keys (R250), the scrub map (R253, R254), errors (R263), the requests of a memory port, their tags and their order (R257, R259, R261), the ways
of the L2 (R251), and the fill, write and write-back of a home line. -/

namespace Sys2Proof.Machine

/-! ### Rows (R256) -/

def rowOf (a : Nat) : Nat := paAddr a / 2 ^ 20
def bankOf (a : Nat) : Nat := paAddr a / 2 ^ 16 % 16
def pchOf (a : Nat) : Nat := paAddr a / 2 ^ 10 % 64

/-- Pseudo-channel and bank together, and the row key within the stack (the row base divided by 1,024). -/
def bankKey (a : Nat) : Nat := pchOf a * 16 + bankOf a
def rowKey (a : Nat) : Nat := paAddr a / 1024

/-- ROWACT fields (Table 13-4). -/
def rowactEn (w : Word) : Bool := w.getLsbD 63
def rowactNeigh (w : Word) : Nat := getBits w 16 2
def rowactThresh (w : Word) : Nat := getBits w 0 16

/-- Refresh-management commands of an alert: the existing neighbours at distance 1, and 2 when NEIGH = 1 (R269). -/
def rfmCommands (row neigh : Nat) : Nat :=
  (if 1 ≤ row then 1 else 0) + (if row + 1 < 65536 then 1 else 0) +
  (if neigh = 1 then (if 2 ≤ row then 1 else 0) + (if row + 2 < 65536 then 1 else 0) else 0)

/-- R269: an alert for the row of a. The commands leave the bank closed (R277). -/
def Stack.alert (k : Stack) (act : Word) (tick a : Nat) : Stack :=
  let n := rfmCommands (rowOf a) (rowactNeigh act)
  { k with
    log := tabPut k.next.toNat ⟨BitVec.ofNat 36 (rowKey a * 1024), BitVec.ofNat 3 n, BitVec.ofNat 64 tick⟩ k.log,
    next := k.next + 1, alerts := k.alerts + 1, rfm := k.rfm + BitVec.ofNat 32 n,
    counts := tabDel (rowKey a) k.counts, backoff := tabPut (bankKey a) (tick + 96 * n) k.backoff, rows := tabDel (bankKey a) k.rows }

/-- An access to the row of a (R268): an activation when another row of the bank is open, counted when EN = 1. -/
def Stack.openRow (k : Stack) (act : Word) (tick a : Nat) : Stack :=
  if tabFind (bankKey a) k.rows = some (rowOf a) then k
  else
    let k1 := { k with rows := tabPut (bankKey a) (rowOf a) k.rows }
    if !rowactEn act then k1
    else
      let n := tabGet 0 k.counts (rowKey a) + 1
      if rowactThresh act ≤ n then Stack.alert { k1 with counts := tabPut (rowKey a) n k1.counts } act tick a
      else { k1 with counts := tabPut (rowKey a) n k1.counts }

/-- The ROWACT register of the stack of a location. -/
def State.rowact (s : State) (k : Nat) : Word := ((s.die (stackDie k)).rowact[stackSide k]?).getD rowactReset

/-- The stack of a location changed by an access to its row. -/
def State.touchRow (s : State) (a : Nat) : State :=
  s.updStack (paStack a) fun k => k.openRow (s.rowact (paStack a)) s.tick a

/-- The mark of a sector that the scrubber has zeroed and nobody has written since: it reads as zero under every key. -/
def KeyTag.blank : KeyTag := ⟨0, 2 ^ 30, 0⟩

/-! ### Keys (R250) -/

/-- The key tag of a sector of a buffer: slot 0 or a zeroed slot has no tweak. -/
def State.keyTag (s : State) (slot buf off : Nat) : KeyTag :=
  let k := if slot = 0 then 0 else (s.pkg.keys[slot]?).getD 0
  if k = 0 then KeyTag.zero else ⟨k, buf, off / 32⟩

/-- Key tags of the sectors of a buffer around the one at a, whose tag is t. -/
def lineTag (t : KeyTag) (a sec : Nat) : KeyTag :=
  if t = KeyTag.zero then t else { t with sec := t.sec + sec - sectorOf a }

/-- The ciphertext of a sector under a tag, and the plaintext of a ciphertext. -/
def KeyTag.seal (t : KeyTag) (bs : List Nat) : List Nat := if t.key = 0 then bs else xtsEnc t.key t.buf (32 * t.sec) bs
def KeyTag.unseal (t : KeyTag) (bs : List Nat) : List Nat := if t.key = 0 then bs else xtsDec t.key t.buf (32 * t.sec) bs

/-- The bytes of a sector that was written under one tag, as DRAM gives them under another (R250). -/
def recode (wrote read : KeyTag) (bs : List Byte) : List Byte :=
  if wrote = read then bs
  else if wrote = KeyTag.blank then List.replicate 32 0
  else (read.unseal (wrote.seal (bs.map BitVec.toNat))).map (BitVec.ofNat 8)

/-- The home line whose bytes a request takes to its base die. -/
def BdReq.brings (r : BdReq) : Option Nat :=
  match r.who with
  | .writeBack line => some line
  | .clean line _ _ => some line
  | _ => none

/-- A line stands above DRAM, as plaintext: in its home slice, in the memory-side cache, or on its way between them. -/
def State.cached (s : State) (line : Nat) : Bool :=
  let k := s.stack (paStack (line * 128))
  (tabFind line s.homeLines).isSome || (tabFind line k.msc).isSome || k.queue.any fun r => r.brings == some line && r.reply.isNone

/-- A sector leaves DRAM under a tag: what stands in memory is its plaintext under that tag from then on. -/
def State.settle (s : State) (sec : Nat) (t : KeyTag) : State :=
  let old := tabGet KeyTag.zero s.secKey sec
  if old = t then s
  else { s with mem := memWrite s.mem ((countFrom (sec * 32) 32).zip (recode old t (memBytes s.mem (sec * 32) 32))),
                secKey := tabSet KeyTag.zero sec t s.secKey }

/-- The sectors of the line of a leave DRAM, t being the tag of the one at a. -/
def State.settleLine (s : State) (a : Nat) (t : KeyTag) : State :=
  (countFrom (lineOf a * 4) 4).foldl (fun s k => s.settle k (lineTag t a k)) s

/-! ### Scrub map (R253, R254) -/

/-- Whether granule g of a frame is still to be zeroed. -/
def Scrub.pending (f : Scrub) (g : Nat) : Bool :=
  decide (f.base + f.next ≤ g) && decide (g < f.base + f.count) && !f.done.contains g

/-- A location in a granule that is SCRUB-PENDING and not done. -/
def State.scrubPending (s : State) (a : Nat) : Bool :=
  locKind a = .dram && (s.stack (paStack a)).scrub.any fun f => f.pending (a / 4096)

/-- Granule g zeroed, with the key tag of each of its sectors (R253, R254); whole sectors are written, so that none of it stays poisoned. -/
def State.zeroGranule (s : State) (g : Nat) (tag : Nat → KeyTag) : State :=
  ({ s with
    mem := memClear s.mem (g * 4096) 4096,
    secKey := (countFrom (g * 128) 128).foldl (fun t k => tabSet KeyTag.zero k (tag k) t) s.secKey }).updStack (paStack (g * 4096)) fun k =>
    { k with poison := k.poison.filter (· / 128 != g), weak := k.weak.filter (· / 128 != g) }

/-- The key tag of a sector of the granule of a, where t is that of a's sector: with ILV 3 the blocks of 256 bytes of a stack lie twelve blocks
apart in the buffer (R244). -/
def State.granTag (s : State) (t : KeyTag) (a sec : Nat) : KeyTag :=
  if t = KeyTag.zero ∨ (s.entry (BitVec.ofNat 20 t.buf)).ilv ≠ 3 then lineTag t a sec
  else { t with sec := t.sec + (sec / 8 * 96 + sec % 8) - (sectorOf a / 8 * 96 + sectorOf a % 8) }

/-- R254: the granule of a is zeroed under the key of the tag of a's sector, and done. -/
def State.scrubDone (s : State) (a : Nat) (t : KeyTag) : State :=
  if s.scrubPending a then
    (s.zeroGranule (a / 4096) (s.granTag t a)).updStack (paStack a) fun (k : Stack) =>
      { k with scrub := k.scrub.map fun (f : Scrub) =>
          if f.pending (a / 4096) then { f with done := f.done ++ [a / 4096] } else f }
  else s

/-! ### DRAM and its errors (R263) -/

/-- The sectors of a list that lie in a line. -/
def inLine (line : Nat) (l : List Nat) : List Nat := l.filter fun k => k / 4 == line
def offLine (line : Nat) (l : List Nat) : List Nat := l.filter fun k => k / 4 != line

/-- The sectors of a line. -/
def lineSectors (line : Nat) : List Nat := countFrom (line * 4) 4

/-- The row of a line opened in DRAM, and some of its sectors read: errors that the code corrects are counted and written back corrected. -/
def State.dramRead (s : State) (line : Nat) (secs : List Nat) : State :=
  (s.touchRow (line * 128)).updStack (paStack (line * 128)) fun k =>
    { k with fixed := k.fixed + (k.weak.filter secs.contains).length, weak := k.weak.filter fun x => !secs.contains x }

/-- Sectors read in the memory-side cache, with the same correction. -/
def State.mscSense (s : State) (line : Nat) (secs : List Nat) : State :=
  s.updStack (paStack (line * 128)) fun k =>
    { k with fixed := k.fixed + (k.mscWeak.filter secs.contains).length, mscWeak := k.mscWeak.filter fun x => !secs.contains x }

/-- A line of the memory-side cache written to DRAM, with its poison (R346). -/
def State.dramWrite (s : State) (line : Nat) : State :=
  ((s.mscSense line (lineSectors line)).touchRow (line * 128)).updStack (paStack (line * 128)) fun k =>
    { k with poison := offLine line k.poison ++ inLine line k.mscPoison, weak := offLine line k.weak }

/-! ### The memory-side cache (R265) -/

/-- The set of a line in the memory-side cache, of 32 MiB in 16 ways. DESIGN CHOICE (log 69): the low bits of its address. -/
def mscSet (line : Nat) : Nat := line % 16384

/-- The line of the set of another that was used longest ago, when the set has more lines than ways. -/
def mscOver (line : Nat) (l : List (Nat × Bool)) : Option (Nat × Bool) :=
  let m := l.filter fun x => mscSet x.1 == mscSet line
  if 16 < m.length then m.getLast? else none

/-- A line leaves the memory-side cache, with a write to DRAM when it is dirty. -/
def State.mscOut (s : State) (line : Nat) (dirty : Bool) : State :=
  (if dirty then s.dramWrite line else s).updStack (paStack (line * 128)) fun k =>
    { k with msc := k.msc.filter (·.1 != line), mscPoison := offLine line k.mscPoison, mscWeak := offLine line k.mscWeak }

/-- The line that leaves the memory-side cache where another is allocated, with its dirty bit. -/
def State.mscVictim (s : State) (line : Nat) : Option (Nat × Bool) :=
  let l := (s.stack (paStack (line * 128))).msc
  if (tabFind line l).isSome then none else mscOver line ((line, false) :: l)

/-- A line used in the memory-side cache, with its dirty bit; the least recently used line of a full set leaves. -/
def State.mscPut (s : State) (line : Nat) (dirty : Bool) : State :=
  let st := paStack (line * 128)
  let s1 := s.updStack st fun k => { k with msc := (line, dirty) :: k.msc.filter (·.1 != line) }
  match mscOver line (s1.stack st).msc with
  | some x => s1.mscOut x.1 x.2
  | none => s1

/-- A read of n sectors from a on at the base die, t being the key tag of a's sector: the MSC copy, or DRAM with a fill of the MSC with the whole
line, unless the granule is pending (R254). -/
def State.mscRead (s : State) (a n : Nat) (t : KeyTag) : State :=
  let line := lineOf a
  if s.scrubPending a then s
  else match tabFind line (s.stack (paStack a)).msc with
    | some d => (s.mscSense line (countFrom (sectorOf a) n)).mscPut line d
    | none => (((s.dramRead line (lineSectors line)).settleLine a t).updStack (paStack a) fun k =>
        { k with mscPoison := k.mscPoison ++ inLine line k.poison }).mscPut line false

/-- A read of the sector of a that never allocates (R265): of a tile's row, or of an atomic that writes nothing. -/
def State.mscPeek (s : State) (a : Nat) : State :=
  if s.scrubPending a then s
  else match tabFind (lineOf a) (s.stack (paStack a)).msc with
    | some d => (s.mscSense (lineOf a) [sectorOf a]).mscPut (lineOf a) d
    | none => s.dramRead (lineOf a) [sectorOf a]

/-- A write at the base die, for which some sectors are read: a present line, or a whole line, stays in the MSC and dirty; any other write goes to
DRAM. -/
def State.mscWrite (s : State) (line : Nat) (whole : Bool) (secs : List Nat) : State :=
  if whole || (tabFind line (s.stack (paStack (line * 128))).msc).isSome then (s.mscSense line secs).mscPut line true
  else s.dramRead line secs

/-- A whole line written back to the memory-side cache, with the poisoned sectors that it carries (R346): DRAM will hold it under the tag t of its
first sector (R250). -/
def State.mscStore (s : State) (line : Nat) (bad : List Nat) (t : KeyTag) : State :=
  let s1 := (s.mscWrite line true []).updStack (paStack (line * 128)) fun k =>
    { k with mscPoison := offLine line k.mscPoison ++ bad, mscWeak := offLine line k.mscWeak }
  { s1 with secKey := (lineSectors line).foldl (fun m k => tabSet KeyTag.zero k (lineTag t (line * 128) k) m) s1.secKey }

/-- A drop: a dirty line is written to DRAM, and the line is deallocated. -/
def State.mscDrop (s : State) (line : Nat) : State :=
  match tabFind line (s.stack (paStack (line * 128))).msc with
  | some d => s.mscOut line d
  | none => s

/-- A dirty MSC line is written to DRAM and stays, clean (R388). -/
def State.mscClean (s : State) (line : Nat) : State :=
  match tabFind line (s.stack (paStack (line * 128))).msc with
  | some true => (s.dramWrite line).mscPut line false
  | _ => s

/-- The sectors of a line that are poisoned at its base die: in the MSC, or in DRAM. -/
def State.baseBad (s : State) (line : Nat) : List Nat :=
  let k := s.stack (paStack (line * 128))
  if s.scrubPending (line * 128) then [] else inLine line (if (tabFind line k.msc).isSome then k.mscPoison else k.poison)

/-- A poisoned sector of DRAM, as its home meets it (R263): in the home slice, or at the base die. -/
def State.poisoned (s : State) (a : Nat) : Bool :=
  locKind a = .dram &&
  (if (tabFind (lineOf a) s.homeLines).isSome then s.linePoison else s.baseBad (lineOf a)).contains (sectorOf a)

/-- A sector of n bytes from a on is poisoned: a read of them returns no data (R346). -/
def State.poisonedIn (s : State) (a n : Nat) : Bool :=
  (List.range ((n + 31) / 32 + 1)).any fun i => s.poisoned (min (a + 32 * i) (a + n - 1))

/-- An uncorrectable error in a sector of DRAM (R263). -/
def State.cellError (s : State) (sec : Nat) : State :=
  let a := sec * 32
  if locKind a = .dram then
    s.updStack (paStack a) fun k => { k with poison := if k.poison.contains sec then k.poison else sec :: k.poison }
  else s

/-- An error in a sector of DRAM that the code corrects at its next read (R263). -/
def State.cellFixed (s : State) (sec : Nat) : State :=
  let a := sec * 32
  if locKind a = .dram then
    s.updStack (paStack a) fun k => { k with weak := if k.weak.contains sec then k.weak else sec :: k.weak }
  else s

/-- An error in a sector of a line of the MSC, uncorrectable or not (R263). -/
def State.mscError (s : State) (sec : Nat) (fixed : Bool) : State :=
  s.updStack (paStack (sec * 32)) fun k =>
    if locKind (sec * 32) ≠ .dram ∨ (tabFind (sec / 4) k.msc).isNone then k
    else if fixed then { k with mscWeak := if k.mscWeak.contains sec then k.mscWeak else sec :: k.mscWeak }
    else { k with mscPoison := if k.mscPoison.contains sec then k.mscPoison else sec :: k.mscPoison }

/-- A write of whole sectors clears their poison where it is made (R263): n bytes at a, within one line. -/
def State.unpoison (s : State) (a n : Nat) : State :=
  let cut := fun (l : List Nat) => l.filter fun k => !(decide (a ≤ k * 32) && decide (k * 32 + 32 ≤ a + n))
  if locKind a ≠ .dram then s
  else if (tabFind (lineOf a) s.homeLines).isSome then { s with linePoison := cut s.linePoison }
  else s.updStack (paStack a) fun k =>
    if (tabFind (lineOf a) k.msc).isSome then { k with mscPoison := cut k.mscPoison, mscWeak := cut k.mscWeak }
    else { k with poison := cut k.poison, weak := cut k.weak }

/-! ### Tags and order at the memory port (R259, R261) -/

/-- Two ranges overlap. -/
def rangesMeet (a n b m : Nat) : Bool := decide (a < b + m) && decide (b < a + n)

/-- A request for the line or sectors at a location. -/
def bdRequest (kind : Nat) (loc nsect : Nat) (key : BitVec 7) (buf : BitVec 20) (off : Nat) (who : BdWho) : BdReq :=
  { num := 0, kind := kind, pch := pchOf loc, wq := !(kind == 0 || kind == 5 || kind == 6), tag := none, gen := false, layout := 0, key := key,
    aop := 0, asz := false, nsect := nsect, bmask := 0, buf := buf, off := off, loc := loc, rows := [], data := [], opnd := 0,
    cmp := 0, who := who, bad := [], sent := 0, tries := 0, lost := false, hurt := 0, reply := none }

/-- Pseudo-channel, queue and tag together. -/
def tagKeyOf (pch : Nat) (wq : Bool) (tag : Nat) : Nat := pch * 16 + (if wq then 8 else 0) + tag

/-- The lowest free tag of a queue. -/
def Stack.freeTag (k : Stack) (pch : Nat) (wq : Bool) : Option Nat :=
  (List.range 8).find? fun t => !k.queue.any fun r => r.pch == pch && r.wq == wq && r.tag == some t

/-- The bytes that a request covers, as locations and sizes. -/
def BdReq.spans (r : BdReq) : List (Nat × Nat) :=
  if r.kind = 5 then r.rows.map fun a => (a.1, 32)
  else if r.kind = 6 then []
  else [if r.kind = 3 then (r.loc, if r.asz then 8 else 4) else (r.loc, 32 * (r.nsect + 1))]

/-- R261: an earlier request overlaps this one, so that it is to the same pseudo-channel, and one of the two is on the write queue. -/
def BdReq.blockedBy (r : BdReq) (l : List BdReq) : Bool :=
  l.any fun q => (q.wq || r.wq) && q.spans.any fun a => r.spans.any fun b => rangesMeet a.1 a.2 b.1 b.2

/-- The MP sends every waiting request that finds a tag and is not held back, in order of arrival. -/
def Stack.sendWaiting (tick : Nat) : List BdReq → Stack → Stack
  | [], k => k
  | r :: l, k =>
    let before := k.queue.takeWhile fun q => q.num != r.num
    if r.tag.isSome ∨ r.blockedBy before then Stack.sendWaiting tick l k
    else match k.freeTag r.pch r.wq with
      | none => Stack.sendWaiting tick l k
      | some t =>
        let key := tagKeyOf r.pch r.wq t
        let g := tabGet false k.gens key
        let r1 := { r with tag := some t, gen := g, sent := tick }
        Stack.sendWaiting tick l
          { k with queue := k.queue.map fun q => if q.num = r.num then r1 else q, gens := tabPut key (!g) k.gens }

/-- Waiting requests of a stack sent. -/
def State.bdPump (s : State) (st : Nat) : State := s.updStack st fun k => Stack.sendWaiting s.tick k.queue k

/-- A new request at the MP of its stack. -/
def State.bdSend (s : State) (r : BdReq) : State :=
  let s1 : State := { s with nextReq := s.nextReq + 1 }
  (s1.updStack (paStack r.loc) fun k => { k with queue := k.queue ++ [{ r with num := s.nextReq }] }).bdPump (paStack r.loc)

/-- The write of a whole home line, under the buffer that brought or wrote it last, with the poison that it carries (R346). -/
def State.lineReq (s : State) (line : Nat) (who : BdWho) : BdReq :=
  let b := tabGet (0, 0) s.lineBuf line
  { bdRequest 1 (line * 128) 3 (BitVec.ofNat 7 (s.entry b.1).key) b.1 b.2 who with
    data := memBytes s.mem (line * 128) 128, bad := inLine line s.linePoison }

/-- The writes that take bytes within one line to the base die: a whole line in one, else a masked write for each sector (R264). off is the buffer
offset of the first byte. -/
def throughReqs (loc : Nat) (bs : List Byte) (key : BitVec 7) (buf : BitVec 20) (off : Nat) (who : BdWho) : List BdReq :=
  if bs.length = 128 then [{ bdRequest 1 loc 3 key buf off who with data := bs }]
  else (countFrom (sectorOf loc) (sectorOf (loc + bs.length - 1) + 1 - sectorOf loc)).map fun sec =>
    let lo := max loc (sec * 32) - sec * 32
    let hi := min (loc + bs.length) (sec * 32 + 32) - sec * 32
    { bdRequest 2 (sec * 32) 0 key buf (off + sec * 32 - loc) who with
      bmask := BitVec.ofNat 32 ((2 ^ (hi - lo) - 1) * 2 ^ lo),
      data := (List.range 32).map fun i => if lo ≤ i ∧ i < hi then nthD 0 bs (sec * 32 + i - loc) else 0 }

/-! ### Monitors -/

/-- R173: a write to a sector, seen by every monitor armed on it. -/
def State.notify (s : State) (sec : Nat) : State :=
  s.mapSlots fun _ c => if c.mon.armed = some sec then { c with mon := { c.mon with written := true } } else c

/-- R172: the monitors on the sectors of a line that leaves its home slice are lost. -/
def State.loseMonitors (s : State) (line : Nat) : State :=
  s.mapSlots fun _ c =>
    match c.mon.armed with
    | some sec => if sec / 4 = line then { c with mon := { c.mon with armed := none, evicted := true } } else c
    | none => c

/-! ### The ways of an L2 (R251) -/

/-- The ways that may take a line for a VF: its mask without the die-scratch ways, or every cache way when that is empty. -/
def State.l2Ways (s : State) (d vf : Nat) : List Nat :=
  let x := s.die d
  let ways := (List.range 16).filter fun w => decide (x.waysplit.toNat ≤ w)
  let own := ways.filter fun w => ((x.l2waymask[vf]?).getD 0xFFFF).getLsbD w
  if own = [] then ways else own

/-- The slice and the set of a line on a die: 1,024 lines a way on an M-die, 4,096 on a B-die. DESIGN CHOICE (log 69): the set is given by the
address bits above and below those that choose the slice. -/
def l2Set (d line : Nat) : Nat × Nat :=
  (homeSlice (line * 128), (line / 64 * 2 + line % 2) % (if d < 4 then 1024 else 4096))

/-- The line that stands in a way of the set of another. -/
def State.l2Line (s : State) (d line w : Nat) : Option Nat :=
  ((s.die d).l2.find? fun x => x.2 == w && l2Set d x.1 == l2Set d line).map (·.1)

/-- A copy dropped, with the invalidation held for its line (R182). -/
def State.dropCopy (s : State) (d line : Nat) : State :=
  s.updDie d fun x =>
    { x with copies := tabDel line x.copies, heldInv := x.heldInv.filter (· != line),
             l2 := if (tabFind line x.copies).isSome then tabDel line x.l2 else x.l2 }

/-- A line that no die holds a copy of any more; a copy on its way to a die is not filled. -/
def State.recall (s : State) (line : Nat) : State :=
  let s1 := (List.range 8).foldl (fun s d => s.dropCopy d line) s
  { s1 with presence := tabDel line s1.presence, reqs := s1.reqs.map fun (r : Req) =>
      if r.opc = 1 ∧ lineOf r.loc = line then { r with stale := true } else r }

/-- A dirty home line is sent to its base die, and stays, clean unless that fails (R262). A line of host memory goes to the host. -/
def State.lineClean (s : State) (line : Nat) : State :=
  match tabFind line s.homeLines with
  | some true =>
    let s1 := if locKind (line * 128) = .dram then s.bdSend (s.lineReq line (.writeBack line)) else s
    { s1 with homeLines := tabPut line false s1.homeLines }
  | _ => s

/-- A line leaves its home slice: remote copies are invalidated first (R180), then it is written back and dropped. -/
def State.lineDrop (s : State) (line : Nat) (keep : Bool) : State :=
  let s1 := (if keep then s.lineClean line else s).recall line
  let s2 := s1.updDie (homeDie (line * 128)) fun x => { x with l2 := tabDel line x.l2 }
  ({ s2 with homeLines := tabDel line s2.homeLines, lineBuf := tabDel line s2.lineBuf, linePoison := offLine line s2.linePoison }).loseMonitors line

/-- A way of a die's L2 for a line, emptied: one that is free, or one of those that no request holds; which of them is free (R251 names no
replacement). -/
def State.l2Take (s : State) (d line vf : Nat) : Option (Nat × State) :=
  let ways := s.l2Ways d vf
  match ways.find? fun w => (s.l2Line d line w).isNone with
  | some w => some (w, s)
  | none =>
    let idle := ways.filter fun w => match s.l2Line d line w with | some x => !s.txns.any (·.line == x) | none => true
    match idle[Config.l2Victim s.draws line % (max 1 idle.length)]? with
    | none => none
    | some w => match s.l2Line d line w with
      | some x => some (w, if homeDie (x * 128) = d then s.lineDrop x true else s.dropCopy d x)
      | none => some (w, s)

/-- A home line placed in its slice for a VF, clean, with the poison that it brings, off being the offset of its first byte in a buffer; it stays
where no way can take it. -/
def State.install (s : State) (line vf : Nat) (buf : BitVec 20) (off : Nat) : State :=
  let d := homeDie (line * 128)
  match s.l2Take d line vf with
  | none => s
  | some (w, s1) =>
    let s2 := s1.updDie d fun x => { x with l2 := tabPut line w x.l2 }
    let bad := if locKind (line * 128) = .dram then s.baseBad line else []
    { s2 with homeLines := tabPut line false s2.homeLines, linePoison := s2.linePoison ++ bad,
              lineBuf := if locKind (line * 128) = .dram then tabPut line (buf, off) s2.lineBuf else s2.lineBuf }

/-- The line of a write-back that failed is dirty again in its slice (R262); where no way can take it back, the write-back goes out anew. -/
def State.lineBack (s : State) (r : BdReq) : State :=
  let line := lineOf r.loc
  let s1 := if (tabFind line s.homeLines).isSome then s else s.install line (s.entry r.buf).vf r.buf r.off
  if (tabFind line s1.homeLines).isSome then
    { s1 with homeLines := tabPut line true s1.homeLines, linePoison := offLine line s1.linePoison ++ r.bad }
  else s1.bdSend { bdRequest 1 (line * 128) 3 r.key r.buf r.off (.writeBack line) with data := r.data, bad := r.bad }

/-- A line copied into a die's L2 for a VF (R181), if a way can take it. -/
def State.putCopy (s : State) (d line vf : Nat) (bs : List Byte) : State :=
  match s.l2Take d line vf with
  | none => s
  | some (w, s1) => s1.updDie d fun x => { x with copies := tabPut line bs x.copies, l2 := tabPut line w x.l2 }

/-! ### Lines and bytes at their home -/

/-- A byte at its home, whose line is cached or in no need of it: zero in a pending granule. -/
def State.homeByte (s : State) (a : Nat) : Byte := if s.scrubPending a then 0 else memGet s.mem a

/-- The line of a location needs no fill: it is in its slice, its granule is pending (R254), or it comes from no stack. -/
def State.lineHere (s : State) (a : Nat) : Bool := (tabFind (lineOf a) s.homeLines).isSome || locKind a != .dram || s.scrubPending a

/-- A home line brought into its slice at once, for an access at location a, at an offset of a buffer, with key tag t; a line present stays as it is.
A line of a pending granule is not filled (R254); die scratch and the memory of peers have no such lines. -/
def State.homeFill (s : State) (a vf : Nat) (t : KeyTag) (buf : BitVec 20) (off : Nat) : State :=
  if (tabFind (lineOf a) s.homeLines).isSome then s
  else match locKind a with
    | .dram => if s.scrubPending a then s
        else (s.mscRead (lineOf a * 128) 4 (lineTag t a (lineOf a * 4))).install (lineOf a) vf buf (off - a % 128)
    | .host => s.install (lineOf a) vf buf (off - a % 128)
    | _ => s

/-- What a write of n bytes at a meets at their home: the granule zeroed (R254), and, where DRAM itself is written, the two end sectors under the
tag. -/
def State.beforeApply (s : State) (a n : Nat) (t : KeyTag) : State :=
  let s1 := s.scrubDone a t
  let last := a + n - 1
  if locKind a = .dram && (tabFind (lineOf a) s1.homeLines).isNone && !s1.cached (lineOf a) then
    (s1.settle (sectorOf a) t).settle (sectorOf last) (lineTag t a (sectorOf last))
  else s1

/-- The write of bytes within one line at their home: its global point (R183). A line in its slice is dirty afterwards. -/
def State.apply (s : State) (a : Nat) (bs : List Byte) (t : KeyTag) : State :=
  if bs = [] then s
  else
    let last := a + bs.length - 1
    let s2 := s.beforeApply a bs.length t
    let s3 := { s2 with mem := memWrite s2.mem ((countFrom a bs.length).zip bs) }
    let s4 := match locKind a with
      | .dram =>
        { s3 with homeLines := if (tabFind (lineOf a) s3.homeLines).isSome then tabPut (lineOf a) true s3.homeLines else s3.homeLines,
                  secKey := tabSet KeyTag.zero (sectorOf last) (lineTag t a (sectorOf last))
                    (tabSet KeyTag.zero (sectorOf a) t s3.secKey) }
      | .host => { s3 with homeLines := if (tabFind (lineOf a) s3.homeLines).isSome then tabPut (lineOf a) true s3.homeLines else s3.homeLines }
      | _ => s3
    let s5 := (s4.unpoison a bs.length).notify (sectorOf a)
    if sectorOf last = sectorOf a then s5 else s5.notify (sectorOf last)

end Sys2Proof.Machine
end

