-- ==== Sys2Proof/Machine/Fetch.lean ====
section
/-! DEFINITION. Machine/Fetch.lean: bytes as a key shows them at their home (12 R250), the fetch of the word at the PC (04 R72, R73; 12
R239; 16 R320, R321), and the placing of a word where the next fetch reads it. -/

namespace Sys2Proof.Machine

/-- A byte at its home under a key tag of its sector: as a cache holds it, or deciphered from DRAM. -/
def State.seeByte (s : State) (a : Nat) (t : KeyTag) : Byte :=
  if s.scrubPending a then 0
  else if s.cached (lineOf a) then memGet s.mem a
  else if tabGet KeyTag.zero s.secKey (sectorOf a) = t then memGet s.mem a
  else nthD 0 (recode (tabGet KeyTag.zero s.secKey (sectorOf a)) t (memBytes s.mem (sectorOf a * 32) 32)) (a % 32)

/-- The key tag of the byte at an offset of a buffer, when it lies in DRAM (R250). -/
def State.byteTag (s : State) (e : Entry) (buf : BitVec 20) (loc off : Nat) : KeyTag :=
  if locKind loc = .dram then s.keyTag e.key buf.toNat off else KeyTag.zero

/-- Native code of the focused context's code object: n bytes at an offset of its buffer, and the check of their home (R240). -/
def State.codePlace (s : State) (c : Ctx) (off n : Nat) : Except Stop (Entry × List Nat) :=
  let w : Win := ⟨capBuf c.launch.code, off, capS c.launch.code, 0⟩
  match s.translate c w n rExec .exec with
  | .error x => .error x
  | .ok (e, l) => if (s.homeBar c w n rExec .exec l).isSome then .error (.trap (memTrap .permRemote w.buf 0 off)) else .ok (e, l)

/-- Where the word at the PC lies: the code object's entry, buffer, first offset and locations; or what stops the fetch (R73, R320). -/
def State.fetchPlace (s : State) (c : Ctx) : Except Stop (Entry × Nat × List Nat) :=
  let code := c.launch.code
  let off := capBase code + c.launch.nativeOff + 10 * c.regs.pc
  let w : Win := ⟨capBuf code, off, capS code, 0⟩
  if c.launch.nativeLen ≤ c.regs.pc then .error (.trap ⟨.capBounds, BitVec.ofNat 64 c.regs.pc, 0⟩)
  else if rExec &&& ~~~(capRights code) ≠ 0 then .error (.trap (memTrap .capRights w.buf 0 off))
  else if capLen code < c.launch.nativeOff + 10 * c.regs.pc + 10 then .error (.trap (memTrap .capBounds w.buf 0 off))
  else match s.codePlace c off 10 with
    | .error x => .error x
    | .ok (e, l) => .ok (e, off, l)

/-- The first poisoned byte that a fetch of locations would read, as its offset from off on (R346). -/
def State.poisonIn (s : State) (off : Nat) (l : List Nat) : Option Nat := ((l.zip (countFrom off l.length)).find? fun p => s.poisoned p.1).map (·.2)

/-- The word at the PC as its code object holds it (R72); the words of a translated code object stand in a code buffer of the VF (R313). -/
def State.fetchHome (s : State) : Except Stop IWord :=
  match s.ctx.launch.native with
  | some bs =>
    if s.ctx.launch.nativeLen ≤ s.ctx.regs.pc then .error (.trap ⟨.capBounds, BitVec.ofNat 64 s.ctx.regs.pc, 0⟩)
    else .ok (wordOfBytes ((bs.drop (10 * s.ctx.regs.pc)).take 10))
  | none => match s.fetchPlace s.ctx with
  | .error x => .error x
  | .ok (e, off, l) =>
    .ok (wordOfBytes ((l.zip (countFrom off 10)).map fun p => s.seeByte p.1 (s.byteTag e (capBuf s.ctx.launch.code) p.1 p.2)))

/-! ### The level-one instruction cache (R320, R321) -/

/-- The first offset of fetch line n of a code object, from its base, and the bytes of native code from there, 160 at most (R72). -/
def Launch.lineStart (l : Launch) (n : Nat) : Nat := l.nativeOff + 160 * n
def Launch.lineBytes (l : Launch) (n : Nat) : Nat := min 160 (10 * (l.nativeLen - 16 * n))

/-- A line of a cache is fetch line n of a launched code object: the two slots share it, and VFs do not (R320). DESIGN CHOICE (log 76): the key holds
the code capability's BASE beside the (VF, BUF, line index) that R320 names, since two code objects in one buffer would share lines else. -/
def CodeLine.is (x : CodeLine) (l : Launch) (n : Nat) : Bool :=
  x.vf == l.vf && x.buf == capBuf l.code && x.base == capBase l.code && x.line == n

/-- Fetch line n of the focused context's code object in the core's instruction cache. -/
def State.codeLine (s : State) (n : Nat) : Option CodeLine := (s.core (coreKey s.cur)).l1i.find? fun x => x.is s.ctx.launch n

/-- Fetch line n of the focused context's code object, if it can be read through its capability with the execute right (R320). -/
def State.readLine (s : State) (n : Nat) : Option CodeLine :=
  let l := s.ctx.launch
  let off := capBase l.code + l.lineStart n
  if l.native.isSome ∨ l.nativeLen ≤ 16 * n ∨ rExec &&& ~~~(capRights l.code) ≠ 0 ∨ capLen l.code < l.lineStart n + l.lineBytes n then none
  else match s.codePlace s.ctx off (l.lineBytes n) with
    | .error _ => none
    | .ok (e, locs) => if (s.poisonIn off locs).isSome then none else some ⟨l.vf, capBuf l.code, capBase l.code, n,
        (locs.zip (countFrom off (l.lineBytes n))).map fun p => s.seeByte p.1 (s.byteTag e (capBuf l.code) p.1 p.2)⟩

/-- A line of the cache stays: it is as its code object holds it, or the cache still holds it, which is free. It differs only where a store has
changed it, or where it can no longer be read (R321). -/
def State.lineStays (s : State) (n : Nat) (x : CodeLine) : Bool := s.readLine n == some x || Config.lineKept s.draws (coreKey s.cur)

/-- The word at the PC stands in its line in the core's instruction cache, and is read there. -/
def State.fetchHit (s : State) : Option CodeLine :=
  (s.codeLine (s.ctx.regs.pc / 16)).filter fun x =>
    s.lineStays (s.ctx.regs.pc / 16) x && s.ctx.launch.native.isNone && decide (s.ctx.regs.pc < s.ctx.launch.nativeLen)

/-- A poisoned byte that the fetch of the word at the PC meets: its offset (R346). -/
def State.fetchPoison (s : State) : Option Nat :=
  if s.fetchHit.isSome ∨ s.ctx.launch.native.isSome then none
  else match s.fetchPlace s.ctx with
    | .ok (_, off, l) => s.poisonIn off l
    | .error _ => none

/-- The word at the PC: of its line, as the cache holds it or as it is read anew, and the line is filled then, so that its words are all old or
all new (R321). -/
def State.fetch (s : State) : Except Stop IWord :=
  match s.fetchHit with
  | some x => .ok (wordOfBytes ((x.data.drop (10 * (s.ctx.regs.pc % 16))).take 10))
  | none => s.fetchHome

/-- The lines of a fetch, each by its first location with the offset of that in the buffer (R320). -/
def fetchLines (off : Nat) (l : List Nat) : List (Nat × Nat) :=
  let p := l.zip (countFrom off l.length)
  (l.map lineOf).eraseDups.filterMap fun k => p.find? fun x => lineOf x.1 == k

/-- A line of native code held by the L2 as an ordinary read-only line (R320): in its home slice, read from its stack where it is missing, and as a
copy on the core's die. -/
def State.codeFill (s : State) (e : Entry) (a off : Nat) : State :=
  let l := s.ctx.launch
  let buf := capBuf l.code
  let d := slotDie s.cur
  if homeDie a ≠ d ∧ (tabFind (lineOf a) (s.die d).copies).isSome then s
  else
    let s1 := s.homeFill a l.vf (s.byteTag e buf a off) buf off
    if homeDie a = d ∨ noCopyOn d a = true ∨ s1.scrubPending a = true then s1
    else
      let s2 := s1.putCopy d (lineOf a) l.vf (memBytes s1.mem (lineOf a * 128) 128)
      { s2 with presence := tabPut (lineOf a) (setBits (tabGet (0 : BitVec 8) s2.presence (lineOf a)) d 1 1) s2.presence }

/-- The lines of native code at locations held by the L2. -/
def State.codeFills (s : State) (e : Entry) (off : Nat) (l : List Nat) : State :=
  (fetchLines off l).foldl (fun s x => s.codeFill e x.1 x.2) s

/-- The lines that the fetch of the word at the PC needs held by the L2, where its own cache does not hold them. -/
def State.fetchFill (s : State) : State :=
  if s.fetchHit.isSome ∨ s.ctx.launch.native.isSome then s
  else match s.fetchPlace s.ctx with
    | .ok (e, off, l) => s.codeFills e off l
    | .error _ => s

/-- Fetch line n read into the core's instruction cache, of 64 KiB, in the place of the line fetched first; its translation joins the extent cache
(R245). -/
def State.loadLine (s : State) (n : Nat) : State :=
  let k := coreKey s.cur
  let c := s.core k
  let l := c.l1i.filter fun x => !x.is s.ctx.launch n
  match s.readLine n with
  | some x =>
    let off := x.base + s.ctx.launch.lineStart n
    let s1 := (s.setCore k { c with l1i := (x :: l).take 409 }).useExtent s.cur x.buf off
    (match s.codePlace s.ctx off (s.ctx.launch.lineBytes n) with
     | .ok (e, locs) => s1.codeFills e off locs
     | .error _ => s1)
  | none => s.setCore k { c with l1i := l }

/-- Fetch line n in the core's instruction cache: a line that stays, or one read anew. -/
def State.fillLine (s : State) (n : Nat) : State :=
  match s.codeLine n with
  | some x => if s.lineStays n x then s else s.loadLine n
  | none => if (s.readLine n).isSome then s.loadLine n else s

/-- A fetch fills its line, and the next one is prefetched (R320). -/
def State.fillCode (s : State) : State := (s.fetchFill.fillLine (s.ctx.regs.pc / 16)).fillLine (s.ctx.regs.pc / 16 + 1)

/-! ### Placing a word -/

/-- The physical addresses of the small layout: a buffer table of one entry, its page table, its code page. -/
def tinyTable : Nat := 0x1000
def tinyRoot : Nat := 0x2000
def tinyPage : Nat := 0x10000

/-- The bytes of a dword at an address. -/
def dwordCells (a : Nat) (v : BitVec 64) : List (Nat × Byte) := (countFrom a 8).zip (bytesOf 8 v.toNat)

/-- The table entry of a global buffer of one 64 KiB page with every right, owned by VF 0 and partition 0, and its leaf. -/
def tinyCells : List (Nat × Byte) :=
  dwordCells tinyTable 0x800F000000010000 ++ dwordCells (tinyTable + 16) (BitVec.ofNat 64 tinyRoot) ++
  dwordCells tinyRoot (0xC000000000000000 ||| BitVec.ofNat 64 tinyPage)

/-- A context as a launch leaves it, whose code object is buffer 0 with one native word at offset 0x80. -/
def Ctx.tiny : Ctx :=
  { Ctx.free with
    bind := { BindRec.zero with st := .run, ninst := 1, wdleft := BitVec.allOnes 64 },
    launch := { Launch.zero with
      ninst := 1, code := mkCap 0 15 false false 0 0x1000, nativeOff := 0x80, nativeLen := 1, vregKiB := 128, scrKiB := 64,
      wdLimit := BitVec.allOnes 64 },
    regs := { Regs.zero with s := Regs.zero.s.setIfInBounds 2 1 } }

/-- A machine whose focused slot runs a launched context of a one-word program: what a submission, a bind and a dispatch leave. -/
def State.withTiny (s : State) : State :=
  { s with
    ctx := Ctx.tiny, mem := memWrite s.mem tinyCells,
    homeLines := tabPut (lineOf (tinyPage + 0x80)) false s.homeLines, linePoison := offLine (lineOf (tinyPage + 0x80)) s.linePoison,
    cores := s.cores.map fun x => (x.1, { x.2 with ext := [] }), dies := s.dies.map fun d => { d with entries := [] },
    pkg := { s.pkg with btbase := BitVec.ofNat 28 (tinyTable / 4096), btcount := 1, frozen := false } }

/-- The word stored at locations. -/
def State.placeWord (s : State) (l : List Nat) (w : IWord) : State :=
  { s with mem := memWrite s.mem (l.zip (bytesOfWord w)) }

/-- A byte can be read at its home at once, and is not poisoned. -/
def State.readsAt (s : State) (a : Nat) : Bool :=
  let k := s.stack (paStack a)
  !s.poisoned a && s.txns.isEmpty && k.queue.isEmpty && k.backoff.isEmpty && k.fresh.isEmpty

/-- The focused slot runs and its next fetch reads plain text. -/
def State.plainFetch (s : State) : Option (List Nat) :=
  if s.ctx.runs && s.ctx.wait = .none_ && s.ctx.launch.native.isNone && s.ctx.bind.wdleft != 0 && !s.pkg.frozen then
    match s.fetchPlace s.ctx with
    | .ok (e, _, l) =>
      if e.key = 0 && l.all (fun a => tabGet KeyTag.zero s.secKey (sectorOf a) = KeyTag.zero && !s.scrubPending a && s.readsAt a) then some l else none
    | .error _ => none
  else none

/-- The word at the place of the next fetch; a machine that has no such place gets the one-word program first. -/
def State.putNext (s : State) (w : IWord) : State :=
  let t := s.setCore (coreKey s.cur) { s.core (coreKey s.cur) with l1i := [] }
  match t.plainFetch with
  | some l => t.placeWord l w
  | none => t.withTiny.placeWord (countFrom (tinyPage + 0x80) 10) w

end Sys2Proof.Machine
end

