-- ==== Sys2Proof/Machine/Race.lean ====
section
/-! DEFINITION. Machine/Race.lean: the records of checked buffers (08 R157 to R162). A context is named by its slot and the member it
runs. -/

namespace Sys2Proof.Machine

/-- An access as the records see it: the stamp it makes, and whether it reads and writes. -/
structure RaceAcc where
  stamp : Stamp
  rd    : Bool
  wr    : Bool
  deriving DecidableEq, Repr

/-- Two stamps of one context. DESIGN CHOICE (log 73): a stamp that an earlier occupant of the slot left is another context's, although it
carries the same context id: the members are compared too. -/
def Stamp.same (a b : Stamp) : Bool := a.slot == b.slot && a.uid == b.uid

/-- R159: a stamp of another context is live: its context is still bound to the slot, not saved since, and in the stamp's region. A context
that has halted or faulted is bound until its slot is freed (Table 15-4). -/
def State.live (s : State) (t : Stamp) : Bool :=
  let c := s.slot t.slot
  c.bind.st != .free && c.bind.st != .saved && c.launch.uid == t.uid && c.regs.saves == t.saves && c.regs.csr.regionno == t.region

/-- R160: a held stamp conflicts with an access: another context's, live, and not marked against marked. -/
def State.conflicts (s : State) (a : Stamp) (t : Option Stamp) : Bool :=
  match t with
  | none => false
  | some t => !a.same t && s.live t && !(t.marked && a.marked)

/-- The stamp is of the context of another. -/
def ownStamp (a : Stamp) (t : Option Stamp) : Bool := match t with | some t => a.same t | none => false

/-- The context id of a stamp. -/
def stampSlot (t : Option Stamp) : Nat := match t with | some t => t.slot | none => 0

/-- Table 8-2: the first cause, with the context id of the live stamp. -/
def State.raceFind (s : State) (r : RaceRec) (a : RaceAcc) : Option (Cause × Nat) :=
  if a.wr && s.conflicts a.stamp r.writer then some (.raceWW, stampSlot r.writer)
  else if a.wr && s.conflicts a.stamp r.r0 then some (.raceRW, stampSlot r.r0)
  else if a.wr && s.conflicts a.stamp r.r1 then some (.raceRW, stampSlot r.r1)
  else if a.wr && r.ovf && !ownStamp a.stamp r.r0 && !ownStamp a.stamp r.r1 then some (.raceOvf, 0)
  else if a.rd && s.conflicts a.stamp r.writer then some (.raceWR, stampSlot r.writer)
  else none

/-- A free reader stamp (R160). -/
def State.stampFree (s : State) (t : Option Stamp) : Bool := match t with | none => true | some t => !s.live t

/-- R160: the record after an access that raised no cause. r1 is the later reader stamp; of two free ones the earlier is filled. -/
def State.raceNote (s : State) (r : RaceRec) (a : RaceAcc) : RaceRec :=
  let r1 := if a.wr then { r with writer := some a.stamp, ovf := false } else r
  if !a.rd then r1
  else if ownStamp a.stamp r1.r0 then { r1 with r0 := r1.r1, r1 := some a.stamp }
  else if ownStamp a.stamp r1.r1 then { r1 with r1 := some a.stamp }
  else if s.stampFree r1.r0 then { r1 with r0 := r1.r1, r1 := some a.stamp }
  else if s.stampFree r1.r1 then { r1 with r1 := some a.stamp }
  else { r1 with ovf := true }

/-- R158: a record in the shadow area keeps the later reader stamp; dropping a live one sets the overflow bit. -/
def State.spill (s : State) (r : RaceRec) : RaceRec :=
  match r.r0, r.r1 with
  | some t, some _ => { r with r0 := none, ovf := r.ovf || s.live t }
  | _, _ => r

/-- The record of a sector as an access finds it: when the slice spills it is free, and shows only where two reader stamps stand. -/
def State.recordOf (s : State) (k : Nat) : RaceRec :=
  let r := tabGet RaceRec.zero s.races k
  if r.r0.isSome && Config.spilled s.draws k then s.spill r else r

/-- The sectors of n bytes at a location. -/
def sectorsOf (a n : Nat) : List Nat := countFrom (sectorOf a) (sectorOf (a + n - 1) - sectorOf a + 1)

/-- The first cause over the sectors of an access; every sector is checked before either is used (R255). -/
def State.raceTest (s : State) (a n : Nat) (x : RaceAcc) : Option (Cause × Nat) :=
  (sectorsOf a n).findSome? fun k => s.raceFind (s.recordOf k) x

/-- The records of every sector of an access updated. -/
def State.raceUpdate (s : State) (a n : Nat) (x : RaceAcc) : State :=
  (sectorsOf a n).foldl (fun s k =>
    { s with races := tabSet RaceRec.zero k (s.raceNote (s.recordOf k) x) s.races }) s

/-- R157, R162: a context's region number increments; a context at 0xFFFF must wait first. -/
def Ctx.nextRegion (c : Ctx) : Ctx := c.updCsr fun r => { r with regionno := r.regionno + 1 }

/-- R162: some record carries a stamp of the context id k. -/
def State.stamped (s : State) (k : Nat) : Bool :=
  let has := fun (t : Option Stamp) => match t with | some t => t.slot == k | none => false
  s.races.any fun p => has p.2.writer || has p.2.r0 || has p.2.r1

/-- R162: every stamp of the context id k is cleared. -/
def State.clearStamps (s : State) (k : Nat) : State :=
  let cut := fun (t : Option Stamp) => match t with | some t => if t.slot == k then none else some t | none => none
  { s with races := (s.races.map fun p =>
      (p.1, { p.2 with writer := cut p.2.writer, r0 := cut p.2.r0, r1 := cut p.2.r1 })).filter fun p => p.2 != RaceRec.zero }

end Sys2Proof.Machine
end

