-- ==== Sys2Proof/Machine/BarObj.lean ====
section
/-! DEFINITION. Machine/BarObj.lean: barrier objects (08 R165, Table 8-3), completion and release windows (R168, R171), and the
pitches of HBAR (09 R200). -/

namespace Sys2Proof.Machine

abbrev BarObj := BitVec 128

/-! ### Fields (Table 8-3) -/

def BarObj.phase (o : BarObj) : BitVec 4 := o.extractLsb' 0 4
def BarObj.err (o : BarObj) : Bool := o.getLsbD 4
def BarObj.winopen (o : BarObj) : Bool := o.getLsbD 5
def BarObj.pending (o : BarObj) : Nat := getBits o 8 16
def BarObj.expected (o : BarObj) : Nat := getBits o 24 16
def BarObj.insect (o : BarObj) : Nat := getBits o 40 32
def BarObj.outsect (o : BarObj) : Nat := getBits o 72 32
def BarObj.profile (o : BarObj) : Nat := getBits o 104 2

/-- The reserved bits are zero. -/
def BarObj.rsvOk (o : BarObj) : Bool := getBits o 6 2 == 0 && getBits o 106 22 == 0

def BarObj.setPhase (o : BarObj) (p : BitVec 4) : BarObj := setBits o 0 4 p.toNat
def BarObj.setErr (o : BarObj) (b : Bool) : BarObj := setBits o 4 1 b.toNat
def BarObj.setWin (o : BarObj) (b : Bool) : BarObj := setBits o 5 1 b.toNat
def BarObj.setPending (o : BarObj) (n : Nat) : BarObj := setBits o 8 16 n
def BarObj.setInsect (o : BarObj) (n : Nat) : BarObj := setBits o 40 32 n
def BarObj.setOutsect (o : BarObj) (n : Nat) : BarObj := setBits o 72 32 n

/-- The object that BARINIT leaves (R362). -/
def BarObj.init (expected profile : Nat) : BarObj :=
  setBits (setBits (setBits (0 : BitVec 128) 104 2 profile) 24 16 expected) 8 16 expected

/-- Nothing is owed in the phase. -/
def BarObj.clear (o : BarObj) : Bool := o.pending == 0 && o.insect == 0 && o.outsect == 0

/-! ### Objects in memory -/

/-- The member and offset of a scratchpad location. -/
def scratchUid (a : Nat) : Nat := (a - 2 ^ 70) / 2 ^ 20
def scratchOff (a : Nat) : Nat := a % 2 ^ 20

/-- R294: the dirty bits of the 256-byte granules of n scratchpad bytes. -/
def State.dirtyScratch (s : State) (a n : Nat) : State :=
  if locKind a = .scratch then
    match s.slotOf (scratchUid a) with
    | some k => s.updSlot k fun c => c.upd fun r => { r with dirty := { r.dirty with
        granules := (countFrom (scratchOff a / 256) (scratchOff (a + n - 1) / 256 - scratchOff a / 256 + 1)).foldl
          (fun g j => setBits g j 1 1) r.dirty.granules } }
    | none => s
  else s

/-- A barrier object by its location. -/
def State.obj (s : State) (loc : Nat) : BarObj := BitVec.ofNat 128 (numOf (memBytes s.mem loc 16))

/-- An update of a barrier object by its barrier unit. -/
def State.setObj (s : State) (loc : Nat) (o : BarObj) : State :=
  (s.apply loc (bytesOf 16 o.toNat) KeyTag.zero).dirtyScratch loc 16

/-! ### Pitches (R171) -/

/-- The pitch registers of a profile on a die. -/
def State.pitchReg (s : State) (d n : Nat) : Word := ((s.die d).pitchcfg[n]?).getD 0

/-- Number of pitches less one, of a profile's registers. -/
def pitchNp (lo : Word) : Nat := getBits lo 61 3

/-- The gap before pitch k. -/
def pitchGap (lo hi : Word) (k : Nat) : Nat := if k = 7 then getBits hi 36 10 else if k = 0 then 0 else getBits lo (10 * (k - 1)) 10

/-- The pitch of a slot: its cluster's map entry, at most NP. -/
def pitchOf (lo hi : Word) (k : Nat) : Nat := min (getBits hi (3 * slotCluster k) 3) (pitchNp lo)

/-! ### Release windows (R168, R200) -/

/-- A waiter of a window resumes: it still waits for the phase. -/
def Ctx.release (w : Window) (c : Ctx) : Ctx :=
  match c.wait with
  | .bar loc q => if !w.team && loc == w.loc && q == w.phase then { c with wait := .barDone loc w.st } else c
  | .hbar p _ => if w.team && p == w.phase then { c with wait := .hbarDone p } else c
  | _ => c

/-- The waiters of pitch n of a window are released. -/
def State.releasePitch (s : State) (w : Window) (n : Nat) : State :=
  (w.waiters.filter (·.pitch == n)).foldl (fun s x =>
    s.updSlot x.slot fun c => if c.launch.uid == x.uid then c.release w else c) s

/-- Two windows of one object, or of one team on one die. -/
def Window.sameAs (a b : Window) : Bool := a.team == b.team && a.loc == b.loc && a.vf == b.vf && (!a.team || a.die == b.die)

/-- WINOPEN cleared once no window of the object is left (R168). -/
def State.closeWin (s : State) (w : Window) : State :=
  if w.team || s.windows.any (fun v => v.sameAs w) then s else s.setObj w.loc ((s.obj w.loc).setWin false)

/-- The first window of an object that has not started begins: pitch 0 is released; a window whose last pitch is released closes,
and the next one begins. -/
def State.startWins : Nat → Window → State → State
  | 0, _, s => s
  | n + 1, w, s =>
    match s.windows.find? (fun v => v.sameAs w) with
    | none => s.closeWin w
    | some v =>
      if v.started then s
      else
        let s1 := s.releasePitch v 0
        if pitchNp v.lo = 0 then
          State.startWins n w { s1 with windows := s1.windows.erase v }
        else
          { s1 with windows := s1.windows.map fun x => if x = v then { v with started := true, next := 1, last := s.tick } else x }

/-- A window joins the windows, and starts when no earlier one of its object is open. -/
def State.openWin (s : State) (w : Window) : State :=
  State.startWins (s.windows.length + 2) w { s with windows := s.windows ++ [w] }

/-- R168: complete(): the next phase, PENDING reloaded, WINOPEN, and the window of the waiters of the completed phase. Waiters on
another die than d have the last pitch. -/
def State.complete (s : State) (loc d : Nat) : State :=
  let o := s.obj loc
  let q := o.phase
  let lo := s.pitchReg d (2 * o.profile)
  let hi := s.pitchReg d (2 * o.profile + 1)
  let s1 := s.setObj loc (((o.setPhase (q + 1)).setPending o.expected).setWin true)
  let ws := s1.slots.filterMap fun p =>
    match p.2.wait with
    | .bar l x =>
      if l == loc && x == q then
        some ⟨p.1, p.2.launch.uid, if slotDie p.1 = d then pitchOf lo hi p.1 else pitchNp lo⟩
      else none
    | _ => none
  s1.openWin ⟨false, loc, 0, d, lo, hi, q, q + 1, false, 0, s.tick, ws⟩

/-- R168, R211: the phase completes when nothing is owed. -/
def State.completeIf (s : State) (loc d : Nat) : State := if (s.obj loc).clear then s.complete loc d else s

/-- BARRIER_PITCH of window i: its next pitch, once the gap has passed; the last pitch closes it. -/
def State.pitch (s : State) (i : Nat) : State :=
  match s.windows[i]? with
  | none => s
  | some w =>
    let g := pitchGap w.lo w.hi w.next
    if !w.started || s.tick < w.last + g then s
    else
      let s1 := s.releasePitch w w.next
      if pitchNp w.lo ≤ w.next then
        State.startWins (s1.windows.length + 1) w { s1 with windows := s1.windows.erase w }
      else { s1 with windows := s1.windows.set i { w with next := w.next + 1, last := w.last + g } }

/-- BARRIER_PITCH (R168). -/
def execBarrierPitch (i : Nat) (s : State) : Host.Outcome State Fault Refusal := .next (s.pitch i)

end Sys2Proof.Machine
end

