-- ==== Sys2Proof/Machine/CopyCore.lean ====
section
/-! DEFINITION. Machine/CopyCore.lean: the progress of a copy on its channel: counts, faults, completion, and the writing of inbound
sectors (10 R211 to R216, R219). The active copy of a channel is the first of its list. -/

namespace Sys2Proof.Machine

/-! ### Tiles (R213) -/

/-- A list cut into pieces of n. -/
def piecesOf (n : Nat) : Nat → List Byte → List (List Byte)
  | 0, _ => []
  | k + 1, l => if l = [] then [] else l.take n :: piecesOf n k (l.drop n)

/-- Destination row c of a tile from its source rows: element r of it is element c of row r (R213). -/
def transposeRow (c : Nat) (rows : List (List Byte)) : List Byte :=
  let w := 32 / rows.length
  (rows.map fun r => (r.drop (c * w)).take w).flatten

/-- The destination rows of a tile in ascending order. -/
def transposeTile (rows : List (List Byte)) : List Byte := ((List.range rows.length).map fun c => transposeRow c rows).flatten

/-! ### Channels -/

/-- A channel of a context. -/
def Ctx.chan (c : Ctx) (ch : Nat) : Chan := (c.regs.chans[ch]?).getD Chan.zero

def Ctx.setChan (c : Ctx) (ch : Nat) (x : Chan) : Ctx := c.upd fun r => { r with chans := r.chans.setIfInBounds ch x }

/-- The active copy of a channel. -/
def State.activeCopy (s : State) (k ch : Nat) : Option Copy := ((s.slot k).chan ch).copies.head?

/-- The active copy changed. -/
def State.updCopy (s : State) (k ch : Nat) (f : Copy → Copy) : State :=
  s.updSlot k fun c =>
    let x := c.chan ch
    match x.copies with
    | [] => c
    | p :: l => c.setChan ch { x with copies := f p :: l }

/-- Sectors of one target. -/
def Copy.sectors (p : Copy) : Nat := p.rows * (p.rowB / 32)

/-- The scratchpad span of a copy (R219). -/
def Copy.span (p : Copy) : Nat × Nat := (p.scrOff, (p.rows - 1) * p.scrStr + p.rowB)

/-- Scratchpad offset of sector i. -/
def Copy.scrAt (p : Copy) (i : Nat) : Nat := p.scrOff + i / (p.rowB / 32) * p.scrStr + i % (p.rowB / 32) * 32

/-- Memory-side offset of sector i. -/
def Copy.memAt (p : Copy) (i : Nat) : Nat := p.memOff + i / (p.rowB / 32) * p.memStr + i % (p.rowB / 32) * 32

/-- Sector i has not been moved or abandoned. -/
def Copy.owes (p : Copy) (i : Nat) : Bool := !p.failed && decide (p.sect ≤ i) && decide (i < p.sectors)

/-- A fault record enters a channel that holds none (R216). -/
def State.recordFault (s : State) (k ch : Nat) (f : CopyFault) : State :=
  s.updSlot k fun c =>
    let x := c.chan ch
    c.setChan ch { x with fault := some (x.fault.getD f) }

/-- The fault record of a copy for a cause at an offset of its memory side or its scratchpad side (R216). DEDUCED (log 67): the capability register
that R319 has it name is the one of that side. -/
def Copy.faultOf (p : Copy) (cause : Cause) (buf : BitVec 20) (off stamp : Nat) : CopyFault :=
  { cause := cause, tmpl := p.tmpl, buf := buf, off := BitVec.ofNat 48 off, pc := p.pc, serial := p.serial, stamp := stamp, bar := p.barLoc,
    creg := if buf = p.memBuf then p.memCreg else p.scrCreg }

/-- The fault record of a count that could not fall: it names the barrier object (R216, R362). -/
def Copy.barFault (p : Copy) : CopyFault :=
  { cause := .barErr, tmpl := p.tmpl, buf := p.barBuf, off := BitVec.ofNat 48 p.barOff, pc := p.pc, serial := p.serial, stamp := 0, bar := p.barLoc,
    creg := p.barCreg }

/-- R211, R362: n sectors leave the count of a copy's object; a count that cannot fall that far stays 0 with ERR set and BAR_ERR
recorded for the issuer; the phase completes when nothing is owed. -/
def State.countDown (s : State) (k ch : Nat) (p : Copy) (n : Nat) : State :=
  if n = 0 then s
  else
    let o := s.obj p.barLoc
    let have_ := if p.out then o.outsect else o.insect
    let o1 := if p.out then o.setOutsect (have_ - n) else o.setInsect (have_ - n)
    if have_ < n then
      ((s.setObj p.barLoc (o1.setErr true)).recordFault k ch p.barFault).completeIf p.barLoc p.barDie
    else (s.setObj p.barLoc o1).completeIf p.barLoc p.barDie

/-- A finished copy leaves its channel; the next one of the channel waits for a start grant (R206, R218). -/
def State.retireCopy (s : State) (k ch : Nat) : State :=
  match s.activeCopy k ch with
  | none => s
  | some p =>
    if p.owed = 0 ∧ p.acks = 0 then
      let c := s.slot k
      let x := c.chan ch
      let s1 := s.setSlot k (c.setChan ch { x with copies := x.copies.tail })
      if x.copies.tail = [] then s1
      else s1.updDie (slotDie k) fun d => { d with ceQueue := d.ceQueue ++ [4 * k + ch] }
    else s

/-- Number of sectors in a row, and rows of a tile (R213). -/
def Copy.cols (p : Copy) : Nat := p.rowB / 32
def tileRows (layout : Nat) : Nat := if layout = 1 then 16 else if layout = 2 then 32 else 8

/-- n sectors of the active copy are counted (R211). -/
def State.copyCount (s : State) (k ch n : Nat) : State :=
  match s.activeCopy k ch with
  | none => s
  | some p => ((s.updCopy k ch fun p => { p with owed := p.owed - n }).countDown k ch p n).retireCopy k ch

/-- R216: a fault of the active copy at access time. The first one abandons the sectors not yet sent or written. A poisoned sector
stops the issuing context at its word (R346). -/
def State.copyFault (s : State) (k ch : Nat) (cause : Cause) (buf : BitVec 20) (off stamp : Nat) : State :=
  match s.activeCopy k ch with
  | none => s
  | some p =>
    let s1 := s.setObj p.barLoc ((s.obj p.barLoc).setErr true)
    if p.failed then s1
    else
      let s2 := if cause = .none_ then s1.updSlot k fun c => c.taskFault .none_ (mInfo0 off) (mInfo1 buf 0)
        else s1.recordFault k ch (p.faultOf cause buf off stamp)
      (s2.updCopy k ch fun p => { p with failed := true, paused := none }).copyCount k ch (if p.out then p.sectors - p.sect else p.owed)

/-- An inbound sector's bytes written into the targets (R211, R212): a target whose allotment it leaves is refused. -/
def State.copyLand (s : State) (k ch : Nat) (data : List Byte) : State :=
  match s.activeCopy k ch with
  | none => s
  | some p =>
    let off := p.scrAt p.sect
    let s1 := p.targets.foldl (fun s uid =>
      match s.activeCopy k ch with
      | none => s
      | some q =>
        if q.failed then s
        else
          let allot := match s.slotOf uid with | some j => (s.slot j).scrBytes | none => 0
          if allot < off + 32 then s.copyFault k ch .permRemote p.scrBuf off 0
          else ((s.apply (locScratch uid off) data KeyTag.zero).dirtyScratch (locScratch uid off) 32).copyCount k ch 1) s
    match s1.activeCopy k ch with
    | some q =>
      if q.failed ∨ q.num ≠ p.num ∨ q.sect ≠ p.sect then s1
      else s1.updCopy k ch fun p =>
        { p with sect := p.sect + 1, got := [], tiles := if (p.sect + 1) % (p.cols * tileRows p.layout) = 0 then [] else p.tiles }
    | none => s1

/-- Bytes of the next inbound sector, which is written once all 32 are there; or of the rows of the next tile, which is transposed once all are
there (R267). -/
def State.copyBytes (s : State) (k ch : Nat) (data : List Byte) : State :=
  match s.activeCopy k ch with
  | none => s
  | some p =>
    let n := tileRows p.layout
    if p.failed then s
    else if p.layout ≠ 0 then
      if 32 * n ≤ p.got.length + data.length then
        s.updCopy k ch fun p => { p with got := [], tiles := p.tiles ++ [transposeTile (piecesOf 32 n (p.got ++ data))] }
      else s.updCopy k ch fun p => { p with got := p.got ++ data }
    else if 32 ≤ p.got.length + data.length then s.copyLand k ch (p.got ++ data)
    else s.updCopy k ch fun p => { p with got := p.got ++ data }

/-! ### The range-overlap scoreboard (R219) -/

/-- The copies of a context. -/
def Ctx.copies (c : Ctx) : List Copy := (c.regs.chans.toList.map (·.copies)).flatten

/-- An entry of the scoreboard: the span of a copy of which the issuer is a target or the source. -/
def Ctx.recorded (c : Ctx) (p : Copy) : Bool := p.out || p.targets.contains c.launch.uid

/-- n bytes at an offset of the allotment meet the span of a copy, gaps included, and the copy has not gone past them. -/
def Copy.owesAt (p : Copy) (off n : Nat) : Bool :=
  !p.failed && decide (p.sect < p.sectors) && rangesMeet p.span.1 p.span.2 off n && decide (p.scrAt p.sect < off + n)

/-- Table of R219: an access of the issuer to its scratchpad waits for a copy. -/
def Ctx.copyWait (c : Ctx) (off n : Nat) (store : Bool) : Bool :=
  c.copies.any fun p => c.recorded p && (store || !p.out) && p.owesAt off n

/-- R219: a copy must wait for an earlier one of its context with unfinished sectors in its range, one of the two inbound. -/
def Ctx.copyBlocked (c : Ctx) (p : Copy) : Bool :=
  c.copies.any fun q => decide (q.num < p.num) && decide (q.owed ≠ 0) && (!p.out || !q.out) &&
    rangesMeet p.span.1 p.span.2 q.span.1 q.span.2

/-- The copies of a die that occupy one of its six copy engines (R206): started, with sectors still to move. -/
def State.engines (s : State) (d : Nat) : Nat :=
  (s.slots.map fun x => if slotDie x.1 = d then
    (x.2.copies.filter fun p => p.started && !p.failed && decide (p.sect < p.sectors)).length else 0).foldl (· + ·) 0

/-- The power sequencer of a die can give an array grant now (R127). -/
def State.arrFree (s : State) (d : Nat) : Bool :=
  (s.die d).arrQueue != [] && (decide ((s.die d).arrGrant + 8 ≤ s.tick) || (s.die d).arrGrant == 0)

/-- It can give a start grant now: 16 cycles after the last one, with an engine free (R206, R218); an array request of the same cycle is served first,
and the copy engine's 1 cycle later (R351). -/
def State.ceFree (s : State) (d : Nat) : Bool :=
  let die := s.die d
  (decide (die.ceGrant + 16 ≤ s.tick) || die.ceGrant == 0) && decide (s.engines d < 6) && !s.arrFree d &&
  (die.arrGrant != s.tick || s.tick == 0)

/-- CE_START_GRANT (R218): the first copy in grant order that may start. -/
def State.startCopy (s : State) (d : Nat) : State :=
  let ready := fun (n : Nat) =>
    match s.activeCopy (n / 4) (n % 4) with
    | some p => !(s.slot (n / 4)).copyBlocked p
    | none => true
  if !s.ceFree d then s
  else match (s.die d).ceQueue.find? ready with
    | none => s
    | some n =>
      (s.updDie d fun x => { x with ceQueue := x.ceQueue.erase n, ceGrant := s.tick }).updCopy (n / 4) (n % 4) fun p =>
        { p with started := true }

/-- CE_START_GRANT (R218). -/
def execCeStartGrant (die : Nat) (s : State) : Host.Outcome State Fault Refusal := .next (s.startCopy die)

end Sys2Proof.Machine
end

