-- ==== Sys2Proof/Machine/BdQueue.lean ====
section
/-! DEFINITION. Machine/BdQueue.lean: the packets between a memory port and a base die (13 R257, R258), and what the base die does with a
request (R262 to R271). -/

namespace Sys2Proof.Machine

/-! ### Packets of the base die (R257, R258) -/

/-- CRC-16 of R191 over bytes: polynomial 0x1021, initial value 0xFFFF, the most significant bit first. -/
def crcStep (c : Nat) : Nat := if c < 0x8000 then 2 * c else Nat.xor (2 * c - 0x10000) 0x1021
def crcByte (c : Nat) (b : Byte) : Nat := (List.range 8).foldl (fun c _ => crcStep c) (Nat.xor c (b.toNat * 256))
def crc16 (bs : List Byte) : Nat := bs.foldl crcByte 0xFFFF

/-- Fields packed from the most significant one down, each a width and a value. -/
def packBits (l : List (Nat × Nat)) : Nat := l.foldl (fun n f => n * 2 ^ f.1 + f.2 % 2 ^ f.1) 0

/-- The header of a request (Table 13-2). -/
def BdReq.header (r : BdReq) : BitVec 256 :=
  BitVec.ofNat 256 (packBits [(4, r.kind), (3, r.tag.getD 0), (1, r.gen.toNat), (2, r.layout), (7, r.key.toNat), (4, r.aop), (1, r.asz.toNat),
    (2, if r.kind = 0 ∨ r.kind = 1 ∨ r.kind = 4 then r.nsect else 0), (32, r.bmask.toNat), (20, r.buf.toNat), (48, r.off), (36, paAddr r.loc), (96, 0)])

/-- Bytes with zeros after them up to n. -/
def padTo (n : Nat) (l : List Byte) : List Byte := l ++ List.replicate (n - l.length) 0

/-- The bytes that follow a request's header (R257). -/
def BdReq.payload (r : BdReq) : List Byte :=
  match r.kind with
  | 1 => r.data
  | 2 => r.data
  | 3 => padTo 32 (if r.aop = 15 then bytesOf 8 r.cmp.toNat ++ bytesOf 8 r.opnd.toNat else bytesOf 8 r.opnd.toNat)
  | 5 => (r.rows.map fun a => bytesOf 8 (paAddr a.1)).flatten
  | _ => []

/-- A beat with its CRC-16. -/
def beatOf (b : List Byte) : List Byte × Nat := (padTo 32 b, crc16 (padTo 32 b))

/-- The beats of a request, each with its CRC-16. -/
def BdReq.beats (r : BdReq) : List (List Byte × Nat) := (bytesOf 32 r.header.toNat :: piecesOf 32 9 r.payload).map beatOf

/-- The header of a reply (Table 13-3). -/
def BdReply.header (x : BdReply) (r : BdReq) : BitVec 256 :=
  BitVec.ofNat 256 (packBits [(4, x.kind), (3, r.tag.getD 0), (1, r.gen.toNat), (1, r.wq.toNat), (3, x.status), (6, r.pch), (174, 0), (64, x.old.toNat)])

/-- The beats of a reply: its header, and the data that follow it. -/
def BdReply.beats (x : BdReply) (r : BdReq) : List (List Byte × Nat) :=
  (bytesOf 32 (x.header r).toNat :: piecesOf 32 32 x.data).map beatOf

/-- A request keeps the rules of Table 13-2 (R258). -/
def BdReq.ok (r : BdReq) : Bool :=
  decide (r.kind ≤ 6) && (r.kind == 5 || r.layout == 0) && (r.kind != 5 || (decide (1 ≤ r.layout) && decide (r.layout ≤ 3))) &&
  (if r.kind = 3 then decide (r.aop ≤ 9) || r.aop == 15 else r.aop == 0 && !r.asz) &&
  (r.kind == 0 || r.kind == 1 || r.kind == 4 || r.nsect == 0) && decide (r.nsect ≤ 3) && (r.kind == 2 || r.bmask == 0) &&
  (r.kind == 3 || (paAddr r.loc % 32 == 0 && r.off % 32 == 0)) && decide (paAddr r.loc % 1024 + 32 * r.nsect < 1024)

/-! ### Atomic arithmetic (20 R355, R375) -/

/-- The new value of an n-bit atomic: AOP 0 to 9, or 15 for compare-and-swap. The model's 14 is the scale-word merge of R473: the bits
of op with those of old that cmp keeps. -/
def aopNew (aop n : Nat) (old op cmp : Nat) : Nat :=
  let less := decide (sintOf n old < sintOf n op)
  match aop with
  | 0 => (old + op) % 2 ^ n
  | 1 => old &&& op
  | 2 => old ||| op
  | 3 => old ^^^ op
  | 4 => if less then old else op
  | 5 => if less then op else old
  | 6 => min old op
  | 7 => max old op
  | 8 => op
  | 9 => (fadd32 (BitVec.ofNat 32 old) (BitVec.ofNat 32 op)).toNat
  | 14 => (old &&& cmp) ||| op
  | _ => if old = cmp then op else old

/-- A compare-and-swap that fails writes nothing. -/
def aopWrites (aop old cmp : Nat) : Bool := aop != 15 || old == cmp

/-! ### The base die -/

/-- Bytes at the base die under a key tag of their sector: zero in a pending granule (R254). -/
def State.bdBytes (s : State) (loc n : Nat) (t : KeyTag) : List Byte :=
  (countFrom loc n).map fun a => s.seeByte a (lineTag t loc (sectorOf a))

/-- A write of bytes of one sector at the base die under a key tag: the granule zeroed first, the sector plain under the tag, poison cleared for
whole sectors, monitors told. -/
def State.bdPut (s : State) (loc : Nat) (bs : List Byte) (t : KeyTag) : State :=
  let sec := sectorOf loc
  let s1 := s.scrubDone loc t
  let s2 := if s1.cached (lineOf loc) then s1 else s1.settle sec t
  let s3 : State := { s2 with
    mem := memWrite s2.mem ((countFrom loc bs.length).zip bs), secKey := tabSet KeyTag.zero sec t s2.secKey }
  (s3.unpoison loc bs.length).notify sec

/-- The key tag of a request's first sector. -/
def State.bdTag (s : State) (r : BdReq) : KeyTag := s.keyTag r.key.toNat r.buf.toNat r.off

/-- A byte of the diagnostic space of a stack (R271, Table 13-6). -/
def Stack.diagByte (k : Stack) (o : Nat) : Byte :=
  if o < 0x8000000 then nthD 0 (bytesOf 2 (tabGet 0 k.counts (o / 2))) (o % 2)
  else
    let q := o - 0x8000000
    if q < 8 then nthD 0 (bytesOf 8 (k.rfm.toNat * 2 ^ 32 + k.alerts.toNat)) q
    else if q < 16 then nthD 0 (bytesOf 8 k.next.toNat) (q - 8)
    else if 0x40 ≤ q ∧ q < 0x40 + 16 * 64 then
      match tabFind ((q - 0x40) / 16) k.log with
      | some a => nthD 0 (bytesOf 8 (a.row.toNat + a.cmds.toNat * 2 ^ 40) ++ bytesOf 8 a.tick.toNat) (q % 16)
      | none => 0
    else 0

/-- A sector of the request is poisoned at its base die (R263). -/
def State.bdPoisoned (s : State) (loc nsect : Nat) : Bool :=
  (List.range (nsect + 1)).any fun i => (s.baseBad (lineOf loc)).contains (sectorOf loc + i)

/-- Reading n sectors from a location on would meet an error that the code corrects, in the MSC or in DRAM (R263); a read that fills the MSC reads
the whole line. -/
def State.weakAt (s : State) (loc n : Nat) (fill : Bool) : Bool :=
  let k := s.stack (paStack loc)
  let secs := countFrom (sectorOf loc) n
  !s.scrubPending loc &&
  (if (tabFind (lineOf loc) k.msc).isSome then k.mscWeak.any secs.contains
   else k.weak.any (if fill then lineSectors (lineOf loc) else secs).contains)

/-- STATUS of a request that has been performed on sectors (R263). -/
def State.corrected (s : State) (loc n : Nat) (fill : Bool) : Nat := if s.weakAt loc n fill then 1 else 0

/-- A reply that says that an error stops the request (Table 13-3). -/
def BdReply.error (status : Nat) : BdReply := ⟨11, status, 0, []⟩

/-- What the base die does with a request, and its reply (R258, R263 to R271). A masked write to a poisoned sector changes nothing. -/
def State.bdServe (s : State) (r : BdReq) : State × BdReply :=
  let t := s.bdTag r
  let line := lineOf r.loc
  let good := s.corrected r.loc 1 false
  if !r.ok then (s, BdReply.error 3)
  else match r.kind with
  | 0 =>
    let s1 := s.mscRead r.loc (r.nsect + 1) t
    if s1.bdPoisoned r.loc r.nsect then (s1, BdReply.error 2) else (s1, ⟨8, s.corrected r.loc (r.nsect + 1) true, 0, s1.bdBytes r.loc (32 * (r.nsect + 1)) t⟩)
  | 1 =>
    match r.who with
    | .writeBack _ => (s.mscStore line r.bad t, ⟨9, 0, 0, []⟩)
    | .clean _ _ _ => ((s.mscStore line r.bad t).mscClean line, ⟨9, 0, 0, []⟩)
    | _ => ((List.range (r.nsect + 1)).foldl
        (fun s i => s.bdPut (r.loc + 32 * i) ((r.data.drop (32 * i)).take 32) (lineTag t r.loc (sectorOf r.loc + i)))
        (s.mscWrite line (r.nsect == 3) []), ⟨9, 0, 0, []⟩)
  | 2 =>
    if r.bmask = 0 then (s, ⟨9, 0, 0, []⟩)
    else if s.bdPoisoned r.loc 0 && r.bmask != BitVec.allOnes 32 then (s.mscPeek r.loc, BdReply.error 2)
    else
      let s1 := s.mscWrite line false (if r.bmask = BitVec.allOnes 32 then [] else [sectorOf r.loc])
      let old := s1.bdBytes r.loc 32 t
      let new := (List.range 32).map fun i => if r.bmask.getLsbD i then nthD 0 r.data i else nthD 0 old i
      (s1.bdPut r.loc new t, ⟨9, if r.bmask = BitVec.allOnes 32 then 0 else good, 0, []⟩)
  | 3 =>
    let n := if r.asz then 8 else 4
    let old := numOf (s.bdBytes r.loc n t)
    if s.bdPoisoned r.loc 0 then (s.mscPeek r.loc, BdReply.error 2)
    else if aopWrites r.aop old r.cmp.toNat then
      ((s.mscWrite line false [sectorOf r.loc]).bdPut r.loc (bytesOf n (aopNew r.aop (8 * n) old r.opnd.toNat r.cmp.toNat)) t,
        ⟨10, good, BitVec.ofNat 64 old, []⟩)
    else (s.mscPeek r.loc, ⟨10, good, BitVec.ofNat 64 old, []⟩)
  | 4 => (s.mscDrop line, ⟨9, 0, 0, []⟩)
  | 5 =>
    let rows := r.rows.map fun a => s.bdBytes a.1 32 (s.keyTag r.key.toNat r.buf.toNat a.2)
    let s1 := r.rows.foldl (fun s a => s.mscPeek a.1) s
    if r.rows.any (fun a => s.bdPoisoned a.1 0) ∨ r.hurt = 2 then (s1, BdReply.error 2)
    else (s1, ⟨8, if r.rows.any (fun a => s.weakAt a.1 1 false) then 1 else r.hurt, 0, transposeTile rows⟩)
  | _ => (s, ⟨8, 0, 0, (countFrom (paAddr r.loc) 32).map (s.stack (paStack r.loc)).diagByte⟩)

/-- A request allocates its line in the MSC (R265). -/
def BdReq.allocates (r : BdReq) : Bool := r.kind == 0 || (r.kind == 1 && r.nsect == 3)

/-- A bank or pseudo-channel that a request needs, or a dirty line that leaves the MSC for its own, takes none now (R269, R270). -/
def State.bdBusy (s : State) (r : BdReq) : Bool :=
  let k := s.stack (paStack r.loc)
  let until_ := fun (t : Option Nat) => match t with | some x => decide (s.tick < x) | none => false
  let at_ := fun (a : Nat) => until_ (tabFind (pchOf a) k.fresh) || until_ (tabFind (bankKey a) k.backoff)
  if r.kind = 6 then false else if r.kind = 5 then r.rows.any fun a => at_ a.1
  else at_ r.loc || (r.allocates && match s.mscVictim (lineOf r.loc) with | some (x, true) => at_ (x * 128) | _ => false)

/-- The base die performs request i of a stack, of a given kind: a request whose TAG and GEN it performed last is not performed again, one whose
kind is reserved is refused (R258, R262). -/
def State.bdRun (s : State) (kind st i : Nat) : State :=
  match (s.stack st).queue[i]? with
  | none => s
  | some r =>
    match r.tag with
    | none => s
    | some t =>
      let key := tagKeyOf r.pch r.wq t
      let run := fun (_ : Unit) =>
        let p := s.bdServe r
        p.1.updStack st fun k => { k with queue := k.queue.set i { r with reply := some p.2 }, held := tabPut key (r.gen, p.2) k.held }
      if min r.kind 6 ≠ kind ∨ r.reply.isSome ∨ r.lost ∨ s.bdBusy r then s
      else match tabFind key (s.stack st).held with
        | some (g, x) =>
          if g = r.gen then s.updStack st fun k => { k with queue := k.queue.set i { r with reply := some x } } else run ()
        | none => run ()

/-- An error in the tile buffer that serves request i of a stack, uncorrectable or not (R263). -/
def State.tileError (s : State) (st i : Nat) (fixed : Bool) : State :=
  match (s.stack st).queue[i]? with
  | none => s
  | some r =>
    if r.kind ≠ 5 ∨ r.reply.isSome then s
    else s.updStack st fun k =>
      { k with queue := k.queue.set i { r with hurt := if fixed then max r.hurt 1 else 2 }, fixed := k.fixed + fixed.toNat }

/-- A beat of request i of a stack, or of its reply, fails its CRC: the receiver drops the packet (R262). -/
def State.dropBd (s : State) (st i : Nat) : State :=
  match (s.stack st).queue[i]? with
  | none => s
  | some r =>
    if r.tag.isNone then s
    else s.updStack st fun k => { k with queue := k.queue.set i { r with lost := r.lost || r.reply.isNone, reply := none } }

end Sys2Proof.Machine
end

