-- ==== Sys2Proof/Machine/Home.lean ====
section
/-! DEFINITION. Machine/Home.lean: requests to a home, their numbering, resending and answers (09 R180 to R198, R240), the invalidation
of remote copies before a store is applied (R181), and far atomics (13 R266). Die 8 stands for the peer devices (R202). -/

namespace Sys2Proof.Machine

/-! ### Requesters (R194, R326) -/

/-- A requester: the slot and its channel. -/
def Req.requester (r : Req) : Nat := r.slot * 8 + r.ch

/-- A requester with 128 unacknowledged requests stalls its next one. -/
def State.tooMany (s : State) (slot ch : Nat) : Bool :=
  decide (128 ≤ (s.reqs.filter fun r => r.slot == slot && r.ch == ch && r.src != r.dst).length)

/-- The request of a die that is in flight to a line. -/
def State.inFlight (s : State) (die line : Nat) : Option Req :=
  s.reqs.find? fun r => r.src == die && lineOf r.loc == line

/-- An open transaction on a line at its home. -/
def State.openTxn (s : State) (line : Nat) : Option HomeTxn := s.txns.find? (·.line == line)

/-- A request with its number: writes and atomics count SEQ. -/
def State.numberReq (s : State) (r : Req) : Req × State :=
  let q := tabGet (0 : BitVec 16) s.seqs r.requester
  let r1 := { r with id := s.nextReq, seq := if r.opc = 1 then 0 else q, sent := s.tick }
  let seqs := if r.opc = 1 then s.seqs else tabSet 0 r.requester (q + 1) s.seqs
  (r1, { s with nextReq := s.nextReq + 1, seqs := seqs, reqs := s.reqs ++ [r1] })

/-! ### Fault injection (R198) -/

/-- FAULTINJ counts packets of a kind (Table 9-6). -/
def Csrs.injects (r : Csrs) (kind : Nat) : Bool := r.harness && r.faultinj.getLsbD 63 && getBits r.faultinj 60 3 == kind

/-- The counts of FAULTINJ at a matching packet of request id: whether it is dropped. -/
def Csrs.injectStep (r : Csrs) (kind id : Nat) : Bool × Csrs :=
  if !r.injects kind then (false, r)
  else
    let drop : Bool × Csrs :=
      if r.injLeft ≤ 1 then (true, { r with faultinj := r.faultinj &&& 0x7FFFFFFFFFFFFFFF, injLeft := 0, injSeq := none })
      else (true, { r with injLeft := r.injLeft - 1, injSeq := some id })
    match r.injSeq with
    | some x => if x = id then drop else (false, r)
    | none => if r.injSkip = 0 then drop else (false, { r with injSkip := r.injSkip - 1 })

/-- FAULTINJ of the context of a request counts a packet of it: whether it drops it. DESIGN CHOICE (log 67): the packets of the context's
copy channels count among its own, and a refusal counts as the response whose place it takes; Table 9-6 says neither. -/
def State.inject (s : State) (r : Req) (kind : Nat) : Bool × State :=
  let c := s.slot r.slot
  if r.ch ≤ 4 ∧ c.launch.uid = r.uid ∧ c.bind.st ≠ .free ∧ c.regs.csr.injects kind = true then
    let x := c.regs.csr.injectStep kind r.id
    (x.1, s.updSlot r.slot fun c => c.updCsr fun _ => x.2)
  else (false, s)

/-- A packet enters the links. -/
def State.sendPkt (s : State) (p : Pkt) : State := { s with net := s.net ++ [p] }

/-- The request packet of a request. -/
def Req.packet (r : Req) : Pkt :=
  match r.opc with
  | 1 => .read r | 2 => .write r | 3 => .atomic r | 4 => .inval r | 5 => .barArrival r | _ => .barRelease r

/-- The request sent to its home, unless its context's FAULTINJ drops it: kind 1 is a remote store. -/
def State.sendReq (s : State) (r : Req) : State :=
  let x := s.inject r (if r.opc = 2 then 1 else 7)
  if x.1 then x.2 else x.2.sendPkt r.packet

/-- The partition of a VF. -/
def State.vfPartition (s : State) (v : Nat) : Nat := ((s.pkg.vfPart[v]?).getD 0).toNat

/-- An invalidation or a barrier packet of a die. DESIGN CHOICE (log 71): the requester is Basecamp on that die, with the reset value of ACKTIMEOUT. -/
def ctlReq (opc src dst loc vf part : Nat) (bar : Option BarMsg) : Req :=
  { id := 0, slot := slotIndex src 0 0, ch := 6, uid := 0, src := src, dst := dst, opc := opc, bel := false, seq := 0, serial := 0, pc := 0,
    buf := 0, off := 0, creg := 0, loc := loc, size := 0, data := [], aop := 0, opnd := 0, cmp := 0, chk := false, marked := false, far := false,
    region := 0, fill := false, noCopy := false, vf := vf, part := part, key := KeyTag.zero, need := 0, s := false, blk := false, out := 0,
    stale := false, vec := false, bar := bar, passed := false, wide := false, e := 0, tries := 0, sent := 0, limit := 8 * 850 }

/-- A numbered packet of a die, timed like any other request (R193, R194); behind 128 that are not answered it waits. -/
def State.sendCtl (s : State) (r : Req) : State :=
  if s.tooMany r.slot r.ch || s.ctlWait.any (·.slot == r.slot) then { s with ctlWait := s.ctlWait ++ [r] }
  else let q := s.numberReq r; q.2.sendReq q.1

/-- A packet of a slot's die that waits goes, once there is room. -/
def State.flushCtl (s : State) (slot : Nat) : State :=
  match s.ctlWait.find? (·.slot == slot) with
  | some r => if s.tooMany slot 6 then s else
      let q := State.numberReq { s with ctlWait := s.ctlWait.erase r } r
      q.2.sendReq q.1
  | none => s

/-! ### Deferred faults (R195 to R197) -/

/-- The registers of a member, bound or saved, changed. -/
def State.updRegs (s : State) (uid : Nat) (f : Ctx → Ctx) : State :=
  match s.slotOf uid with
  | some k => s.updSlot k f
  | none =>
    match tabFind uid s.members with
    | some m => { s with members := tabPut uid { m with regs := (f { Ctx.free with regs := m.regs }).regs } s.members }
    | none => s

/-- A free store's failure enters its context's deferred-fault record. -/
def State.deferReq (s : State) (r : Req) (cause : Cause) : State :=
  s.updRegs r.uid fun c => c.deferFault ⟨deferCode cause, r.pc, r.serial, r.buf, r.off⟩

/-! ### Answers -/

/-- Bytes replaced in a line. -/
def patch (l : List Byte) (o : Nat) (bs : List Byte) : List Byte := l.take o ++ bs ++ l.drop (o + bs.length)

/-- Bytes written into a die's copy, if it has one. -/
def State.patchCopy (s : State) (d loc : Nat) (bs : List Byte) : State :=
  match tabFind (lineOf loc) (s.die d).copies with
  | some l => s.updDie d fun x => { x with copies := tabPut (lineOf loc) (patch l (loc % 128) bs) x.copies }
  | none => s

/-- A line leaves every level-one data cache of a die. -/
def State.l1dDropDie (s : State) (d line : Nat) : State :=
  { s with cores := s.cores.map fun x => if slotDie (2 * x.1) = d then (x.1, { x.2 with l1d := tabDel line x.2.l1d }) else x }

/-- What an answer does to the copy of the issuing die (R181, R182, R195, R196): after a failed free store no cache of the die keeps its
bytes. -/
def State.answerCopy (s : State) (r : Req) (data : List Byte) (cause : Option Cause) : State :=
  let line := lineOf r.loc
  if r.src = r.dst ∨ 4 ≤ r.opc then s
  else if r.opc = 1 then (if r.fill && !r.stale && cause.isNone then s.putCopy r.src line r.vf data else s)
  else if r.opc = 3 then s.dropCopy r.src line
  else if r.bel then (if cause.isNone then s.patchCopy r.src r.loc r.data else s)
  else if cause.isSome then (s.dropCopy r.src line).l1dDropDie r.src line
  else if (s.die r.src).heldInv.contains line then s.dropCopy r.src line
  else s

/-- The bytes of a request in its line, where its answer brings the whole line. -/
def Req.bytesIn (r : Req) (data : List Byte) : List Byte := if r.fill then (data.drop (r.loc % 128)).take r.size else data

/-- The answer as the word that waits for it sees it. -/
def Ctx.hear (r : Req) (data : List Byte) (cause : Option Cause) (stamp : Nat) (c : Ctx) : Ctx :=
  match c.wait with
  | .remote e acc q => if c.launch.uid = r.uid ∧ q.id = r.id then { c with wait := .answered e acc q (r.bytesIn data) cause stamp } else c
  | _ => c

/-- The answer as the deferred access that waits for it sees it. -/
def Ctx.hearOut (r : Req) (data : List Byte) (cause : Option Cause) (stamp : Nat) (c : Ctx) : Ctx :=
  if c.launch.uid ≠ r.uid then c
  else { c with out := c.out.map fun x => match x with
    | .acc a => .acc (if a.id = r.out then { a with ans := some (r.bytesIn data, cause, stamp) } else a)
    | .fence fn k => .fence fn k }

/-- The home's check of a checked access has found nothing (R163): the word that waits for it goes on. -/
def Ctx.hearPass (r : Req) (c : Ctx) : Ctx :=
  if c.launch.uid ≠ r.uid then c
  else { c with out := c.out.map fun x => match x with
    | .acc a => .acc (if a.id = r.out then { a with part := { a.part with req := { a.part.req with passed := true } } } else a)
    | .fence fn k => .fence fn k }

/-- R147: the line of a store or atomic leaves the level-one data caches of its requester's cluster. -/
def State.l1dDrop (s : State) (k line : Nat) : State :=
  { s with cores := s.cores.map fun x => if x.1 / 16 = coreKey k / 16 then (x.1, { x.2 with l1d := tabDel line x.2.l1d }) else x }

/-- What an answer does at a copy channel (R211, R216). A line filled is read by the channel's next try. An outbound sector whose
request carries e = 1 is counted now. -/
def State.copyAnswer (s : State) (r : Req) (data : List Byte) (cause : Option Cause) (stamp : Nat) : State :=
  let ch := r.ch - 1
  match s.activeCopy r.slot ch with
  | none => s
  | some _ =>
    if (s.slot r.slot).launch.uid ≠ r.uid then s
    else if r.opc = 1 then
      match cause with
      | none => if r.fill then s else s.copyBytes r.slot ch data
      | some c => s.copyFault r.slot ch c r.buf r.off.toNat stamp
    else
      let s1 := (s.l1dDrop r.slot (lineOf r.loc)).updCopy r.slot ch fun p => { p with acks := p.acks - 1 }
      let s2 := match cause with
        | none => s1
        | some c => s1.copyFault r.slot ch c r.buf r.off.toNat stamp
      if r.e = 1 then s2.copyCount r.slot ch 1 else s2.retireCopy r.slot ch

/-- A core's level-one data cache filled with a line of its die's L2 (R147). -/
def State.fillL1 (s : State) (core line : Nat) (bs : List Byte) : State :=
  s.setCore core { s.core core with l1d := tabPut line ⟨bs, s.tick⟩ (s.core core).l1d }

/-- A line leaves one core's level-one data cache. -/
def State.l1dCut (s : State) (core line : Nat) : State :=
  s.setCore core { s.core core with l1d := tabDel line (s.core core).l1d }

/-- A line that a plain load fills goes on to the core's level-one data cache (R147); a marked load leaves no older line there, which a later
plain load of the context would meet (R149; log 73). -/
def State.fillOnward (s : State) (r : Req) (data : List Byte) (cause : Option Cause) : State :=
  if r.marked then s.l1dCut (coreKey r.slot) (lineOf r.loc)
  else if r.fill && !r.stale && cause.isNone then s.fillL1 (coreKey r.slot) (lineOf r.loc) data else s

/-- The requester hears of a request that it still holds; an answer to any other is dropped. An answered store brings its own bytes, so
that a word knows how far it has come. A prefetch with e = 1 goes on to the core (R424). -/
def State.answer (s : State) (r : Req) (data : List Byte) (cause : Option Cause) (stamp : Nat) : State :=
  match s.reqs.find? (·.id == r.id) with
  | none => s
  | some r =>
    let s1 : State := { s with reqs := s.reqs.filter fun q => q.id != r.id }
    let s2 := s1.answerCopy r data cause
    if r.ch = 0 then
      if r.blk || r.out != 0 then
        (if r.opc = 1 then s2.fillOnward r data cause else s2.l1dDrop r.slot (lineOf r.loc)).updSlot r.slot fun c =>
          if r.blk then c.hear r data cause stamp else c.hearOut r data cause stamp
      else match cause with
        | some c => if r.opc = 2 then s2.deferReq r c else s2
        | none => if r.opc = 1 && r.e == 1 && !r.stale then s2.fillL1 (coreKey r.slot) (lineOf r.loc) data else s2
    else if r.ch ≤ 4 then s2.copyAnswer r data cause stamp
    else s2.flushCtl r.slot

/-! ### At the home -/

/-- The duplicate record of a home slice for a requester. -/
def dupKey (r : Req) : Nat := (r.dst * 32 + homeSlice r.loc) * 2 ^ 16 + r.requester

/-- The held response to a request that the home has applied (R194). -/
def State.dup (s : State) (r : Req) : Option Pkt :=
  ((tabGet [] s.dups (dupKey r)).find? (·.seq == r.seq)).map (·.resp)

/-- FAULTINJ's kind of a response packet (Table 9-6). -/
def respKind (r : Req) : Nat := if r.opc = 1 then 2 else if r.opc = 3 then 7 else if r.bel then 0 else 3

/-- A home keeps the last 256 responses to a requester's writes, atomics and control packets (R194). -/
def State.holdResp (s : State) (r : Req) (p : Pkt) : State :=
  let l : List Dup := tabGet [] s.dups (dupKey r) ++ [⟨r.seq, p⟩]
  if r.opc = 1 then s else { s with dups := tabPut (dupKey r) (l.drop (l.length - 256)) s.dups }

/-- A response: at once to a requester on the home's die, by packet to any other, and held for its SEQ. DESIGN CHOICE (log 71): a barrier packet
is answered by a write acknowledgement. -/
def State.respond (s : State) (r : Req) (data : List Byte) (cause : Option Cause) (stamp : Nat) : State :=
  if r.src = r.dst then s.answer r data cause stamp
  else
    let p : Pkt := match cause with
      | some c => .refusal r c stamp
      | none => match r.opc with
        | 1 => .readData r data | 3 => .atomicResult r data | 4 => .invalAck r | _ => .writeAck r
    (s.holdResp r p).sendPkt p

/-- R240: the check of the home's memory port. A peer makes its own, and a scratchpad has no home elsewhere. -/
def State.homeRefuses (s : State) (r : Req) : Bool :=
  if r.src = r.dst ∨ peerDie ≤ r.dst then false
  else
    let k : AccKind := if r.opc = 1 then .read else if r.opc = 2 then .write else .atomic
    match s.portCheck (.home r.dst) r.vf r.part ⟨r.buf, r.off.toNat, r.s, r.creg.setWidth 6⟩ r.size r.need k with
    | .ok _ => false
    | .error _ => true

/-- Bytes of a location at its home, whose line is resident or pending. -/
def State.homeBytes (s : State) (a n : Nat) : List Byte := (countFrom a n).map s.homeByte

/-- The bytes of a location homed on a die as the die sees them: its own store that waits at the home for invalidations stands over
them (R181: the local point). -/
def State.dieBytes (s : State) (a n : Nat) : List Byte :=
  let bs := s.homeBytes a n
  match s.openTxn (lineOf a) with
  | some t =>
    if t.req.src = homeDie a ∧ t.fill = false ∧ t.req.opc = 2 ∧ t.req.bel = false then
      (countFrom a n).zipWith (fun x b => if t.req.loc ≤ x ∧ x < t.req.loc + t.req.size then nthD 0 t.req.data (x - t.req.loc) else b) bs
    else bs
  | none => bs

/-- Every other request to a line is held: its line is on its way, a write to it is on its way to the base die, or a far atomic is under way on it
(R266). -/
def State.lineHeld (s : State) (line : Nat) : Bool :=
  match s.openTxn line with | some t => t.fill || t.req.far || t.old.isSome | none => false

/-- A compare-and-swap that would write nothing: it is a read alone (R377). -/
def State.casFails (s : State) (r : Req) : Bool :=
  r.opc == 3 && r.aop == 15 && numOf (s.homeBytes r.loc r.size) != r.cmp.toNat

/-- The race access of a request (R158, R163, R377). A scale-word merge is one plain store (R473). -/
def State.raceOf (s : State) (r : Req) : RaceAcc :=
  let c := s.slot r.slot
  ⟨⟨r.slot, r.uid, if c.launch.uid = r.uid then c.regs.saves else 0, r.region, r.marked⟩, r.opc == 1 || (r.opc == 3 && r.aop != 14), r.opc != 1 && !s.casFails r⟩

/-- The dies whose copies a store or atomic must invalidate: all but the issuing die and the home's own (R181). -/
def State.othersOf (s : State) (r : Req) : BitVec 8 :=
  tabGet (0 : BitVec 8) s.presence (lineOf r.loc) &&& ~~~(setBits (setBits (0 : BitVec 8) r.src 1 1) r.dst 1 1)

/-- The presence bit of a die for a line. -/
def State.setPresence (s : State) (line d : Nat) (b : Bool) : State :=
  { s with presence := tabSet (0 : BitVec 8) line (setBits (tabGet 0 s.presence line) d 1 b.toNat) s.presence }

/-- A write of a line is on its way to its base die, without its reply. -/
def State.leaving (s : State) (line : Nat) : Bool :=
  (s.stack (paStack (line * 128))).queue.any fun r => r.brings == some line

/-- Steps 3 and 4 of R266: the line's dirty data go to the base die as a write; once that is done, the line is in no cache, and the atomic
goes. Until then its slice keeps the line, as R262 asks for. -/
def State.farSend (s : State) (r : Req) : State :=
  let line := lineOf r.loc
  if s.leaving line then s
  else if tabFind line s.homeLines = some true then s.lineClean line
  else
    let b := bdRequest 3 r.loc 0 (BitVec.ofNat 7 (s.entry r.buf).key) r.buf r.off.toNat (.link r.id)
    (s.lineDrop line false).bdSend { b with aop := r.aop, asz := r.size == 8, opnd := r.opnd, cmp := r.cmp }

/-- The far atomic that waits for a line's dirty data goes on (R266). -/
def State.farNext (s : State) (line : Nat) : State :=
  match s.openTxn line with
  | some t =>
    if t.req.far ∧ t.fill = false ∧ t.dies = 0 ∧ (s.stack (paStack (line * 128))).queue.all (fun r => r.who != .link t.req.id) then s.farSend t.req
    else s
  | none => s

/-- A buffer by which a home line of DRAM is written (Table 13-2). -/
def State.noteBuf (s : State) (r : Req) : State :=
  if locKind r.loc = .dram ∧ (tabFind (lineOf r.loc) s.homeLines).isSome then
    { s with lineBuf := tabPut (lineOf r.loc) (r.buf, r.off.toNat - r.loc % 128) s.lineBuf }
  else s

/-- The bytes of a store or atomic reach their line, and the requester hears old: in its slice; or, where no way takes the line (R251) and in a
pending granule (R254), at the base die, whose reply the line waits for. -/
def State.homePut (s : State) (r : Req) (bs old : List Byte) : State :=
  if locKind r.loc = .dram ∧ (tabFind (lineOf r.loc) s.homeLines).isNone then
    let t : State := { s with txns := s.txns ++ [⟨lineOf r.loc, r, 0, false, some old⟩] }
    (throughReqs r.loc bs (BitVec.ofNat 7 (s.entry r.buf).key) r.buf r.off.toNat (.through r.id)).foldl State.bdSend t
  else ((s.noteBuf r).apply r.loc bs r.key).respond r old none 0

/-- Step 2 of R181, with the acknowledgement: the store or atomic takes its place at its home. -/
def State.homeApply (s : State) (r : Req) : State :=
  if r.opc = 2 then s.homePut r r.data r.data
  else
    let bytes := s.homeBytes r.loc r.size
    let old := numOf bytes
    let s1 := s.setPresence (lineOf r.loc) r.src false
    if aopWrites r.aop old r.cmp.toNat then
      s1.homePut r (bytesOf r.size (aopNew r.aop (8 * r.size) old r.opnd.toNat r.cmp.toNat)) bytes
    else s1.respond r bytes none 0

/-- A store or atomic whose copies elsewhere are gone: a far atomic goes to the base die first. -/
def State.homeGo (s : State) (r : Req) : State :=
  if r.far && locKind r.loc = .dram then
    let l : List HomeTxn := s.txns.filter (fun (t : HomeTxn) => t.req.id != r.id) ++ [⟨lineOf r.loc, r, 0, false, none⟩]
    (State.recall { s with txns := l } (lineOf r.loc)).farSend r
  else State.homeApply { s with txns := s.txns.filter fun (t : HomeTxn) => t.req.id != r.id } r

/-- The read in flight of a number fills no copy. -/
def State.noFill (s : State) (id : Nat) : State :=
  { s with reqs := s.reqs.map fun (q : Req) => if q.id = id then { q with stale := true } else q }

/-- A sector of a line is poisoned, so that no cache above its home takes the line (R263, R346). -/
def State.lineBad (s : State) (line : Nat) : Bool := (List.range 4).any fun i => s.poisoned (line * 128 + 32 * i)

/-- A read of a word's bytes, or of the line for a copy; a line of DRAM that its slice does not hold, as one of a pending granule, gives none
(R254), nor does one with a poisoned sector. -/
def State.homeRead (s : State) (r : Req) : State :=
  let line := lineOf r.loc
  if s.poisonedIn r.loc r.size then s.respond r [] (some .none_) 0
  else if r.fill then
    let s1 := if (s.lineHere r.loc && !s.scrubPending r.loc && !s.lineBad line) = false then s.noFill r.id
      else if r.src = r.dst then s else s.setPresence line r.src true
    s1.respond r (s1.homeBytes (line * 128) 128) none 0
  else s.respond r (s.homeBytes r.loc r.size) none 0

/-- A request whose line is in its place: the records (R160), and then the read, or the invalidations and the store (R181). An atomic on a
poisoned sector gets no data (R346); a far one meets it at the base die. -/
def State.homeBegin (s : State) (r : Req) : State :=
  match (if r.chk && !r.passed then s.raceTest r.loc r.size (s.raceOf r) else none) with
  | some (cause, stamp) => s.respond r [] (some cause) stamp
  | none =>
    let s1 := if r.chk && !r.passed then (s.raceUpdate r.loc r.size (s.raceOf r)).updSlot r.slot fun c => c.hearPass r else s
    if r.opc = 1 then s1.homeRead r
    else if r.opc = 3 && !r.far && s1.poisoned r.loc then s1.respond r [] (some .none_) 0
    else
      let others := s1.othersOf r
      if others = 0 then s1.homeGo r
      else
        let s2 := (List.range 8).foldl (fun (s : State) d =>
          if others.getLsbD d then s.sendCtl (ctlReq 4 r.dst d (lineOf r.loc * 128) r.vf r.part none) else s) s1
        { s2 with txns := s2.txns ++ [⟨lineOf r.loc, r, others, false, none⟩] }

/-- The line of a request is read from its stack, and held until it has come (R259). -/
def State.homeFetch (s : State) (r : Req) : State :=
  let t : State := { s with txns := s.txns ++ [⟨lineOf r.loc, r, 0, true, none⟩] }
  t.bdSend (bdRequest 0 (lineOf r.loc * 128) 3 (BitVec.ofNat 7 (s.entry r.buf).key) r.buf (r.off.toNat - r.loc % 128) (.fill r.id))

/-- A read brings a line of host memory into its slice on die 0 (R180, R251). -/
def State.hostFill (s : State) (r : Req) : State :=
  if r.opc = 1 ∧ locKind r.loc = .host then s.homeFill r.loc r.vf r.key r.buf r.off.toNat else s

/-- A request reaches its home: the port's check (R240), which its entry cache serves (R241); then a fill of the line, where it is missing. A far
atomic needs none (R266). -/
def State.homeServe (s0 : State) (r : Req) : State :=
  if !r.passed && s0.homeRefuses r then (s0.countRefusal r.dst r.part r.buf).respond r [] (some .permRemote) 0
  else
    let s1 := if r.src = r.dst ∨ r.dst = peerDie then s0 else s0.usePort r.dst r.buf
    let s := s1.hostFill r
    if s.lineHere r.loc || r.far then s.homeBegin r else s.homeFetch r

/-- The line of the fill of request id has come from its stack, or has not (R262). -/
def State.fillDone (s : State) (id : Nat) (cause : Option Cause) : State :=
  match s.txns.find? fun t => t.req.id == id && t.fill with
  | none => s
  | some t =>
    let s1 : State := { s with txns := s.txns.filter fun (x : HomeTxn) => x.req.id != id }
    if cause = some .ackLost then s1.respond t.req [] cause 0
    else State.homeBegin (if (tabFind t.line s1.homeLines).isSome then s1
      else s1.install t.line t.req.vf t.req.buf (t.req.off.toNat - t.req.loc % 128)) t.req

/-- A write of request id at the base die is done, or lost (R262): the requester hears once all of them are. One that meets a poisoned sector
changes nothing there, and nothing tells a store of it (R264). -/
def State.throughDone (s : State) (id : Nat) (cause : Option Cause) : State :=
  match s.txns.find? fun t => t.req.id == id && t.old.isSome with
  | none => s
  | some t =>
    let s1 : State := { s with txns := s.txns.filter fun (x : HomeTxn) => x.req.id != id }
    if cause = some .ackLost then s1.respond t.req [] cause 0
    else if (s.stack (paStack t.req.loc)).queue.any fun q => q.who == .through id then s
    else s1.respond t.req (t.old.getD []) none 0

/-- Every copy that a transaction waits for is gone, that of a die now too. -/
def State.gotAck (s : State) (die line : Nat) : State :=
  match s.openTxn line with
  | none => s
  | some t =>
    if !t.dies.getLsbD die then s
    else
      let dies := setBits t.dies die 1 0
      let s1 := s.setPresence line die false
      if dies = 0 then s1.homeGo t.req
      else { s1 with txns := s1.txns.map fun x => if x.req.id = t.req.id then { x with dies := dies } else x }

/-- R195: a request gives up, with ACK_LOST. An invalidation takes the request that waits for it along, which has not been applied (log 71). -/
def State.giveUp (s : State) (r : Req) : State :=
  let s1 := s.answer r [] (some .ackLost) 0
  if r.opc ≠ 4 then s1
  else match s1.openTxn (lineOf r.loc) with
    | some t => State.respond { s1 with txns := s1.txns.filter fun (x : HomeTxn) => x.req.id != t.req.id } t.req [] (some .ackLost) 0
    | none => s1

/-- ACK_TIMEOUT of request id (R193): resent at most three times with the same SEQ. -/
def State.ackTimeout (s : State) (id : Nat) : State :=
  match s.reqs.find? (·.id == id) with
  | none => s
  | some r =>
    if r.src = r.dst ∨ s.tick < r.sent + r.limit then s
    else if 3 ≤ r.tries then s.giveUp r
    else
      let r1 := { r with tries := r.tries + 1, sent := s.tick }
      State.sendReq { s with reqs := s.reqs.map fun (q : Req) => if q.id = id then r1 else q } r1

end Sys2Proof.Machine
end

