-- ==== Sys2Proof/Machine/EvBase.lean ====
section
/-! DEFINITION. Machine/EvBase.lean: the events of the base dies: requests performed, replies, timeouts, back-off, refresh and
scrubbing (13 R258 to R271; 12 R253). -/

namespace Sys2Proof.Machine

/-- Request i of a stack. -/
def State.bdAt (s : State) (st i : Nat) : Option BdReq := (s.stack st).queue[i]?

/-- BD_READ (R258, R265). -/
def execBdRead (st i : Nat) (s : State) : Host.Outcome State Fault Refusal := .next (s.bdRun 0 st i)

/-- BD_WRITE (R264, R265). -/
def execBdWrite (st i : Nat) (s : State) : Host.Outcome State Fault Refusal := .next (s.bdRun 1 st i)

/-- BD_MASKED_WRITE (R264). -/
def execBdMaskedWrite (st i : Nat) (s : State) : Host.Outcome State Fault Refusal := .next (s.bdRun 2 st i)

/-- BD_ATOMIC (R266). -/
def execBdAtomic (st i : Nat) (s : State) : Host.Outcome State Fault Refusal := .next (s.bdRun 3 st i)

/-- BD_DROP (R265). -/
def execBdDrop (st i : Nat) (s : State) : Host.Outcome State Fault Refusal := .next (s.bdRun 4 st i)

/-- BD_TILE_READ (R267). -/
def execBdTileRead (st i : Nat) (s : State) : Host.Outcome State Fault Refusal := .next (s.bdRun 5 st i)

/-- BD_DIAGNOSTIC_READ (R271). -/
def execBdDiagnosticRead (st i : Nat) (s : State) : Host.Outcome State Fault Refusal := .next (s.bdRun 6 st i)

/-- The cause that a reply gives its requester (R263: a poisoned sector returns no data). DESIGN CHOICE (log 76): STATUS 3 is reported as PERM_REMOTE;
R258 gives no report for it. -/
def replyCause (x : BdReply) : Option Cause := if x.status = 2 then some .none_ else if x.status = 3 then some .permRemote else none

/-- A base-die answer to the word that waits for request num: the bytes of its own request in the sector. -/
def Ctx.hearBd (uid num : Nat) (data : List Byte) (cause : Option Cause) (c : Ctx) : Ctx :=
  match c.wait with
  | .remote e acc q =>
    if c.launch.uid = uid ∧ q.id = num then { c with wait := .answered e acc q ((data.drop (q.loc % 32)).take q.size) cause 0 } else c
  | _ => c

/-- The same for a deferred access. -/
def Ctx.hearBdOut (uid out : Nat) (data : List Byte) (cause : Option Cause) (c : Ctx) : Ctx :=
  if c.launch.uid ≠ uid then c
  else { c with out := c.out.map fun x => match x with
    | .acc a => .acc (if a.id = out then { a with ans := some ((data.drop (a.part.req.loc % 32)).take a.part.req.size, cause, 0) } else a)
    | .fence fn k => .fence fn k }

/-- A lost request of a CWB at its word: a write-back is made again, a drop fails its access (R262). -/
def Ctx.hearCwb (uid line : Nat) (cause : Option Cause) (c : Ctx) : Ctx :=
  match c.wait with
  | .cwb l none =>
    if c.launch.uid = uid ∧ l = line then { c with wait := if cause.isSome then .cwb line cause else .busy 0 [] } else c
  | _ => c

/-- The far atomic of a home request ends (R266 step 5): the transaction closes and the requester hears. -/
def State.farDone (s : State) (id : Nat) (data : List Byte) (cause : Option Cause) : State :=
  match s.txns.find? (·.req.id == id) with
  | none => s
  | some t =>
    let s1 : State := { s with txns := s.txns.filter fun (x : HomeTxn) => x.req.id != id }
    (s1.setPresence t.line t.req.src false).respond t.req data cause 0

/-- A base-die answer to the copy number num of a channel: what it brings, or its fault. -/
def State.copyGot (s : State) (k ch uid num : Nat) (r : BdReq) (cause : Option Cause) (f : State → State) : State :=
  match s.activeCopy k ch with
  | none => s
  | some p =>
    if (s.slot k).launch.uid ≠ uid ∨ p.num ≠ num ∨ p.failed = true then s
    else
      let s1 := s.updCopy k ch fun p => { p with ask := false }
      match cause with
      | some c => s1.copyFault k ch c r.buf r.off 0
      | none => f s1

/-- What the requester behind a base-die request does with its result. -/
def State.bdDone (s : State) (r : BdReq) (x : BdReply) (cause : Option Cause) : State :=
  match r.who with
  | .none_ => s
  | .word k uid out => s.updSlot k fun c => if out = 0 then c.hearBd uid r.num x.data cause else c.hearBdOut uid out x.data cause
  | .link id => s.farDone id (bytesOf (if r.asz then 8 else 4) x.old.toNat) cause
  | .fill id => s.fillDone id cause
  | .tile k ch uid num => s.copyGot k ch uid num r cause fun s => s.updCopy k ch fun p => { p with tiles := p.tiles ++ [x.data] }
  | .copy k ch uid num loc n => s.copyGot k ch uid num r cause fun s => s.copyBytes k ch ((x.data.drop (loc % 32)).take n)
  | .writeBack line => (if cause.isNone then s else s.lineBack r).farNext line
  | .clean line k uid => (if cause.isNone then s else (s.lineBack r).updSlot k fun c => c.hearCwb uid line none).farNext line
  | .drop line k uid => if cause.isNone then s else s.updSlot k fun c => c.hearCwb uid line cause
  | .through id => s.throughDone id cause
  | .prefetch _ core vf =>
    if cause.isSome then s
    else
      let s1 := if s.lineHere r.loc || s.txns.any (·.line == lineOf r.loc) then s else s.install (lineOf r.loc) vf r.buf r.off
      match core with
      | some n => if (tabFind (lineOf r.loc) s1.homeLines).isSome && !s1.lineBad (lineOf r.loc) then
          s1.fillL1 n (lineOf r.loc) (s1.dieBytes (lineOf r.loc * 128) 128) else s1
      | none => s1

/-- The tag of request i freed, and the requests that waited sent (R259). -/
def State.bdFree (s : State) (st i : Nat) : State := (s.updStack st fun k => { k with queue := k.queue.eraseIdx i }).bdPump st

/-- BD_REPLY (R258 to R260): the MP receives the reply to request i. -/
def State.bdReply (s : State) (st i : Nat) : State :=
  match s.bdAt st i with
  | none => s
  | some r =>
    match r.reply with
    | none => s
    | some x => (s.bdFree st i).bdDone r x (replyCause x)

def execBdReply (st i : Nat) (s : State) : Host.Outcome State Fault Refusal := .next (s.bdReply st i)

/-- MP_TIMEOUT (R262): resent with the same TAG and GEN up to three times; then the tag is freed and the access fails with ACK_LOST, and a
write-back leaves its line dirty. -/
def State.mpTimeout (s : State) (st i : Nat) : State :=
  match s.bdAt st i with
  | none => s
  | some r =>
    if r.tag.isNone ∨ s.tick < r.sent + 1700 then s
    else if r.tries < 3 then
      s.updStack st fun k => { k with queue := k.queue.set i { r with tries := r.tries + 1, sent := s.tick, lost := false } }
    else (s.bdFree st i).bdDone r ⟨11, 0, 0, []⟩ (some .ackLost)

def execMpTimeout (st i : Nat) (s : State) : Host.Outcome State Fault Refusal := .next (s.mpTimeout st i)

/-- BACKOFF_END (R269): the bank takes activations again. -/
def execBackoffEnd (st pch bank : Nat) (s : State) : Host.Outcome State Fault Refusal :=
  .next (s.updStack st fun k =>
    match tabFind (pch * 16 + bank) k.backoff with
    | some t => if t ≤ s.tick then { k with backoff := tabDel (pch * 16 + bank) k.backoff } else k
    | none => k)

/-- The start of the next refresh of a pseudo-channel: 3,315 cycles after the start of the last one, whose end fresh holds; of the first one, 51 cycles
after the reset for each pseudo-channel before it and 4 for each stack (R270). So no two of a package start together (R351). -/
def State.refreshAt (s : State) (st pch : Nat) : Nat :=
  match tabFind pch (s.stack st).fresh with
  | some t => t + (3315 - 298)
  | none => s.resetTick + 51 * pch + 4 * st

/-- REFRESH (R270): once its start has come, every open row of the pseudo-channel closes, and it is busy for 298 cycles from then. -/
def execRefresh (st pch : Nat) (s : State) : Host.Outcome State Fault Refusal :=
  .next (if s.refreshAt st pch ≤ s.tick then s.updStack st fun k =>
      { k with rows := k.rows.filter fun p => p.1 / 16 != pch, fresh := tabPut pch (s.refreshAt st pch + 298) k.fresh }
    else s)

/-- SCRUB_GRANULE (R253): the scrubber zeroes the next granule of the lowest pending frame, unless an access has; a frame whose last
granule is done leaves the map. -/
def State.scrubNext (s : State) (st : Nat) : State :=
  match (s.stack st).scrub.find? (fun f => (s.stack st).scrub.all fun g => decide (f.base ≤ g.base)) with
  | none => s
  | some f =>
    let g := f.base + f.next
    let s1 := if f.done.contains g then s else s.zeroGranule g fun _ => KeyTag.blank
    s1.updStack st fun k =>
      { k with scrub := (k.scrub.map fun (x : Scrub) => if x = f then { f with next := f.next + 1 } else x).filter fun (x : Scrub) =>
          decide (x.next < x.count) }

def execScrubGranule (st : Nat) (s : State) : Host.Outcome State Fault Refusal := .next (s.scrubNext st)

end Sys2Proof.Machine
end

