-- ==== Sys2Proof/Machine/Access.lean ====
section
/-! DEFINITION. Machine/Access.lean: an access of the word at the PC from its translation to its answer (08 R146, R147; 09 R181 to
R184; 12 R247; 10 R219), acquires and releases (R147, R183), deferred faults (R197) and the end of a region (R157, R162). An access is
performed in parts, one per 128-byte line. A word that may still trap waits in Ctx.wait while a part is at its home; a part that can no
longer trap precisely stands in Ctx.out and is performed after its word has retired (R105). -/

namespace Sys2Proof.Machine

/-! ### The parts of an access -/

/-- What an access is, beside its place: opc 1 read, 2 write, 3 atomic; the scopes of an acquire and of a release; and whether it is
one of a vector word. A plain access has ORD = 00 (R146). -/
structure AccMode where
  opc   : Nat
  plain : Bool
  bel   : Bool
  far   : Bool
  aop   : Nat
  opnd  : Word
  cmp   : Word
  need  : BitVec 4
  acq   : Option Nat
  rel   : Option Nat
  vec   : Bool
  deriving DecidableEq, Repr

/-- A plain read. -/
def AccMode.read : AccMode := ⟨1, true, false, false, 0, 0, 0, rRead, none, none, false⟩

/-- A plain free store, or a belayed one. -/
def AccMode.write (bel : Bool) : AccMode := ⟨2, true, bel, false, 0, 0, 0, rWrite, none, none, false⟩

/-- The access of a vector word. -/
def AccMode.ofVec (m : AccMode) : AccMode := { m with vec := true }

/-- Locations with their offsets cut into runs that stay in one unit of a size. -/
def runsOf (unit : Nat) : List (Nat × Nat) → List Run
  | [] => []
  | (a, o) :: l =>
    match runsOf unit l with
    | r :: rs => if r.loc = a + 1 ∧ r.loc % unit ≠ 0 then ⟨a, o, r.n + 1⟩ :: rs else ⟨a, o, 1⟩ :: r :: rs
    | [] => [⟨a, o, 1⟩]

/-- Slot j is within a scope level of slot k (Table 8-12). -/
def slotInScope (scope k j : Nat) : Bool :=
  if scope = 0 then coreKey k == coreKey j
  else if scope = 1 then slotDie k == slotDie j && slotCluster k == slotCluster j
  else dieInScope scope (slotDie k) (slotDie j)

/-- R150: the scope of a marked access or FENCE of the focused context includes no other agent, so that it is taken as plain, or as absent.
DEDUCED (log 74): R150 has one that leaves any agent out so taken; one that includes some agent keeps its orders, which R152 asks for. -/
def State.reachesNone (s : State) (scope : Nat) : Bool :=
  s.members.isEmpty && s.nodes.all (·.made) && s.slots.any (fun p => p.1 != s.cur && p.2.bound) &&
  s.slots.all fun p => p.1 == s.cur || !p.2.bound || !slotInScope scope s.cur p.1

/-- The part of an access on a run, for step e of the word. -/
def State.part (s : State) (m : AccMode) (w : Win) (en : Entry) (e : Nat) (data : List Byte) (r : Run) : Part :=
  let c := s.ctx
  { req :=
      { id := 0, slot := s.cur, ch := 0, uid := c.launch.uid, src := slotDie s.cur, dst := homeDie r.loc, opc := m.opc,
        bel := m.bel, seq := 0, serial := c.regs.csr.retired.setWidth 16, pc := BitVec.ofNat 32 c.regs.pc, buf := w.buf,
        off := BitVec.ofNat 48 r.off, creg := w.creg.setWidth 4, loc := r.loc, size := r.n, data := data, aop := m.aop, opnd := m.opnd,
        cmp := m.cmp, chk := en.chk, marked := m.opc == 3 && m.aop != 14 || !m.plain, far := m.far,
        region := c.regs.csr.regionno, fill := false, noCopy := noCopyOn (slotDie s.cur) r.loc, vf := c.launch.vf,
        part := c.launch.part, key := s.byteTag en w.buf r.loc r.off, need := m.need, s := w.s, blk := false, out := 0, stale := false,
        vec := m.vec, bar := none, passed := false, wide := (match m.rel with | some k => decide (3 ≤ k) | none => false), e := e, tries := 0, sent := 0,
        limit := 0 },
    plain := m.plain, diag := en.ty = .diagnostic, acq := m.acq, rel := m.rel, dst := .none_,
    loose := match m.acq, m.rel with | some k, _ => s.reachesNone k | none, some k => s.reachesNone k | none, none => false }

/-- The parts of an access, with the bytes that each stores. -/
def State.parts (s : State) (m : AccMode) (w : Win) (en : Entry) (l : List Nat) (e : Nat) (data : List Byte) : List Part :=
  (runsOf (if en.ty = .diagnostic then 32 else 128) (l.zip (countFrom w.off l.length))).map fun r =>
    s.part m w en e ((data.drop (r.off - w.off)).take r.n) r

/-! ### Deferred accesses (R105, R117, R148, R149) -/

/-- An access as R148 orders it. -/
structure AccInfo where
  loc  : Nat
  size : Nat
  rd   : Bool
  wr   : Bool
  vec  : Bool
  acq  : Bool
  rel  : Bool
  deriving DecidableEq, Repr

/-- A part as R148 orders it, after the adjustment of R150. -/
def Part.info (p : Part) : AccInfo :=
  ⟨p.req.loc, p.req.size, p.req.opc != 2, p.req.opc != 1, p.req.vec, p.acq.isSome && !p.loose, p.rel.isSome && !p.loose⟩

/-- R148: an earlier access of a context is ordered before a later one by what they are. -/
def AccInfo.before (a b : AccInfo) : Bool :=
  (decide (a.loc < b.loc + b.size) && decide (b.loc < a.loc + a.size)) || a.acq || b.rel || (a.rel && b.acq)

/-- Table 6-1 and R148: a FENCE between two accesses orders them by a bit of its type. -/
def fenceCovers (fn : BitVec 7) (a b : AccInfo) : Bool :=
  fn.getLsbD (2 * a.vec.toNat + b.vec.toNat) || (fn.getLsbD 4 && a.rd) || (fn.getLsbD 5 && b.wr) || fn.getLsbD 6

/-- A later access b must wait for an access of the list, or for a FENCE of it that covers one. -/
def outBlocks (b : AccInfo) : List AccInfo → List Out → Bool
  | _, [] => false
  | seen, .acc a :: l => a.part.info.before b || outBlocks b (a.part.info :: seen) l
  | seen, .fence fn _ :: l => seen.any (fun a => fenceCovers fn a b) || outBlocks b seen l

/-- An access of the word at the PC waits for a deferred one. -/
def Ctx.blocks (c : Ctx) (b : AccInfo) : Bool := outBlocks b [] c.out

/-- The deferred access of a number is gone. -/
def Ctx.dropOut (c : Ctx) (id : Nat) : Ctx :=
  { c with out := c.out.filter fun x => match x with | .acc a => a.id != id | .fence _ _ => true }

/-- The accesses still to come for a tag are gone. -/
def Ctx.dropOuts (c : Ctx) (t : Nat) : Ctx :=
  { c with out := c.out.filter fun x => match x with | .acc a => t = 0 || a.tag != t | .fence _ _ => true }

/-- A store or an atomic access of a context is still to be performed. -/
def Ctx.storing (c : Ctx) : Bool := c.out.any fun x => match x with | .acc a => a.part.req.opc != 1 | .fence _ _ => false

/-- A part may be performed, or answered, after its word has retired: a load or atomic (R105, R356, R397), or a free store of a buffer that is
not checked, outside the scratchpad. -/
def Part.mayDefer (p : Part) : Bool := p.req.opc != 2 || (!p.req.chk && locKind p.req.loc != .scratch && !p.req.bel)

/-- The word waits until the home has checked the access (R163). -/
def Part.toCheck (p : Part) : Bool := p.req.chk && !p.req.passed

/-! ### What a part does -/

/-- Who performs a part: the word at the PC, with the bytes that it has so far, or a deferred access. -/
inductive Asker where
  | word (acc : List Byte)
  | out (o : OutAcc)

/-- A part's outcome: done, with the bytes it read; not begun, since another request or a copy stands in the way; its request sent; or
its request refused by a cause, with the context id of a live stamp. -/
inductive PartDid where
  | got (s : State) (bs : List Byte)
  | busy
  | sent (s : State)
  | bad (s : State) (r : Req) (cause : Cause) (stamp : Nat)

/-- An access's outcome: done, with the bytes it read; the word waits; or refused. -/
inductive Did where
  | got (s : State) (bs : List Byte)
  | wait (s : State)
  | bad (s : State) (r : Req) (cause : Cause) (stamp : Nat)

/-- The word waits at step e with the bytes it has so far. -/
def State.waitAt (s : State) (w : Wait) : State := s.updCtx fun c => { c with wait := w }

/-- A deferred access joins the list, or is marked there as sent. -/
def Ctx.putOut (c : Ctx) (o : OutAcc) : Ctx :=
  if c.out.any fun x => match x with | .acc a => a.id == o.id | .fence _ _ => false then
    { c with out := c.out.map fun x => match x with | .acc a => .acc (if a.id = o.id then o else a) | .fence fn k => .fence fn k }
  else { c with out := c.out ++ [.acc o] }

/-- The asker waits for the answer to a request of part r; the request that brings it. -/
def State.await (s : State) (a : Asker) (r : Req) : State × Req :=
  match a with
  | .word acc => (s.waitAt (.remote r.e acc { r with id := s.nextReq }), { r with blk := true })
  | .out o => (s.updCtx fun c => c.putOut { o with sent := true }, { r with out := o.id })

/-- A line in the level-one data cache that is not older than R147 allows. -/
def State.l1dHit (s : State) (line : Nat) : Option (List Byte) :=
  match tabFind line (s.core (coreKey s.cur)).l1d with
  | some x => if s.tick ≤ x.fill + 65536 then some x.data else none
  | none => none

/-- R147: a store's line leaves the level-one data caches of the other cores of its cluster, and its own core's unless the store is a
plain free one, which writes it there. -/
def State.l1dStore (s : State) (p : Part) : State :=
  let n := coreKey s.cur
  let line := lineOf p.req.loc
  { s with cores := s.cores.map fun x =>
      if x.1 = n then
        if p.plain && p.req.opc == 2 && !p.req.bel then
          match tabFind line x.2.l1d with
          | some y => (x.1, { x.2 with l1d := tabPut line { y with data := patch y.data (p.req.loc % 128) p.req.data } x.2.l1d })
          | none => x
        else (x.1, { x.2 with l1d := tabDel line x.2.l1d })
      else if x.1 / 16 = n / 16 then (x.1, { x.2 with l1d := tabDel line x.2.l1d })
      else x }

/-- A request joins the outstanding ones with its asker waiting for it. -/
def State.sendWaiting (s : State) (p : Part) (a : Asker) : PartDid :=
  let w := s.await a p.req
  let q := w.1.numberReq w.2
  .sent (q.2.sendReq q.1)

/-- A request of the home's own die: it needs no number. -/
def State.localReq (s : State) (r : Req) : State :=
  let r1 := { r with id := s.nextReq, sent := s.tick }
  State.homeServe { s with nextReq := s.nextReq + 1, reqs := s.reqs ++ [r1] } r1

/-- A line filled into the core's level-one data cache by a plain load. -/
def State.l1dFill (s : State) (p : Part) (line : List Byte) : State :=
  if p.plain && !p.req.chk && !p.req.noCopy then s.fillL1 (coreKey s.cur) (lineOf p.req.loc) line else s

/-- The bytes of a part within its line. -/
def Req.inLine (r : Req) (line : List Byte) : List Byte := (line.drop (r.loc % 128)).take r.size

/-- A read of bytes homed elsewhere (R181 to R183): by the die's copy; from its own store in flight that the home has not ordered yet, so that
every store ordered so far precedes it; or from the home. -/
def State.readAway (s : State) (p : Part) (a : Asker) : PartDid :=
  let r := p.req
  let send : PartDid := if s.tooMany s.cur 0 then .busy else s.sendWaiting { p with req := { r with fill := !r.chk && !r.noCopy } } a
  let copy : Option (List Byte) := if r.chk || r.noCopy then none else tabFind (lineOf r.loc) (s.die r.src).copies
  match s.inFlight r.src (lineOf r.loc) with
  | some w =>
    let held := (s.die r.src).heldInv.contains (lineOf r.loc)
    if w.opc = 2 ∧ w.bel = false ∧ r.chk = false ∧ w.loc ≤ r.loc ∧ r.loc + r.size ≤ w.loc + w.size ∧ (s.dup w).isNone = true ∧
        (r.noCopy = false ∨ (w.slot = s.cur ∧ w.uid = r.uid)) then
      .got s ((w.data.drop (r.loc - w.loc)).take r.size)
    else if w.opc = 2 ∧ w.bel = false ∧ held = false then
      match copy with
      | some l => .got s (r.inLine l)
      | none => .busy
    else .busy
  | none =>
    match copy with
    | some l => .got (s.l1dFill p l) (r.inLine l)
    | none => send

/-- The answer to a request that was served at once. -/
def State.atOnce (s : State) (a : Asker) : PartDid :=
  match a with
  | .word _ =>
    match s.ctx.wait with
    | .answered _ _ r data cause stamp =>
      match cause with
      | some c => .bad (s.waitAt .none_) r c stamp
      | none => .got (s.waitAt .none_) data
    | _ => .sent s
  | .out o =>
    match s.ctx.out.findSome? fun x => match x with | .acc b => if b.id = o.id then b.ans else none | .fence _ _ => none with
    | some (data, cause, stamp) =>
      match cause with
      | some c => .bad (s.updCtx fun x => x.dropOut o.id) o.part.req c stamp
      | none => .got (s.updCtx fun x => x.dropOut o.id) data
    | none => .sent s

/-- A part that its home performs while its asker waits: a read that misses, a store, or an atomic access. -/
def State.homeWaiting (s : State) (p : Part) (a : Asker) : PartDid :=
  let w := s.await a p.req
  (w.1.localReq w.2).atOnce a

/-- A read of bytes homed on the core's own die: from its slice, or once the line has come from its stack. -/
def State.readHome (s : State) (p : Part) (a : Asker) : PartDid :=
  let r := p.req
  if s.lineHeld (lineOf r.loc) then .busy
  else if !s.lineHere r.loc then s.homeWaiting { p with req := { r with fill := p.plain && !r.chk && !r.noCopy } } a
  else
    match (if r.chk && !r.passed then s.raceTest r.loc r.size (s.raceOf r) else none) with
    | some (cause, stamp) => .bad s r cause stamp
    | none =>
      let s1 := if r.chk && !r.passed then s.raceUpdate r.loc r.size (s.raceOf r) else s
      if s1.poisonedIn r.loc r.size then .bad s1 r .none_ 0
      else
        let s2 := s1.hostFill r
        .got (if s2.scrubPending r.loc || s2.lineBad (lineOf r.loc) then s2 else s2.l1dFill p (s2.dieBytes (lineOf r.loc * 128) 128))
          (s2.dieBytes r.loc r.size)

/-- A part of a read. -/
def State.readPart (s : State) (p : Part) (a : Asker) : PartDid :=
  let r := p.req
  if p.diag then
    if !r.passed && s.homeRefuses r then .bad (s.countRefusal r.dst r.part r.buf) r .permRemote 0
    else
      let w := s.await a r
      .sent (w.1.bdSend (bdRequest 6 (r.loc / 32 * 32) 0 0 r.buf (r.off.toNat - r.loc % 32) (.word s.cur r.uid w.2.out)))
  else if locKind r.loc = .scratch then
    if s.ctx.copyWait (scratchOff r.loc) r.size false then .busy else .got s (memBytes s.mem r.loc r.size)
  else
    match (if p.plain && !r.chk && !r.noCopy then s.l1dHit (lineOf r.loc) else none) with
    | some l => .got s (r.inLine l)
    | none =>
      let s1 := if p.plain then s else s.l1dCut (coreKey s.cur) (lineOf r.loc)
      if r.dst = r.src then s1.readHome p a else s1.readAway p a

/-- R183 rules 4 and 5: a store takes none of its points while another die's free store to one of its bytes is between its own two, or another
die's store or atomic to one is at its home; and a free store takes no local point while a wide release of its die is on its way. -/
def State.storeBars (s : State) (r : Req) : Bool :=
  let meets := fun (q : Req) => q.src != r.src && rangesMeet q.loc q.size r.loc r.size
  s.reqs.any (fun q => q.opc == 2 && !q.bel && meets q && (s.dup q).isNone) ||
  (match s.openTxn (lineOf r.loc) with | some t => t.req.opc != 1 && meets t.req | none => false) ||
  (r.opc == 2 && !r.bel && s.reqs.any fun q => q.src == r.src && q.wide && (q.opc == 3 || q.bel || q.chk))

/-- A part of a store: one that is belayed or checked waits for its home (R184, R163). -/
def State.writePart (s : State) (p : Part) (a : Asker) : PartDid :=
  let r := p.req
  if locKind r.loc = .scratch then
    if s.ctx.copyWait (scratchOff r.loc) r.size true then .busy
    else .got ((s.apply r.loc r.data r.key).dirtyScratch r.loc r.size) []
  else if r.dst = r.src then
    if (s.openTxn (lineOf r.loc)).isSome || s.storeBars r then .busy
    else if r.bel || r.chk then (s.l1dStore p).homeWaiting p a
    else .got ((s.l1dStore p).localReq r) []
  else if (s.inFlight r.src (lineOf r.loc)).isSome || s.tooMany s.cur 0 || (!r.bel && s.storeBars r) then .busy
  else
    let s1 := if r.bel then s.l1dStore p else (s.l1dStore p).patchCopy r.src r.loc r.data
    if r.bel || r.chk then s1.sendWaiting p a
    else
      let q := s1.numberReq r
      .got (q.2.sendReq q.1) []

/-- A part of an atomic access (R354 to R357), which is all of it. -/
def State.atomicPart (s : State) (p : Part) (a : Asker) : PartDid :=
  let r := p.req
  if locKind r.loc = .scratch then
    if s.ctx.copyWait (scratchOff r.loc) r.size true then .busy
    else
      let bytes := memBytes s.mem r.loc r.size
      let old := numOf bytes
      if aopWrites r.aop old r.cmp.toNat then
        .got ((s.apply r.loc (bytesOf r.size (aopNew r.aop (8 * r.size) old r.opnd.toNat r.cmp.toNat)) r.key).dirtyScratch r.loc r.size) bytes
      else .got s bytes
  else if r.dst = r.src then
    if (s.openTxn (lineOf r.loc)).isSome || s.storeBars r then .busy else (s.l1dStore p).homeWaiting p a
  else if (s.inFlight r.src (lineOf r.loc)).isSome || s.tooMany s.cur 0 then .busy
  else (s.l1dStore p).sendWaiting p a

/-- R147, R183 rule 5: what a release at a scope waits for at other contexts of its die: the global points of the die's free stores from .nbr
on; below it a free store is performed at its local point, unless its bytes can have no copy there. -/
def State.dieReleased (s : State) (scope : Nat) : Bool :=
  if 3 ≤ scope then !s.reqs.any fun r => r.src == slotDie s.cur && r.opc == 2 && !r.bel
  else !s.reqs.any fun r => r.slot == s.cur && r.ch == 0 && r.opc == 2 && r.noCopy

/-- A part performed, once what a release waits for is done; a request that it sends runs under ACKTIMEOUT as it now stands (R387). -/
def State.doPart (s : State) (p0 : Part) (a : Asker) : PartDid :=
  let p := { p0 with req := { p0.req with limit := s.ctx.regs.csr.acktimeout.toNat * 850 } }
  if (match p.rel with | some k => !s.dieReleased k | none => false) then .busy
  else if p.req.opc = 1 then s.readPart p a else if p.req.opc = 2 then s.writePart p a else s.atomicPart p a

/-! ### All parts of an access -/

/-- What a part adds to the bytes of its access: those read, or those stored. -/
def Part.keep (p : Part) (bs : List Byte) : List Byte := if p.req.opc = 2 then p.req.data else bs

/-- The parts still to come of the access that the word at the PC has begun. -/
def State.keepRest (s : State) (l : List Part) : State := s.updCtx fun c => { c with rest := l }

/-- The parts in order, from the bytes that earlier ones have brought, for the word at the PC. -/
def State.doParts (s : State) : List Part → List Byte → Did
  | [], acc => .got s acc
  | p :: l, acc =>
    if s.ctx.blocks p.info then .wait ((s.waitAt (.busy p.req.e acc)).keepRest (p :: l))
    else match s.doPart p (.word acc) with
      | .got s1 bs => s1.doParts l (acc ++ p.keep bs)
      | .busy => .wait ((s.waitAt (.busy p.req.e acc)).keepRest (p :: l))
      | .sent s1 => .wait (s1.keepRest l)
      | .bad s1 r cause stamp => .bad s1 r cause stamp

/-- A place n bytes on. -/
def OutDst.plus (n : Nat) : OutDst → OutDst
  | .none_ => .none_
  | .latch b => .latch (b + 8 * n)
  | .slot b => .slot (b + 8 * n)
  | .pay t j b => .pay t j (b + 8 * n)
  | .scale j p b => .scale j p (b + 8 * n)

/-- The parts of an access with the places of their bytes, from that of its first byte on. -/
def placeParts (base : OutDst) : List Part → Nat → List Part
  | [], _ => []
  | p :: l, n => { p with dst := base.plus n } :: placeParts base l (n + p.req.size)

/-- The deferred access of a part. -/
def Part.toOut (p : Part) (tag id : Nat) : OutAcc := { id := id, tag := tag, part := p, held := false, sent := false, ans := none }

/-- The cause of a request is reported by its tag, or as DEFERRED, and the word retires: only a refusal or a lost acknowledgement of an
unchecked access (R195). -/
def Req.late (r : Req) (cause : Cause) : Bool := !r.chk && (cause = .permRemote || cause = .ackLost)

/-- The word waits for the check of the access of a number at its home. -/
def Ctx.holdOut (c : Ctx) (e id : Nat) (h : Bool) : Ctx :=
  { c with
    wait := if h then .check e id else .none_,
    out := c.out.map fun x => match x with
      | .acc a => .acc (if a.id = id then { a with held := h } else a)
      | .fence fn k => .fence fn k }

/-- The parts of an access that may be deferred: each is performed at once where it can be, and stands among the deferred accesses else; the
word waits for the check of one to a checked buffer (R163). The bytes still to come are zero. A load that is refused at once is one
that fails its tag (R195). -/
def State.deferParts (tag : Nat) : List Part → List Byte → State → Did
  | [], acc, s => .got s acc
  | p :: l, acc, s0 =>
    let o := p.toOut tag s0.nextReq
    let s : State := { s0 with nextReq := s0.nextReq + 1 }
    let later := State.deferParts tag l (acc ++ List.replicate p.req.size (0 : Byte))
    let stay : Did := if p.toCheck then .wait (s.waitAt (.busy p.req.e [])) else later (s.updCtx fun c => c.putOut o)
    if (s.late && !p.toCheck && locKind p.req.loc != .scratch) || s.ctx.blocks p.info then stay
    else match s.doPart p (.out o) with
      | .got s1 bs => State.deferParts tag l (acc ++ p.keep bs) s1
      | .busy => stay
      | .sent s1 => if p.toCheck then .wait (s1.updCtx fun c => c.holdOut p.req.e o.id true) else later s1
      | .bad s1 r cause stamp =>
        if p.req.opc != 2 && r.late cause then later (s1.updCtx fun c => c.putOut { o with sent := true, ans := some ([], some cause, stamp) })
        else .bad s1 r cause stamp

/-- What stops a part at its home: its port (R240), or a record (R160). -/
def State.partBad (s : State) (p : Part) : Option (Req × Cause × Nat) :=
  if s.homeRefuses p.req then some (p.req, .permRemote, 0)
  else if p.req.chk then (s.raceTest p.req.loc p.req.size (s.raceOf p.req)).map fun x => (p.req, x.1, x.2)
  else none

/-- The first part of an access that its home stops. -/
def State.partsBad (s : State) (l : List Part) : Option (Req × Cause × Nat) := l.findSome? s.partBad

/-- The parts have passed the checks of their homes, and their records are made (R160, R255). -/
def State.partsPass (s : State) (l : List Part) : State :=
  l.foldl (fun s p => if p.req.chk then s.raceUpdate p.req.loc p.req.size (s.raceOf p.req) else s) s

/-- A part whose checks have been made. -/
def Part.pass (p : Part) : Part := { p with req := { p.req with passed := true } }

/-- The word at the PC no longer waits. -/
def State.resume (s : State) : State := s.updCtx fun c => { c with wait := .none_, rest := [] }

/-- The translations of the parts used by the extent cache (R245). -/
def State.useParts (s : State) (l : List Part) : State := l.foldl (fun s p => s.useExtent s.cur p.req.buf p.req.off.toNat) s

/-- An access from its beginning: every check of an access that has several parts is made before any of them is performed (R160, R247, R255). -/
def State.begin (s0 : State) (l : List Part) (k : List Part → State → Did) : Did :=
  let s := s0.useParts l
  if l.length ≤ 1 then k l s.resume
  else match s.partsBad l with
    | some (r, c, n) => .bad (if c = .permRemote then s.resume.countRefusal r.dst r.part r.buf else s.resume) r c n
    | none => k (l.map Part.pass) (s.partsPass l).resume

/-- An access that the word waits for. -/
def State.doAccess (s : State) (l : List Part) : Did := s.begin l fun l s => s.doParts l []

/-- An access that brings the result of a tag, or a store: deferred where it may be (R105). -/
def State.doTagged (s : State) (tag : Nat) (l : List Part) : Did :=
  if l.all Part.mayDefer then s.begin l fun l s => State.deferParts tag l [] s else s.doAccess l

/-- Step e of the word, an access that has begun, with the translations that it began with (R247, R249): it waits, is refused, or goes on. -/
def State.heard (s : State) (e : Nat) : Option Did :=
  match s.ctx.wait with
  | .remote e' _ _ => if e' = e then some (.wait s) else none
  | .busy e' acc => if e' = e ∧ acc ≠ [] then some (s.resume.doParts s.ctx.rest acc) else none
  | .answered e' acc r data cause stamp =>
    if e' ≠ e then none
    else match cause with
      | some c => some (.bad s.resume r c stamp)
      | none => some (s.resume.doParts s.ctx.rest (acc ++ data))
  | .check e' id =>
    if e' ≠ e then none
    else (s.ctx.out.findSome? fun x => match x with | .acc a => if a.id = id then some a else none | .fence _ _ => none).map fun a =>
      match a.ans with
      | some (_, some c, stamp) => .bad (s.resume.updCtx fun x => x.dropOut id) a.part.req c stamp
      | some (data, none, _) => .got (s.resume.updCtx fun x => x.dropOut id) data
      | none => if a.part.req.passed then .got (s.updCtx fun x => x.holdOut e id false) (List.replicate a.part.req.size 0) else .wait s
  | _ => none

/-! ### Causes (R195, R196, R319) -/

/-- The M layout of a request's cause; a race cause carries the context id of the live stamp. -/
def badInfo1 (r : Req) (stamp : Nat) : Word := BitVec.ofNat 64 (r.buf.toNat + r.creg.toNat * 2 ^ 24 + stamp % 2 ^ 11 * 2 ^ 36)

/-- A precise cause of a request; a poisoned sector ends the task (R346). -/
def badWord (s : State) (r : Req) (cause : Cause) (stamp : Nat) : WR State :=
  if cause = .none_ then .stall (s.updCtx fun c => c.taskFault .none_ (mInfo0 r.off.toNat) (badInfo1 r 0))
  else .trap (s.waitAt .none_) cause (mInfo0 r.off.toNat) (badInfo1 r stamp)

/-- A trap as a word's result. -/
def trapOf (s : State) (t : Trap) : WR State := .trap s t.cause t.i0 t.i1

/-- What a failed tag keeps of a request. -/
def Req.tagFail (r : Req) (cause : Cause) : TagFail := ⟨cause, r.pc, r.serial, r.buf, r.off, r.creg⟩

/-! ### Releases, acquires and regions -/

/-- R147, R183 rule 5: the accesses that a release at a scope waits for have been performed: the context's earlier stores, at that scope. Its
earlier loads, which R148 orders before it, are not waited for here (R117). -/
def State.released (s : State) (scope : Nat) : Bool := !s.ctx.storing && s.dieReleased scope

/-- R147: an acquire at .die or wider empties the level-one data cache of the core. -/
def State.acquire (s : State) (scope : Nat) : State :=
  if 2 ≤ scope then s.setCore (coreKey s.cur) { s.core (coreKey s.cur) with l1d := [] } else s

/-- TA failed (Table 2-4); the rest of its result is no longer awaited. -/
def Ctx.failTag (c : Ctx) (t : Nat) (d : BitVec 6) (vec : Bool) (f : TagFail) : Ctx :=
  (c.dropOuts t).setTag t { st := .failed f, used := true, dst := d, vec := vec, slot := 0, latch := 0, sfn := false, flags := 0 }

/-- The bits of n bits of a payload at their places in the byte slots of block j (R58): of each element the sign first, then the magnitude. -/
def placePay (t : Ety) (j bit n x : Nat) (d : BitVec 65536) : BitVec 65536 :=
  (List.range n).foldl (fun d i =>
    let k := (bit + i) % (t.seBits + 1)
    setBits d (8 * (16 * j + (bit + i) / (t.seBits + 1)) + (if k = 0 then 7 else k - 1)) 1 (x / 2 ^ i % 2)) d

/-- Bytes that a deferred access brings to its tag. -/
def Ctx.takeBytes (c : Ctx) (o : OutAcc) (bs : List Byte) : Ctx :=
  let n := (c.getTag o.tag).slot
  match o.part.dst with
  | .none_ => c
  | .pay t j b => c.setSlot n { c.getSlot n with data := placePay t j b (8 * bs.length) (numOf bs) (c.getSlot n).data }
  | .scale j pos b =>
    c.setSlot n { c.getSlot n with scales := setBits (c.getSlot n).scales (20 * j) 20 (getBits (BitVec.ofNat 64 (numOf bs * 2 ^ b)) pos 20) }
  | .latch b => c.setTag o.tag { c.getTag o.tag with latch := setBits (c.getTag o.tag).latch b (8 * bs.length) (numOf bs) }
  | .slot b =>
    c.setSlot n { c.getSlot n with data := setBits (c.getSlot n).data b (8 * bs.length) (numOf bs) }

/-- A FENCE of a type orders loads behind earlier accesses (Table 6-1): every bit but `rel`, which orders stores. -/
def fenceLoads (fn : BitVec 7) : Bool := fn &&& 0x5F != 0

/-- The scope of a FENCE that orders loads behind the deferred access of a number, or 0. -/
def Ctx.fenceBehind (c : Ctx) (id : Nat) : Nat :=
  (c.out.dropWhile fun x => match x with | .acc a => a.id != id | .fence _ _ => true).foldl
    (fun n x => match x with | .fence fn k => if fenceLoads fn then max n k else n | .acc _ => n) 0

/-- A deferred access of the focused context has been performed: its bytes go to its tag, and an acquire acts (R147); loads that a FENCE orders
behind it meet no older line in the level-one data cache (R149; log 73). -/
def State.outGot (s : State) (o : OutAcc) (bs : List Byte) : State :=
  let s1 := s.updCtx fun c => (c.dropOut o.id).takeBytes o bs
  s1.acquire (max (s.ctx.fenceBehind o.id) (o.part.acq.getD 0))

/-- A deferred access of the focused context has failed (R195, R196): its tag fails; a store, and a load whose word has trapped since, enter the
deferred-fault record; a poisoned sector ends the task (R346). -/
def State.outBad (s : State) (o : OutAcc) (cause : Cause) : State :=
  let r := o.part.req
  let s1 := s.updCtx fun c =>
    if cause = .none_ then (c.dropOut o.id).taskFault .none_ (mInfo0 r.off.toNat) (badInfo1 r 0)
    else
      let g := c.getTag o.tag
      if o.tag ≠ 0 ∧ g.isPending = true then c.failTag o.tag g.dst g.vec (r.tagFail cause)
      else (c.dropOut o.id).deferFault ⟨deferCode cause, r.pc, r.serial, r.buf, r.off⟩
  s1.acquire (max (s.ctx.fenceBehind o.id) (o.part.acq.getD 0))

/-- The word at the PC still waits for the check of a deferred access. -/
def Ctx.holds (c : Ctx) (o : OutAcc) : Bool := match c.wait with | .check _ id => o.id == id | _ => false

/-- The entry at place i of the focused context: an access performed or its result taken, a FENCE that nothing earlier holds, or an access whose
word was abandoned before its check, which goes. -/
def State.performCur (s : State) (i : Nat) : State :=
  match s.ctx.out[i]? with
  | none => s
  | some (.fence fn scope) =>
    if i ≠ 0 then s
    else
      let s1 := s.updCtx fun c => { c with out := c.out.drop 1 }
      if fenceLoads fn then s1.acquire scope else s1
  | some (.acc o) =>
    if o.held then (if s.ctx.holds o then s else s.updCtx fun c => c.dropOut o.id)
    else match o.ans with
    | some (data, none, _) => s.outGot o data
    | some (_, some cause, _) => s.outBad o cause
    | none =>
      if o.sent || outBlocks o.part.info [] (s.ctx.out.take i) then s
      else match s.doPart o.part (.out o) with
        | .got s1 bs => s1.outGot o bs
        | .busy => s
        | .sent s1 => s1
        | .bad s1 _ cause _ => s1.outBad o cause

/-- The entry at place i of slot k. -/
def State.perform (s : State) (k i : Nat) : State := (s.focus k).performCur i

/-- The first entry of slot k that can be performed now. -/
def State.outDue (s0 : State) (k : Nat) : Option Nat :=
  let s := s0.focus k
  (List.range s.ctx.out.length).find? fun i =>
    match s.ctx.out[i]? with
    | none => false
    | some (.fence _ _) => i == 0
    | some (.acc o) =>
      if o.held then !s.ctx.holds o
      else o.ans.isSome || (!o.sent && !outBlocks o.part.info [] (s.ctx.out.take i) &&
        (match s.doPart o.part (.out o) with | .busy => false | _ => true))

/-- R197: a delivery word raises DEFERRED for the pending record, which it clears with the count. A failed tag enters the record
first (Table 2-4). -/
def Ctx.deliverTags (c : Ctx) : Ctx := (countFrom 1 15).foldl (fun c t => c.deferTag t) c

/-- DEFERRED with the TRAPINFO of Table 16-4, or none. -/
def deferredTrap (s : State) : Option (WR State) :=
  let c := s.ctx.deliverTags
  match c.regs.deferred with
  | none => none
  | some d =>
    let i0 := BitVec.ofNat 64 (d.pc.toNat + d.serial.toNat * 2 ^ 32 + c.regs.deferCnt.toNat * 2 ^ 48)
    let i1 := BitVec.ofNat 64 (d.buf.toNat + d.off.toNat / 256 * 2 ^ 20 + d.code * 2 ^ 60)
    some (.trap { s with ctx := (c.upd fun r => { r with deferred := none, deferCnt := 0 }) } .deferred i0 i1)

/-- A release: the delivery of a deferred fault, then the wait of R147, then the rest of the word. -/
def releaseThen (scope : Nat) (k : State → WR State) (s : State) : WR State :=
  if s.released scope then k s else .stall (s.waitAt (.busy 0 []))

/-- A release that is performed when its word retires, which no access of the word's own carries: every earlier access of the context comes
before it (R148). -/
def arriveThen (scope : Nat) (k : State → WR State) (s : State) : WR State :=
  if s.ctx.out.isEmpty || s.reachesNone scope then releaseThen scope k s else .stall (s.waitAt (.busy 0 []))

/-- A delivery word: DEFERRED, or its own effect. -/
def deliverThen (k : State → WR State) (s : State) : WR State :=
  match deferredTrap s with
  | some w => w
  | none => k s

/-- R157, R162: the region ends, and then the rest of the word; a context at 0xFFFF first waits until every stamp of its id is
cleared. -/
def endRegionThen (k : State → WR State) (s : State) : WR State :=
  let ready := match s.ctx.wait with | .regionWrap b => b | _ => false
  if s.ctx.regs.csr.regionno = 0xFFFF ∧ ready = false ∧ s.stamped s.cur = true then .stall (s.waitAt (.regionWrap false))
  else k ((s.waitAt .none_).updCtx Ctx.nextRegion)

/-- The region ends and the word retires. -/
def endRegion : State → WR State := endRegionThen .done

/-- A word's body, unless all that is left of it is the end of its region. -/
def unlessWrapping (k : State → WR State) (s : State) : WR State :=
  match s.ctx.wait with
  | .regionWrap _ => endRegion s
  | _ => k s

end Sys2Proof.Machine
end

