-- ==== Sys2Proof/Machine/Barrier.lean ====
section
/-! DEFINITION. Machine/Barrier.lean: BARINIT, BARRIVE, BARWAIT, BARSYNC, BARQUERY (20 R361 to R368; 08 R165 to R170) and HBAR with
its teams (09 R199, R200; 21 R392). -/

namespace Sys2Proof.Machine

/-! ### The checks of R361 -/

/-- The die whose barrier unit holds an object. -/
def State.barDie (s : State) (loc : Nat) : Nat := if locKind loc = .dieScratch then homeDie loc else slotDie s.cur

/-- BAR_ERR at an object. -/
def barErr (s : State) (w : Win) : WR State := trapOf s (memTrap .barErr w.buf w.creg w.off)

/-- A barrier word's access to its object as R148 orders it. -/
def objInfo (loc : Nat) (acq rel : Bool) : AccInfo := ⟨loc, 16, true, true, false, acq, rel⟩

/-- Steps 2 to 4 of R361: the object's window and location. The word follows the context's earlier accesses to those bytes (R116), an acquire
its earlier releases, and a release every earlier access (R148). The home of an object on another die checks the access too (R240). -/
def withObject (b : FmtY) (acq rel : Bool) (f : Win → Nat → State → WR State) (s : State) : WR State :=
  match s.access s.ctx b.a b.imm.toNat 16 rSync 16 .sync with
  | .error x => stopWord s x
  | .ok (w, en, l) =>
    if en.ty = .scratch ∨ en.ty = .dieScratch then
      (if s.ctx.blocks (objInfo (l.headD 0) (acq && !s.reachesNone b.scope.toNat) (rel && !s.reachesNone b.scope.toNat)) then .stall s
       else match s.homeBar s.ctx w 16 rSync .sync (l.take 1) with
        | some d => trapOf (s.countRefusal d s.ctx.launch.part w.buf) (memTrap .permRemote w.buf w.creg w.off)
        | none => f w (l.headD 0) s)
    else barErr s w

/-- A copy-fault record of the context that names an object, on its lowest channel. -/
def Ctx.copyFaultOn (c : Ctx) (loc : Nat) : Option (Nat × CopyFault) :=
  (List.range 4).findSome? fun ch =>
    match (c.chan ch).fault with
    | some f => if f.bar = loc then some (ch, f) else none
    | none => none

/-- INFO1 of a copy fault (R319). -/
def copyInfo1 (ch : Nat) (f : CopyFault) : Word :=
  BitVec.ofNat 64 (f.buf.toNat + f.creg.toNat * 2 ^ 24 + 2 ^ 31 + ch % 4 * 2 ^ 32 + f.stamp % 2 ^ 11 * 2 ^ 36 + f.tmpl.toNat * 2 ^ 48)

/-- R216: the delivery of a copy fault clears the record and the object's ERR. -/
def raiseCopyFault (s : State) (ch : Nat) (f : CopyFault) : WR State :=
  let s1 := s.updCtx fun c => c.setChan ch { c.chan ch with fault := none }
  .trap (s1.setObj f.bar ((s1.obj f.bar).setErr false)) f.cause (mInfo0 f.off.toNat) (copyInfo1 ch f)

/-- Step 5 of R361. -/
def copyFaultThen (loc : Nat) (k : State → WR State) (s : State) : WR State :=
  match s.ctx.copyFaultOn loc with
  | some (ch, f) => raiseCopyFault s ch f
  | none => k s

/-! ### Arrivals and waits -/

/-- An arrival is refused (R364). -/
def BarObj.refuses (o : BarObj) : Bool := !o.rsvOk || o.pending == 0

/-- R364: one arrival, with the completion it may bring. -/
def State.arrive (s : State) (loc : Nat) : State :=
  (s.setObj loc ((s.obj loc).setPending ((s.obj loc).pending - 1))).completeIf loc (s.barDie loc)

/-- The end of a wait with status st (R367): a copy fault made meanwhile, or the acquire, s[D] and the region's end. -/
def barEnd (b : FmtY) (loc : Nat) (st : Word) (s : State) : WR State :=
  copyFaultThen loc (fun s =>
    endRegionThen (fun s => .done (s.updCtx fun c => c.upd fun r => { r with barsyncP := none }))
      ((s.acquire b.scope.toNat).updCtx fun c => c.setS b.d st)) (s.waitAt .none_)

/-- R367: the wait for the completion of phase q. -/
def barWait (b : FmtY) (q : BitVec 4) (w : Win) (loc : Nat) (s : State) : WR State :=
  let o := s.obj loc
  if !o.rsvOk then barErr s w
  else if o.phase ≠ q then barEnd b loc (BitVec.ofNat 64 (o.phase.toNat + 16)) s
  else .stall (s.waitAt (.bar loc q))

/-- A wait that has begun: its end, once it is released. -/
def barResume (b : FmtY) (k : State → WR State) (s : State) : WR State :=
  match s.ctx.wait with
  | .bar _ _ => .stall s
  | .barDone loc st => barEnd b loc (st.setWidth 64) s
  | _ => k s

/-! ### BARINIT, BARRIVE, BARWAIT, BARSYNC, BARQUERY -/

/-- R362. -/
def barinitBody (b : FmtY) (s : State) : WR State :=
  deliverThen (withObject b false true fun w loc s =>
    let n := (s.ctx.getS b.b).toNat
    if n = 0 ∨ 65535 < n then barErr s w
    else releaseThen b.scope.toNat (fun s => .done (s.setObj loc (BarObj.init n (getBits b.fn 0 2)))) s) s

/-- R362: BARINIT. -/
def execBarinit (h : Hdr) (b : FmtY) (s : State) : Host.Outcome State Fault Refusal :=
  runWord (issueY 0x6B h b [b.b] 0) (barinitBody b) s

/-- R364. -/
def barriveBody (b : FmtY) (s : State) : WR State :=
  deliverThen (withObject b false true fun w loc s =>
    releaseThen b.scope.toNat (fun s =>
      if (s.obj loc).refuses then barErr s w
      else endRegion ((s.arrive loc).updCtx fun c => c.setS b.d ((s.obj loc).phase.setWidth 64))) s) s

/-- R364: BARRIVE. -/
def execBarrive (h : Hdr) (b : FmtY) (s : State) : Host.Outcome State Fault Refusal :=
  runWord (issueY 0x6C h b [] b.d) (unlessWrapping (barriveBody b)) s

/-- R367. -/
def barwaitBody (b : FmtY) (s : State) : WR State :=
  barResume b (withObject b true false fun w loc s =>
    copyFaultThen loc (barWait b ((s.ctx.getS b.b).extractLsb' 0 4) w loc) s) s

/-- R367: BARWAIT. -/
def execBarwait (h : Hdr) (b : FmtY) (s : State) : Host.Outcome State Fault Refusal :=
  runWord (issueY 0x6D h b [b.b] b.d) (unlessWrapping (barwaitBody b)) s

/-- The phase in which the word at the PC has arrived. -/
def markedAt (m : Option (Nat × BitVec 4)) (pc : Nat) : Option (BitVec 4) := (markAt m pc).map (·.2)

/-- R365: the arrival of a BARSYNC, registered as a waiter on the phase it arrives in, and the region's end. -/
def barsyncArrive (w : Win) (loc : Nat) (s : State) : WR State :=
  if (s.obj loc).refuses then barErr s w
  else endRegionThen (fun s =>
    let p := (s.obj loc).phase
    .stall ((s.updCtx fun c => { c.upd (fun r => { r with barsyncP := some (c.regs.pc, p) }) with wait := .bar loc p }).arrive loc)) s

/-- R365, R366. -/
def barsyncBody (b : FmtY) (s : State) : WR State :=
  match s.ctx.wait, markedAt s.ctx.regs.barsyncP s.ctx.regs.pc with
  | .regionWrap _, some _ => endRegionThen (fun s => .done (s.updCtx fun c => c.upd fun r => { r with barsyncP := none })) s
  | _, some p => barResume b (withObject b true false fun w loc s => copyFaultThen loc (barWait b p w loc) s) s
  | _, none =>
    deliverThen (withObject b false true fun w loc s => copyFaultThen loc (releaseThen b.scope.toNat (barsyncArrive w loc)) s) s

/-- R365: BARSYNC. -/
def execBarsync (h : Hdr) (b : FmtY) (s : State) : Host.Outcome State Fault Refusal :=
  runWord (issueY 0x6E h b [] b.d) (barsyncBody b) s

/-- R363. -/
def barqueryBody (b : FmtY) (s : State) : WR State :=
  withObject b false false (fun _ loc s => .done (s.updCtx fun c => c.setS b.d ((s.obj loc).extractLsb' (64 * getBits b.fn 0 1) 64))) s

/-- R363: BARQUERY. -/
def execBarquery (h : Hdr) (b : FmtY) (s : State) : Host.Outcome State Fault Refusal :=
  runWord (issueY 0x6F h b [] b.d) (barqueryBody b) s

/-! ### Teams (R199, R200) -/

/-- The team of a node, by the node's number in the model; one that nobody has used yet is in phase 0. -/
def State.team (s : State) (vf : Nat) (node : BitVec 32) : Team :=
  (s.teams.find? fun t => t.vf == vf && t.node == node).getD ⟨vf, node, none, 0, 0, [], []⟩

/-- A team changed. -/
def State.setTeam (s : State) (t : Team) : State :=
  { s with teams := t :: s.teams.filter fun u => !(u.vf == t.vf && u.node == t.node) }

/-- The slots of a die to which members of a team are bound. -/
def State.teamSlots (s : State) (d vf : Nat) (node : BitVec 32) : List (Nat × Ctx) :=
  s.slots.filter fun p => slotDie p.1 == d && p.2.bound && p.2.launch.vf == vf && p.2.launch.team32 == node

/-- A release of phase p reaches a die: the window of its waiters of each profile begins (R200). -/
def State.teamRelease (s : State) (d vf : Nat) (node : BitVec 32) (p : BitVec 4) : State :=
  (List.range 4).foldl (fun (s : State) n =>
    let lo := s.pitchReg d (2 * n)
    let hi := s.pitchReg d (2 * n + 1)
    let ws : List Waiter := (s.teamSlots d vf node).filterMap fun x =>
      if x.2.wait = .hbar p (BitVec.ofNat 2 n) then some ⟨x.1, x.2.launch.uid, pitchOf lo hi x.1⟩ else none
    if ws = [] then s else s.openWin ⟨true, node.toNat * 4 + n, vf, d, lo, hi, p, p + 1, false, 0, s.tick, ws⟩) s

/-- The root completes phase p: a release for every die that holds waiters, its own at once. -/
def State.teamComplete (s : State) (t : Team) : State :=
  let root := t.root.getD 0
  let s1 := s.setTeam { t with phase := t.phase + 1, got := 0, arrived := [] }
  let holds := fun (d : Nat) => (s1.teamSlots d t.vf t.node).any fun x => match x.2.wait with | .hbar p _ => p == t.phase | _ => false
  let s2 := (List.range 8).foldl (fun (s : State) d =>
    if d ≠ root ∧ holds d = true then s.sendCtl (ctlReq 6 root d 0 t.vf (s.vfPartition t.vf) (some ⟨t.node, t.phase, 0⟩)) else s) s1
  s2.teamRelease root t.vf t.node t.phase

/-- Arrivals of phase p reach the root. -/
def State.teamCount (s : State) (vf : Nat) (node : BitVec 32) (p : BitVec 4) (n ninst : Nat) : State :=
  let t := s.team vf node
  if p ≠ t.phase then s
  else
    let t1 := { t with got := t.got + n }
    if ninst ≤ t1.got then s.teamComplete t1 else s.setTeam t1

/-- A die sends the arrivals that it holds, in one packet. -/
def State.teamFlush (s : State) (d vf : Nat) (node : BitVec 32) (ninst : Nat) : State :=
  let t := s.team vf node
  let n := tabGet 0 t.held d
  if n = 0 then s
  else
    let s1 := s.setTeam { t with held := tabDel d t.held }
    let root := t.root.getD d
    if root = d then s1.teamCount vf node t.phase n ninst
    else s1.sendCtl (ctlReq 5 d root 0 vf (s.vfPartition vf) (some ⟨node, t.phase, n⟩))

/-- A die sends its arrivals once every member bound on it has arrived. -/
def State.teamCheck (s : State) (d vf : Nat) (node : BitVec 32) (ninst : Nat) : State :=
  if (s.teamSlots d vf node).all fun x => (s.team vf node).arrived.contains x.2.launch.uid then s.teamFlush d vf node ninst else s

/-- An arrival at the barrier unit of a die; the last bound member of the die sends. -/
def State.teamArrive (s : State) (k : Nat) (l : Launch) : State :=
  let d := slotDie k
  let t := s.team l.vf l.team32
  let t1 := { t with root := some (t.root.getD d), held := tabPut d (tabGet 0 t.held d + 1) t.held, arrived := t.arrived ++ [l.uid] }
  (s.setTeam t1).teamCheck d l.vf l.team32 l.ninst.toNat

/-- The end of HBAR's wait for phase p. -/
def hbarEnd (b : FmtY) (p : BitVec 4) (s : State) : WR State :=
  endRegionThen (fun s => .done (s.updCtx fun c => c.upd fun r => { r with hbarP := none }))
    (((s.waitAt .none_).acquire b.scope.toNat).updCtx fun c => c.setS b.d ((p + 1).setWidth 64))

/-- The arrival of HBAR, with the region's end. -/
def hbarArrive (b : FmtY) (s : State) : WR State :=
  endRegionThen (fun s =>
    let p := (s.team s.ctx.launch.vf s.ctx.launch.team32).phase
    .stall ((s.updCtx fun c => { c.upd (fun r => { r with hbarP := some (c.regs.pc, p) }) with
      wait := .hbar p (b.fn.extractLsb' 0 2) }).teamArrive s.cur s.ctx.launch)) s

/-- R199, R200, R392. -/
def hbarBody (b : FmtY) (s : State) : WR State :=
  match s.ctx.wait, markedAt s.ctx.regs.hbarP s.ctx.regs.pc with
  | .hbar _ _, _ => .stall s
  | .hbarDone p, _ => hbarEnd b p s
  | .regionWrap _, some _ => endRegionThen (fun s => .done (s.updCtx fun c => c.upd fun r => { r with hbarP := none })) s
  | _, some p =>
    if (s.team s.ctx.launch.vf s.ctx.launch.team32).phase = p then .stall (s.waitAt (.hbar p (b.fn.extractLsb' 0 2))) else hbarEnd b p s
  | _, none =>
    deliverThen (fun s => if !s.ctx.launch.team then .trap s .barErr 0 0 else arriveThen b.scope.toNat (hbarArrive b) s) s

/-- R199: HBAR. -/
def execHbar (h : Hdr) (b : FmtY) (s : State) : Host.Outcome State Fault Refusal :=
  runWord (issueY 0x70 h b [] b.d) (hbarBody b) s

end Sys2Proof.Machine
end

