-- ==== Sys2Proof/Machine/Caps.lean ====
section
/-! DEFINITION. Machine/Caps.lean: LDCAP, CDERIVE, CADD, CRESTRICT and CREAD (02 R32 to R34, 21 R373, R378, R384, R385, R399). -/

namespace Sys2Proof.Machine

/-- A trap of a capability word in the memory layout. -/
def capTrap (c : Ctx) (cause : Cause) (buf : BitVec 20) (n : RegNo) (off : Nat) : WR Ctx :=
  .trap c cause (mInfo0 off) (mInfo1 buf n.toNat)

/-- R399: LDCAP. -/
def ldcapCtx (d : RegNo) (i : Nat) (c : Ctx) : WR Ctx :=
  match c.launch.captab[i]? with
  | none => capTrap c .capBounds 0 d i
  | some v => .done (c.setC d ⟨v, true⟩)

/-- R378: CDERIVE of offset o and length l. -/
def cderiveCtx (d a : RegNo) (o l : Nat) (keepd : Bool) (c : Ctx) : WR Ctx :=
  let r := c.getC a
  let t := fun k => capTrap c k (capBuf r.val) a (capBase r.val + o)
  if !r.valid then t .capInvalid
  else if !capD r.val then t .capRights
  else if capLen r.val < o ∨ capLen r.val - o < l then t .capBounds
  else .done (c.setC d ⟨mkCap (capBuf r.val) (capRights r.val) keepd (capS r.val) (capBase r.val + o) l, true⟩)

/-- R373: CADD by a; INFO0 is a. -/
def caddCtx (d n : RegNo) (a : Nat) (c : Ctx) : WR Ctx :=
  let r := c.getC n
  if !r.valid then capTrap c .capInvalid (capBuf r.val) n a
  else if capLen r.val < a then capTrap c .capBounds (capBuf r.val) n a
  else
    .done (c.setC d
      ⟨mkCap (capBuf r.val) (capRights r.val) (capD r.val) (capS r.val) (capBase r.val + a) (capLen r.val - a), true⟩)

/-- R385: CRESTRICT. -/
def crestrictCtx (d a : RegNo) (mask : BitVec 4) (keepd : Bool) (c : Ctx) : WR Ctx :=
  let r := c.getC a
  if !r.valid then capTrap c .capInvalid (capBuf r.val) a (capBase r.val)
  else
    .done (c.setC d
      ⟨mkCap (capBuf r.val) (capRights r.val &&& mask) (capD r.val && keepd) (capS r.val) (capBase r.val) (capLen r.val), true⟩)

/-- R384: what CREAD reads. -/
def creadValue (r : CReg) (sel : Nat) : Word :=
  if sel = 0 then r.val.extractLsb' 0 64 else if sel = 1 then r.val.extractLsb' 64 64 else if r.valid then 1 else 0

/-- R399: LDCAP. -/
def execLdcap (h : Hdr) (b : FmtY) (s : State) : Host.Outcome State Fault Refusal :=
  runWord (issueY 0x54 h b [] 0) (onCtx (ldcapCtx b.d b.imm.toNat)) s

/-- R378: CDERIVE. -/
def execCderive (h : Hdr) (b : FmtY) (s : State) : Host.Outcome State Fault Refusal :=
  runWord (issueY 0x55 h b [b.b, b.e] 0)
    (onCtx fun c => cderiveCtx b.d b.a (c.getS b.b).toNat (c.getS b.e).toNat (b.fn.getLsbD 0) c) s

/-- R373: CADD. -/
def execCadd (h : Hdr) (b : FmtY) (s : State) : Host.Outcome State Fault Refusal :=
  runWord (issueY 0x56 h b [b.b] 0) (onCtx fun c => caddCtx b.d b.a (c.getS b.b).toNat c) s

/-- R373: CADD.i. -/
def execCaddI (h : Hdr) (b : FmtY) (s : State) : Host.Outcome State Fault Refusal :=
  runWord (issueY 0x57 h b [] 0) (onCtx (caddCtx b.d b.a b.imm.toNat)) s

/-- R385: CRESTRICT. -/
def execCrestrict (h : Hdr) (b : FmtY) (s : State) : Host.Outcome State Fault Refusal :=
  runWord (issueY 0x58 h b [] 0) (onCtx (crestrictCtx b.d b.a (b.fn.extractLsb' 0 4) (b.fn.getLsbD 4))) s

/-- R384: CREAD. -/
def execCread (h : Hdr) (b : FmtY) (s : State) : Host.Outcome State Fault Refusal :=
  runWord (issueY 0x59 h b [] b.d) (onCtx fun c => .done (c.setS b.d (creadValue (c.getC b.a) b.imm.toNat))) s

end Sys2Proof.Machine
end

