-- ==== Sys2Proof/Machine/Control.lean ====
section
/-! DEFINITION. Machine/Control.lean: NOP, PAUSE, the transfers, the loop words, the software traps, TRET and the words of
unassigned opcodes (R96, R108, R369 to R374, R393, R402, R420, R422, R427, R434, R441, R442). -/

namespace Sys2Proof.Machine

/-- The target PC + sext(OFF32) (R73). -/
def relTarget (pc : Nat) (off : BitVec 32) : Int := (pc : Int) + off.toInt

/-- R73: a transfer to t, or CAP_BOUNDS with INFO0 equal to the target word index (R319), before any effect. eff is the effect
made together with the transfer. -/
def transfer (t : Int) (pop : Bool) (eff : Ctx → Ctx) (c : Ctx) : WR Ctx :=
  if t < 0 ∨ (c.launch.nativeLen : Int) ≤ t then .trap c .capBounds (BitVec.ofInt 64 t) 0
  else .jump (eff c) t.toNat pop

/-- R370: a conditional transfer by OFF32. -/
def branchIf (taken : Bool) (off : BitVec 32) (c : Ctx) : WR Ctx :=
  if taken then transfer (relTarget c.regs.pc off) true id c else .done c

/-- Bits 31:0 of a register as a word index. -/
def wordIndex (x : Word) : Int := ((x.extractLsb' 0 32).toNat : Int)

/-- R374: s31 receives PC + 1. -/
def linkPc (c : Ctx) : Ctx := c.setS 31 (BitVec.ofNat 64 (c.regs.pc + 1))

/-- R420: NOP. -/
def execNop (h : Hdr) (b : FmtY) (s : State) : Host.Outcome State Fault Refusal :=
  runWord (issueY 0x01 h b [] 0) (onCtx .done) s

/-- R422: PAUSE retires once the tick at which the next word may issue has come, and at once where its count is 0. -/
def pauseBody (b : FmtY) (s : State) : WR State :=
  match s.ctx.wait with
  | .pause t => if t ≤ s.tick then .done s else .stall s
  | _ => if b.imm = 0 then .done s else .stall (s.updCtx fun c => { c with wait := .pause (s.tick + b.imm.toNat) })

/-- A save retires a PAUSE that waits, and discards the rest of its wait (R422). -/
def Ctx.endPause (c : Ctx) : Ctx :=
  match c.wait with
  | .pause _ => (c.retire 0).endTest 5 c.regs.pc
  | _ => c

/-- R422: PAUSE. -/
def execPause (h : Hdr) (b : FmtY) (s : State) : Host.Outcome State Fault Refusal :=
  runWord (issueY 0x1D h b [] 0) (pauseBody b) s

/-- R393: JMP. -/
def execJmp (h : Hdr) (b : FmtJ) (s : State) : Host.Outcome State Fault Refusal :=
  runWord (issueJ 0x03 h b [] 0) (onCtx fun c => transfer (relTarget c.regs.pc b.off) true id c) s

/-- R393: JMP.r. -/
def execJmpR (h : Hdr) (b : FmtJ) (s : State) : Host.Outcome State Fault Refusal :=
  runWord (issueJ 0x04 h b [b.a] 0) (onCtx fun c => transfer (wordIndex (c.getS b.a)) true id c) s

/-- R374: CALL. -/
def execCall (h : Hdr) (b : FmtJ) (s : State) : Host.Outcome State Fault Refusal :=
  runWord (issueJ 0x05 h b [] 31) (onCtx fun c => transfer (relTarget c.regs.pc b.off) false linkPc c) s

/-- R374: CALL.r reads the target before it writes s31. -/
def execCallR (h : Hdr) (b : FmtJ) (s : State) : Host.Outcome State Fault Refusal :=
  runWord (issueJ 0x06 h b [b.a] 31) (onCtx fun c => transfer (wordIndex (c.getS b.a)) false linkPc c) s

/-- R427: RET reads s31. -/
def execRet (h : Hdr) (b : FmtJ) (s : State) : Host.Outcome State Fault Refusal :=
  runWord (issueJ 0x07 h b [31] 0) (onCtx fun c => transfer (wordIndex (c.getS 31)) false id c) s

/-- R370: BR. -/
def execBr (h : Hdr) (b : FmtJ) (s : State) : Host.Outcome State Fault Refusal :=
  runWord (issueJ 0x08 h b [b.a, b.b] 0)
    (onCtx fun c => branchIf (condHolds b.cond (c.getS b.a) (c.getS b.b)) b.off c) s

/-- R370: BR.i compares with sext(IMM10). -/
def execBrI (h : Hdr) (b : FmtJ) (s : State) : Host.Outcome State Fault Refusal :=
  runWord (issueJ 0x09 h b [b.a] 0)
    (onCtx fun c => branchIf (condHolds b.cond (c.getS b.a) (b.imm10.signExtend 64)) b.off c) s

/-- R372: BRZ. -/
def execBrz (h : Hdr) (b : FmtJ) (s : State) : Host.Outcome State Fault Refusal :=
  runWord (issueJ 0x0A h b [b.a] 0) (onCtx fun c => branchIf (c.getS b.a == 0) b.off c) s

/-- R372: BRNZ. -/
def execBrnz (h : Hdr) (b : FmtJ) (s : State) : Host.Outcome State Fault Refusal :=
  runWord (issueJ 0x0B h b [b.a] 0) (onCtx fun c => branchIf (c.getS b.a != 0) b.off c) s

/-- R108: the push or the zero-trip skip of a loop word with count n, end e and, for SLOOP, VLMAX. -/
def loopEnter (sloop : Bool) (n vlmax : Nat) (fin : Nat) (c : Ctx) : WR Ctx :=
  let e := c.regs.pc + fin
  if c.launch.nativeLen ≤ e then .trap c .capBounds (BitVec.ofNat 64 e) 0
  else if (match c.regs.loops with | [] => false | t :: _ => decide (t.fin < e)) then .trapW c .loopErr
  else if n = 0 then .jump (if sloop then c.setVl 0 else c) (e + 1) false
  else if 4 ≤ c.regs.loops.length then .trapW c .loopErr
  else
    let len := if sloop then min n vlmax else 0
    let ent : LoopEnt := { sloop := sloop, start := c.regs.pc + 1, fin := e, rem := n, vlmax := vlmax, len := len, strip := 0 }
    let c1 := c.upd fun r => { r with loops := ent :: r.loops }
    .done (if sloop then c1.updCsr fun r => { r with vl := len, strip := 0 } else c1)

/-- R108, R402: LOOP. -/
def execLoop (h : Hdr) (b : FmtL) (s : State) : Host.Outcome State Fault Refusal :=
  runWord (issueL 0x0C h b) (onCtx fun c => loopEnter false (c.getS b.a).toNat 0 b.fin.toNat c) s

/-- R108, R402: LOOP.i. -/
def execLoopI (h : Hdr) (b : FmtL) (s : State) : Host.Outcome State Fault Refusal :=
  runWord (issueL 0x0D h b) (onCtx fun c => loopEnter false b.imm.toNat 0 b.fin.toNat c) s

/-- EW of SLOOP, bits 47:46, to the element width (Table 4-8). -/
def sloopWidth (b : FmtL) : Nat := let ew := (b.imm.extractLsb' 14 2).toNat; if ew = 0 then 32 else if ew = 1 then 16 else 8

/-- R108, R434: SLOOP; VLMAX is VSHAPE.LEN × 32 / w. NO_VSTATE comes first among its causes. -/
def execSloop (h : Hdr) (b : FmtL) (s : State) : Host.Outcome State Fault Refusal :=
  runWord (issueL 0x0E h b)
    (onCtx fun c =>
      if !c.hasV then .trapW c .noVstate
      else loopEnter true (c.getS b.a).toNat (c.len * 32 / sloopWidth b) b.fin.toNat c) s

/-- R441: TRAP raises SWTRAP with INFO0 = IMM20. -/
def execTrap (h : Hdr) (b : FmtY) (s : State) : Host.Outcome State Fault Refusal :=
  runWord (issueY 0x0F h b [] 0) (onCtx fun c => .trap c .swTrap (b.imm.setWidth 64) 0) s

/-- R371: BRK raises BRK with INFO0 = IMM20. -/
def execBrk (h : Hdr) (b : FmtY) (s : State) : Host.Outcome State Fault Refusal :=
  runWord (issueY 0x11 h b [] 0) (onCtx fun c => .trap c .brk (b.imm.setWidth 64) 0) s

/-- R316, R442: TRET; MODE_ERR outside handler state. -/
def tretCtx (c : Ctx) : WR Ctx :=
  if c.regs.handler = .none_ then .trapW c .modeErr else .jump c.trapReturn c.regs.csr.trappc.toNat false

/-- R442: TRET. -/
def execTret (h : Hdr) (b : FmtY) (s : State) : Host.Outcome State Fault Refusal :=
  runWord (issueY 0x10 h b [] 0) (onCtx tretCtx) s

/-- R96: a word that is no instruction is delivered as found: it neither waits nor commits nor allocates. -/
def foundWord (cause : Cause) (w : IWord) (s : State) : Host.Outcome State Fault Refusal :=
  if !s.ctx.runs then .fault .noContext
  else .next (s.updCtx fun c => c.takeTrap cause (wInfo0 w) (wInfo1 w cause c.vstart))

/-- R96: opcode 0x00 or 0xF0 to 0xFF. -/
def execIllegalOp (w : IWord) (s : State) : Host.Outcome State Fault Refusal := foundWord .illegalOp w s

/-- R96: opcode 0xE0 to 0xEF. -/
def execEmulWindow (w : IWord) (s : State) : Host.Outcome State Fault Refusal := foundWord .emulWindow w s

/-- R96: an unassigned opcode outside the window. -/
def execUndefOp (w : IWord) (s : State) : Host.Outcome State Fault Refusal := foundWord .undefOp w s

/-- R96: an assigned opcode with an illegal body, header or tag combination. It has no row of its own; Step raises it. -/
def illegalEncoding (w : IWord) (s : State) : Host.Outcome State Fault Refusal := foundWord .illegalEnc w s

end Sys2Proof.Machine
end

