-- ==== Sys2Proof/Machine/Copy.lean ====
section
/-! DEFINITION. Machine/Copy.lean: COPY and COPYQ (10 R206 to R210, R215; 21 R381 to R383) and the movement of one sector of a copy
(R211 to R214, R216; 13 R267). -/

namespace Sys2Proof.Machine

/-! ### Templates (Table 10-2) -/

abbrev Template := BitVec 512

def Template.srcc (t : Template) : RegNo := (t.extractLsb' 60 4).setWidth 6
def Template.dstc (t : Template) : RegNo := (t.extractLsb' 56 4).setWidth 6
def Template.barc (t : Template) : RegNo := (t.extractLsb' 52 4).setWidth 6
def Template.layout (t : Template) : Nat := getBits t 50 2
def Template.out (t : Template) : Bool := t.getLsbD 49
def Template.bel (t : Template) : Bool := t.getLsbD 48
def Template.mcast (t : Template) : BitVec 16 := t.extractLsb' 32 16
def Template.baroff (t : Template) : Nat := getBits t 0 20
def Template.srcoff (t : Template) : Nat := getBits t 64 48
def Template.dstoff (t : Template) : Nat := getBits t 128 48
def Template.rowB (t : Template) : Nat := getBits t 192 32
def Template.rows (t : Template) : Nat := getBits t 224 32
def Template.srcstr (t : Template) : Nat := getBits t 256 48
def Template.dststr (t : Template) : Nat := getBits t 320 48

/-- Every RSV bit is zero. -/
def Template.rsvOk (t : Template) : Bool :=
  getBits t 20 12 == 0 && getBits t 112 16 == 0 && getBits t 176 16 == 0 && getBits t 304 16 == 0 && getBits t 368 16 == 0 &&
  getBits t 384 128 == 0

/-- Scratchpad side and memory side: register, offset, stride. -/
def Template.scr (t : Template) : RegNo × Nat × Nat := if t.out then (t.srcc, t.srcoff, t.srcstr) else (t.dstc, t.dstoff, t.dststr)
def Template.memSide (t : Template) : RegNo × Nat × Nat := if t.out then (t.dstc, t.dstoff, t.dststr) else (t.srcc, t.srcoff, t.srcstr)

/-- Bytes from the first to the last one of a side with a stride. -/
def Template.extent (t : Template) (stride : Nat) : Nat := (t.rows - 1) * stride + t.rowB

/-- The type of the buffer that a register names. -/
def State.bufType (s : State) (n : RegNo) : BufType := (s.entryFor (.engine s.ctx.launch.uid) (capBuf (s.ctx.getC n).val)).ty

/-- The conditions of R210 that raise COPY_TMPL before the windows are checked. -/
def State.badTemplate (s : State) (t : Template) : Bool :=
  let m := t.scr
  let x := t.memSide
  let g := if t.layout = 0 then 4 else 32
  !t.rsvOk || t.rows == 0 || t.rowB == 0 || t.rowB % 32 != 0 ||
  (decide (1 < t.rows) && (decide (t.srcstr < t.rowB) || decide (t.dststr < t.rowB))) ||
  m.2.1 % 32 != 0 || m.2.2 % 32 != 0 || x.2.1 % g != 0 || x.2.2 % g != 0 ||
  s.bufType m.1 != .scratch || s.bufType x.1 == .scratch ||
  (t.mcast != 0 && t.out) || (List.range 16).any (fun i => t.mcast.getLsbD i && decide (s.ctx.launch.ninst.toNat ≤ i)) ||
  (t.layout != 0 && (t.out || t.rows % tileRows t.layout != 0))

/-! ### COPY (R210) -/

/-- The member that is instance i of the issuer's node; 0 when there is none. -/
def State.instanceUid (s : State) (i : Nat) : Nat :=
  let me := s.ctx.launch
  let is := fun (l : Launch) => l.nid == me.nid && l.inst.toNat == i
  match (s.slots.filter fun p => p.2.bound && is p.2.launch).head? with
  | some p => p.2.launch.uid
  | none => match (s.members.filter fun p => is p.2.launch).head? with
    | some p => p.1
    | none => 0

/-- The members whose allotments a copy writes or reads (R209). -/
def State.copyTargets (s : State) (t : Template) : List Nat :=
  if t.mcast = 0 then [s.ctx.launch.uid] else ((List.range 16).filter fun i => t.mcast.getLsbD i).map s.instanceUid

/-- The copy that a template describes. -/
def State.newCopy (s : State) (t : Template) (idx : Nat) (scope loc : Nat) (bw : Win) : Copy :=
  let c := s.ctx
  let m := t.scr
  let x := t.memSide
  let memv := (c.getC x.1).val
  let targets := s.copyTargets t
  { tmpl := BitVec.ofNat 16 idx, pc := BitVec.ofNat 32 c.regs.pc, serial := c.regs.csr.retired.setWidth 16, region := c.regs.csr.regionno,
    out := t.out, bel := t.bel, layout := t.layout, scope := scope, memBuf := capBuf memv, memOff := capBase memv + x.2.1, memStr := x.2.2,
    memCreg := x.1.setWidth 4, memS := capS memv, scrBuf := capBuf (c.getC m.1).val, scrOff := capBase (c.getC m.1).val + m.2.1, scrStr := m.2.2, rows := t.rows,
    rowB := t.rowB, targets := targets, barLoc := loc, barDie := s.barDie loc, num := s.nextReq, sect := 0, owed := t.rows * (t.rowB / 32) * targets.length,
    started := false, failed := false, paused := none, acks := 0, tiles := [], ask := false, got := [],
    held := none, barBuf := bw.buf, barOff := bw.off, barCreg := bw.creg.setWidth 4, scrCreg := m.1.setWidth 4 }

/-- The offset of channel ch of the context in slot k in the aperture buffer of its VF: 32 bytes a context id, 8 a channel (R207). -/
def apertureOff (k ch : Nat) : Nat := 32 * k + 8 * ch

/-- The store of a copy to an offset of the aperture: it travels to the queue of the channel that lies there, with no check on its way
(R207). -/
def State.apertureStore (s : State) (off : Nat) (p : Copy) : State :=
  let k := off / 32
  let ch := off / 8 % 4
  let x := (s.slot k).chan ch
  let s1 := State.updSlot { s with nextReq := s.nextReq + 1 } k fun c => c.setChan ch { x with copies := x.copies ++ [p] }
  if x.copies = [] then s1.updDie (slotDie k) fun d => { d with ceQueue := d.ceQueue ++ [4 * k + ch] } else s1

/-- The copy joins its channel by the aperture, and its sectors the object's count. -/
def State.queueCopy (s : State) (ch : Nat) (p : Copy) : State :=
  let s1 := s.apertureStore (apertureOff s.cur ch) p
  let o := s1.obj p.barLoc
  s1.setObj p.barLoc (if p.out then o.setOutsect (o.outsect + p.owed) else o.setInsect (o.insect + p.owed))

/-- A trap of COPY after its template: the M layout with the channel and the template's index (R381). -/
def copyTrap (b : FmtY) (i : Nat) (t : Trap) : Trap :=
  { t with i1 := t.i1 ||| BitVec.ofNat 64 (getBits b.imm 0 2 * 2 ^ 32 + i % 2 ^ 16 * 2 ^ 48) }

/-- COPY_TMPL (R381): INFO0 is the template's window offset. -/
def tmplTrap (b : FmtY) (buf : BitVec 20) (i : Nat) : Trap := copyTrap b i (memTrap .copyTmpl buf b.a (64 * i))

/-- R210, from the template on. DEDUCED (log 67): the barrier window is translated here, with the memory port's causes, since the object's count
changes here; R210 names the check of its capability and its type alone. -/
def copyTail (b : FmtY) (w : Win) (t : Template) (s : State) : WR State :=
  let idx := (s.ctx.getS b.b).toNat
  let ch := getBits b.imm 0 2
  let tmpl : WR State := trapOf s (tmplTrap b w.buf idx)
  if s.badTemplate t then tmpl
  else match checkCap s.ctx t.srcc t.srcoff (t.extent t.srcstr) rRead 1 with
    | .error x => trapOf s (copyTrap b idx x)
    | .ok _ => match checkCap s.ctx t.dstc t.dstoff (t.extent t.dststr) rWrite 1 with
      | .error x => trapOf s (copyTrap b idx x)
      | .ok _ => match checkCap s.ctx t.barc t.baroff 16 rSync 16 with
        | .error x => trapOf s (copyTrap b idx x)
        | .ok bw =>
          if s.bufType t.barc ≠ .scratch ∧ s.bufType t.barc ≠ .dieScratch then tmpl
          else match s.translate s.ctx bw 16 rSync .sync with
            | .error (.trap x) => trapOf s (copyTrap b idx x)
            | .error x => stopWord s x
            | .ok (_, l) =>
              let p := s.newCopy t idx b.scope.toNat (l.headD 0) bw
              let full := decide (4 ≤ (s.ctx.chan ch).copies.length) ||
                (s.ctx.recorded p && decide (8 ≤ (s.ctx.copies.filter s.ctx.recorded).length))
              if full || !s.ctx.out.isEmpty then .stall (s.waitAt (.busy 0 []))
              else
                let cnt := if t.out then (s.obj p.barLoc).outsect else (s.obj p.barLoc).insect
                if 2 ^ 32 ≤ cnt + p.owed then tmpl else .done (s.queueCopy ch p)

/-- R210. -/
def copyBody (b : FmtY) (s : State) : WR State :=
  let i := (s.ctx.getS b.b).toNat
  if 65536 ≤ i then trapOf s (tmplTrap b (capBuf (s.ctx.getC b.a).val) i)
  else
    let go := fun (w : Win) (d : Did) =>
      match d with
      | .wait s1 => .stall s1
      | .bad s1 r cause stamp => badWord s1 r cause stamp
      | .got s1 bs => copyTail b w (BitVec.ofNat 512 (numOf bs)) s1
    match checkCap s.ctx b.a (64 * i : Nat) 64 rRead 64 with
    | .error t => trapOf s t
    | .ok w => match s.heard 0 with
      | some d => go w d
      | none => match s.translate s.ctx w 64 rRead .read with
        | .error x => stopWord s x
        | .ok (en, l) => go w (s.doAccess (s.parts AccMode.read w en l 0 []))

/-- R381: COPY. -/
def execCopy (h : Hdr) (b : FmtY) (s : State) : Host.Outcome State Fault Refusal :=
  runWord (issueY 0x69 h b [b.b] 0) (copyBody b) s

/-- R215: the state of a channel. -/
def copyqValue (x : Chan) : Word :=
  BitVec.ofNat 64 (x.copies.length + (if x.fault.isSome then 8 else 0) + (x.copies.foldl (fun n p => n + p.owed) 0) * 2 ^ 32)

/-- R383: COPYQ. -/
def execCopyq (h : Hdr) (b : FmtY) (s : State) : Host.Outcome State Fault Refusal :=
  runWord (issueY 0x6A h b [] b.d) (onCtx fun c => .done (c.setS b.d (copyqValue (c.chan (getBits b.imm 0 2))))) s

/-! ### One sector -/

/-- Where the memory side of a sector lies: its runs, or what stops it. -/
inductive SectorAt where
  | runs (e : Entry) (l : List Run)
  | fault (cause : Cause) (off : Nat)
  | swap (off : Nat)

/-- The memory side of 32 bytes at an offset. A refusal of the issuer's own port is PERM_REMOTE (R216 has no other cause for it). -/
def State.sectorAt (s : State) (c : Ctx) (p : Copy) (off : Nat) : SectorAt :=
  let w : Win := ⟨p.memBuf, off, p.memS, p.memCreg.setWidth 6⟩
  match s.translateBy (.engine c.launch.uid) c w 32 (if p.out then rWrite else rRead) (if p.out then .write else .read) with
  | .ok (e, l) => .runs e (runsOf (if e.ty = .diagnostic then 32 else 128) (l.zip (countFrom off 32)))
  | .error (.swap _ o) => .swap o
  | .error (.trap t) => .fault (if t.cause = .page then .page else .permRemote) (if t.cause = .page then t.i0.toNat else off)

/-- The request of a copy channel on a run. -/
def State.copyReq (s : State) (k ch : Nat) (c : Ctx) (p : Copy) (en : Entry) (data : List Byte) (r : Run) : Req :=
  { id := 0, slot := k, ch := ch + 1, uid := c.launch.uid, src := slotDie k, dst := homeDie r.loc, opc := if p.out then 2 else 1,
    bel := p.out && p.bel, seq := 0, serial := p.serial, pc := p.pc, buf := p.memBuf, off := BitVec.ofNat 48 r.off, creg := p.memCreg,
    loc := r.loc, size := r.n, data := data, aop := 0, opnd := 0, cmp := 0, chk := en.chk, marked := false, far := false,
    region := p.region, fill := false, noCopy := noCopyOn (slotDie k) r.loc, vf := c.launch.vf, part := c.launch.part,
    key := s.byteTag en p.memBuf r.loc r.off, need := if p.out then rWrite else rRead, s := p.memS, blk := false, out := 0, stale := false, vec := false, bar := none, passed := false, wide := false, e := 0, tries := 0,
    sent := 0, limit := c.regs.csr.acktimeout.toNat * 850 }

/-- A request of the channel is at a home, or at a base die. -/
def State.copyAsked (s : State) (k ch : Nat) : Bool :=
  (match s.activeCopy k ch with | some p => p.ask | none => false) || s.reqs.any fun r => r.slot == k && r.ch == ch + 1

/-- A read of a run at its home on the channel's die, which may have to come from its stack first. -/
def State.copyReadHome (s : State) (k ch : Nat) (r : Req) : State :=
  if s.lineHeld (lineOf r.loc) then s
  else if !s.lineHere r.loc then s.localReq r
  else
    match (if r.chk then s.raceTest r.loc r.size (s.raceOf r) else none) with
    | some (cause, stamp) => s.copyFault k ch cause r.buf r.off.toNat stamp
    | none =>
      let s1 := if r.chk then s.raceUpdate r.loc r.size (s.raceOf r) else s
      if s1.poisonedIn r.loc r.size then s1.copyFault k ch .none_ r.buf r.off.toNat 0
      else (s1.hostFill r).copyBytes k ch (s1.dieBytes r.loc r.size)

/-- A read of a run homed elsewhere: by the die's copy, or a request. -/
def State.copyReadAway (s : State) (k ch : Nat) (r : Req) : State :=
  let copy : Option (List Byte) := if r.chk || r.noCopy then none else tabFind (lineOf r.loc) (s.die r.src).copies
  match s.inFlight r.src (lineOf r.loc) with
  | some w =>
    if w.opc = 2 ∧ w.bel = false ∧ (s.die r.src).heldInv.contains (lineOf r.loc) = false then
      match copy with
      | some l => s.copyBytes k ch (r.inLine l)
      | none => s
    else s
  | none =>
    match copy with
    | some l => s.copyBytes k ch (r.inLine l)
    | none =>
      if s.tooMany k (ch + 1) then s
      else
        let q := s.numberReq { r with fill := !r.chk && !r.noCopy }
        q.2.sendReq q.1

/-- A store of a run (R211). last marks the run that ends its sector: it is counted at the answer when atAck holds, else now. -/
def State.copyWrite (s : State) (k ch : Nat) (r : Req) (last atAck : Bool) : State :=
  let r1 := { r with e := if last && atAck then 1 else 0 }
  let mark := fun (s : State) => s.updCopy k ch fun p =>
    { p with acks := p.acks + 1, sect := if last then p.sect + 1 else p.sect, got := if last then [] else p.got ++ r.data }
  let count := fun (s : State) => if last && !atAck then s.copyCount k ch 1 else s
  if r.dst = r.src then
    if (s.openTxn (lineOf r.loc)).isSome || s.storeBars r then s else (count (mark (s.l1dDrop k (lineOf r.loc)))).localReq r1
  else if (s.inFlight r.src (lineOf r.loc)).isSome || s.tooMany k (ch + 1) || (!r.bel && s.storeBars r) then s
  else
    let s1 := mark (s.l1dDrop k (lineOf r.loc))
    let s2 := if r.bel then s1 else s1.patchCopy r.src r.loc r.data
    let q := s2.numberReq r1
    count (q.2.sendReq q.1)

/-- The next run of a sector: the one that the bytes already moved do not cover. -/
def nextRun (n : Nat) (l : List Run) : Option (Run × Bool) :=
  match l with
  | [] => none
  | r :: t => if r.n ≤ n then nextRun (n - r.n) t else some (r, t.isEmpty)

/-- The bytes of the scratchpad that an outbound copy sends; none beyond the allotment. -/
def State.copySource (s : State) (c : Ctx) (p : Copy) : Option (List Byte) :=
  if c.scrBytes < p.scrAt p.sect + 32 then none else some (memBytes s.mem (locScratch c.launch.uid (p.scrAt p.sect)) 32)

/-- A read of a run for the copy, which uses its translation (R241). -/
def State.copyRead (s0 : State) (k ch : Nat) (p : Copy) (en : Entry) (r : Run) : State :=
  let s := if en.paged then s0.usePort (slotDie k) p.memBuf else s0
  let q := s.copyReq k ch (s.slot k) p en [] r
  if en.ty = .diagnostic then
    if s.homeRefuses q then (s.countRefusal q.dst q.part q.buf).copyFault k ch .permRemote p.memBuf r.off 0
    else
      (s.updCopy k ch fun p => { p with ask := true }).bdSend
        (bdRequest 6 (r.loc / 32 * 32) 0 0 p.memBuf (r.off - r.loc % 32) (.copy k ch q.uid p.num r.loc r.n))
  else if q.dst = q.src then s.copyReadHome k ch q else s.copyReadAway k ch q

/-- The memory side of 32 bytes at an offset for the channel, n of them already moved: its runs, or the fault or the pause that it brings (R216).
A sector of several runs keeps the translation it began with (R249). -/
def State.atSector (s : State) (k ch : Nat) (p : Copy) (off n : Nat) (f : State → Entry → List Run → State) : State :=
  match (if n = 0 then none else p.held) with
  | some x => f s x.1 x.2
  | none =>
    match s.sectorAt (s.slot k) p off with
    | .fault cause o => s.copyFault k ch cause p.memBuf o 0
    | .swap o => s.updCopy k ch fun p => { p with paused := some (p.memBuf, o) }
    | .runs en l => f (if l.length ≤ 1 then s else s.updCopy k ch fun p => { p with held := some (en, l) }) en l

/-- The sector of an untransposed copy. -/
def State.plainSector (s : State) (k ch : Nat) (p : Copy) : State :=
  s.atSector k ch p (p.memAt p.sect) p.got.length fun s en l =>
    match nextRun p.got.length l with
    | none => s
    | some (r, last) =>
      if p.out then
        match s.copySource (s.slot k) p with
        | none => s.copyFault k ch .permRemote p.scrBuf (p.scrAt p.sect) 0
        | some data =>
          if p.got ≠ [] ∧ s.copyAsked k ch = true then s
          else
            let q := s.copyReq k ch (s.slot k) p en ((data.drop p.got.length).take r.n) r
            s.copyWrite k ch q last (p.bel || en.chk || q.noCopy || decide (3 ≤ p.scope))
      else if s.copyAsked k ch then s
      else s.copyRead k ch p en r

/-! ### Tiles (R213, R267) -/

/-- The source sectors of the tile that holds destination sector i, as offsets in row order. -/
def Copy.tileOffs (p : Copy) (i : Nat) : List Nat :=
  let t := tileRows p.layout
  let r0 := i / p.cols / t * t
  (List.range t).map fun r => p.memOff + (r0 + r) * p.memStr + i % p.cols * 32

/-- The place of the tile of destination sector i in its band of rows. -/
def Copy.tileNo (p : Copy) (i : Nat) : Nat := i % p.cols

/-- The rows of a tile, as runs with their entry, or none where one is not resident, faults or takes more than one run. -/
def State.tileRuns (s : State) (k : Nat) (p : Copy) : List Nat → Option (List (Entry × Run))
  | [] => some []
  | off :: l =>
    match s.sectorAt (s.slot k) p off with
    | .runs en [r] => (s.tileRuns k p l).map fun t => (en, r) :: t
    | _ => none

/-- One tile read of the base die serves the rows: they lie on one stack. -/
def oneStack (rows : List (Entry × Run)) : Bool :=
  match rows with
  | [] => false
  | x :: _ => rows.all fun y => y.1.ty == .global && locKind y.2.loc == .dram && paStack y.2.loc == paStack x.2.loc

/-- The tile read sent, once each row's home has checked it (R240, R160) and has written back the line's dirty data (R267). A row whose line is
held, or that a store of the die on its way to the home may still change, waits (R214). -/
def State.tileSend (s0 : State) (k ch : Nat) (p : Copy) (rows : List (Entry × Run)) : State :=
  let s := s0.usePort (slotDie k) p.memBuf
  let reqs := rows.map fun x => s.copyReq k ch (s.slot k) p x.1 [] x.2
  match reqs.find? s.homeRefuses with
  | some q => (s.countRefusal q.dst q.part q.buf).copyFault k ch .permRemote q.buf q.off.toNat 0
  | none =>
    if reqs.any fun q => (s.openTxn (lineOf q.loc)).isSome || (s.inFlight q.src (lineOf q.loc)).isSome then s
    else
      match reqs.findSome? fun q => if q.chk then (s.raceTest q.loc q.size (s.raceOf q)).map fun x => (q, x) else none with
      | some (q, cause, stamp) => s.copyFault k ch cause q.buf q.off.toNat stamp
      | none =>
        let s1 := reqs.foldl (fun s q => if q.chk then s.raceUpdate q.loc q.size (s.raceOf q) else s) s
        let s2 := reqs.foldl (fun s q => s.lineClean (lineOf q.loc)) s1
        match rows with
        | [] => s2
        | x :: _ =>
          let r := bdRequest 5 x.2.loc 0 (BitVec.ofNat 7 x.1.key) p.memBuf x.2.off (.tile k ch (s.slot k).launch.uid p.num)
          (s2.updCopy k ch fun p => { p with ask := true }).bdSend
            { r with layout := p.layout, rows := rows.map fun y => (y.2.loc, y.2.off) }

/-- The sector of a copy with LAYOUT ≠ 0: written from its tile, once that has been read by the base die or by ordinary reads of its rows. -/
def State.tileSector (s : State) (k ch : Nat) (p : Copy) : State :=
  let offs := p.tileOffs p.sect
  match p.tiles[p.tileNo p.sect]? with
  | some t => s.copyLand k ch ((t.drop (32 * (p.sect / p.cols % tileRows p.layout))).take 32)
  | none =>
    if s.copyAsked k ch then s
    else match (if p.got = [] then s.tileRuns k p offs else none) with
      | some rows =>
        if oneStack rows then s.tileSend k ch p rows
        else match rows with
          | x :: _ => s.copyRead k ch p x.1 x.2
          | [] => s
      | none =>
        let off := nthD 0 (if p.got = [] then (offs.filter fun o => match s.sectorAt (s.slot k) p o with | .runs _ _ => false | _ => true) ++ offs
          else offs.drop (p.got.length / 32)) 0
        s.atSector k ch p off (p.got.length % 32) fun s en l =>
          match nextRun (p.got.length % 32) l with
          | some (r, _) => s.copyRead k ch p en r
          | none => s

/-- COPY_SECTOR (R211): the active copy of a channel moves on, unless it is not started, paused or ended. -/
def State.copySector (s : State) (k ch : Nat) : State :=
  match s.activeCopy k ch with
  | none => s
  | some p =>
    if !p.started || p.failed || p.paused.isSome || decide (p.sectors ≤ p.sect) then s
    else if p.layout = 0 then s.plainSector k ch p else s.tileSector k ch p

/-- COPY_SECTOR (R211). -/
def execCopySector (k ch : Nat) (s : State) : Host.Outcome State Fault Refusal := .next (s.copySector k ch)

end Sys2Proof.Machine
end

