-- ==== Sys2Proof/Machine/Scalar.lean ====
section
/-! DEFINITION. Machine/Scalar.lean: the scalar arithmetic words (R352, R353, R360, R379, R380, R389, R400, R404, R417, R421,
R423, R426, R429, R430, R433, R440, R477). None raises a flag or a cause of its own. -/

namespace Sys2Proof.Machine

/-- A register form: s[D] = f(s[A], s[B]). -/
def binA (f : Word → Word → Word) (b : FmtA) (c : Ctx) : WR Ctx := .done (c.setS b.d (f (c.getS b.a) (c.getS b.b)))

/-- An immediate form: s[D] = f(s[A], sext(IMM32)) (R87). -/
def binB (f : Word → Word → Word) (b : FmtB) (c : Ctx) : WR Ctx := .done (c.setS b.d (f (c.getS b.a) (b.imm.signExtend 64)))

/-- R417: bits 127:64 of the signed product. -/
def mulHigh (x y : Word) : Word := ((x.signExtend 128 * y.signExtend 128).extractLsb' 64 64)

/-- R389: the quotient truncated toward zero; all ones for a divisor of zero; −2^63 / −1 wraps. -/
def divWord (x y : Word) : Word := if y = 0 then BitVec.allOnes 64 else x.sdiv y

/-- R426: the remainder of divWord. -/
def remWord (x y : Word) : Word := x - divWord x y * y

/-- R433: the count is bits 5:0 of the second operand. -/
def shlWord (x y : Word) : Word := x <<< (y.toNat % 64)
def shrWord (x y : Word) : Word := x >>> (y.toNat % 64)
def sarWord (x y : Word) : Word := x.sshiftRight (y.toNat % 64)

/-- R404. -/
def maxWord (x y : Word) : Word := if x.slt y then y else x
def minWord (x y : Word) : Word := if y.slt x then y else x

/-- R429: by s[B] mod 64 places. -/
def rotlWord (x y : Word) : Word := x.rotateLeft (y.toNat % 64)
def rotrWord (x y : Word) : Word := x.rotateRight (y.toNat % 64)

/-- Leading zero bits of a w-bit number. -/
def clzNat (w v : Nat) : Nat := w - bitLen v

/-- Number of 1 bits among the low w bits of v. -/
def popNat : Nat → Nat → Nat
  | 0, _ => 0
  | w + 1, v => v % 2 + popNat w (v / 2)

/-- R380: 1 when the condition holds, 0 otherwise. -/
def cmpWord (cond : BitVec 4) (x y : Word) : Word := if condHolds cond x y then 1 else 0

/-- R352: ADD. -/
def execAdd (h : Hdr) (b : FmtA) (s : State) : Host.Outcome State Fault Refusal :=
  runWord (issueA 0x20 h b) (onCtx (binA (· + ·) b)) s

/-- R440: SUB. -/
def execSub (h : Hdr) (b : FmtA) (s : State) : Host.Outcome State Fault Refusal :=
  runWord (issueA 0x22 h b) (onCtx (binA (· - ·) b)) s

/-- R417: MUL. -/
def execMul (h : Hdr) (b : FmtA) (s : State) : Host.Outcome State Fault Refusal :=
  runWord (issueA 0x23 h b) (onCtx (binA (· * ·) b)) s

/-- R417: MULH. -/
def execMulh (h : Hdr) (b : FmtA) (s : State) : Host.Outcome State Fault Refusal :=
  runWord (issueA 0x25 h b) (onCtx (binA mulHigh b)) s

/-- R389: DIV. -/
def execDiv (h : Hdr) (b : FmtA) (s : State) : Host.Outcome State Fault Refusal :=
  runWord (issueA 0x26 h b) (onCtx (binA divWord b)) s

/-- R426: REM. -/
def execRem (h : Hdr) (b : FmtA) (s : State) : Host.Outcome State Fault Refusal :=
  runWord (issueA 0x27 h b) (onCtx (binA remWord b)) s

/-- R360: AND. -/
def execAnd (h : Hdr) (b : FmtA) (s : State) : Host.Outcome State Fault Refusal :=
  runWord (issueA 0x28 h b) (onCtx (binA (· &&& ·) b)) s

/-- R421: OR. -/
def execOr (h : Hdr) (b : FmtA) (s : State) : Host.Outcome State Fault Refusal :=
  runWord (issueA 0x2A h b) (onCtx (binA (· ||| ·) b)) s

/-- R477: XOR. -/
def execXor (h : Hdr) (b : FmtA) (s : State) : Host.Outcome State Fault Refusal :=
  runWord (issueA 0x2C h b) (onCtx (binA (· ^^^ ·) b)) s

/-- R433: SHL. -/
def execShl (h : Hdr) (b : FmtA) (s : State) : Host.Outcome State Fault Refusal :=
  runWord (issueA 0x2E h b) (onCtx (binA shlWord b)) s

/-- R433: SHR. -/
def execShr (h : Hdr) (b : FmtA) (s : State) : Host.Outcome State Fault Refusal :=
  runWord (issueA 0x30 h b) (onCtx (binA shrWord b)) s

/-- R433: SAR. -/
def execSar (h : Hdr) (b : FmtA) (s : State) : Host.Outcome State Fault Refusal :=
  runWord (issueA 0x32 h b) (onCtx (binA sarWord b)) s

/-- R404: MIN. -/
def execMin (h : Hdr) (b : FmtA) (s : State) : Host.Outcome State Fault Refusal :=
  runWord (issueA 0x3B h b) (onCtx (binA minWord b)) s

/-- R404: MAX. -/
def execMax (h : Hdr) (b : FmtA) (s : State) : Host.Outcome State Fault Refusal :=
  runWord (issueA 0x3C h b) (onCtx (binA maxWord b)) s

/-- R429: ROTL. -/
def execRotl (h : Hdr) (b : FmtA) (s : State) : Host.Outcome State Fault Refusal :=
  runWord (issueA 0x3D h b) (onCtx (binA rotlWord b)) s

/-- R429: ROTR. -/
def execRotr (h : Hdr) (b : FmtA) (s : State) : Host.Outcome State Fault Refusal :=
  runWord (issueA 0x3E h b) (onCtx (binA rotrWord b)) s

/-- R352: ADD.i. -/
def execAddI (h : Hdr) (b : FmtB) (s : State) : Host.Outcome State Fault Refusal :=
  runWord (issueB 0x21 h b) (onCtx (binB (· + ·) b)) s

/-- R417: MUL.i. -/
def execMulI (h : Hdr) (b : FmtB) (s : State) : Host.Outcome State Fault Refusal :=
  runWord (issueB 0x24 h b) (onCtx (binB (· * ·) b)) s

/-- R360: AND.i. -/
def execAndI (h : Hdr) (b : FmtB) (s : State) : Host.Outcome State Fault Refusal :=
  runWord (issueB 0x29 h b) (onCtx (binB (· &&& ·) b)) s

/-- R421: OR.i. -/
def execOrI (h : Hdr) (b : FmtB) (s : State) : Host.Outcome State Fault Refusal :=
  runWord (issueB 0x2B h b) (onCtx (binB (· ||| ·) b)) s

/-- R477: XOR.i. -/
def execXorI (h : Hdr) (b : FmtB) (s : State) : Host.Outcome State Fault Refusal :=
  runWord (issueB 0x2D h b) (onCtx (binB (· ^^^ ·) b)) s

/-- R433: SHL.i. -/
def execShlI (h : Hdr) (b : FmtB) (s : State) : Host.Outcome State Fault Refusal :=
  runWord (issueB 0x2F h b) (onCtx (binB shlWord b)) s

/-- R433: SHR.i. -/
def execShrI (h : Hdr) (b : FmtB) (s : State) : Host.Outcome State Fault Refusal :=
  runWord (issueB 0x31 h b) (onCtx (binB shrWord b)) s

/-- R433: SAR.i. -/
def execSarI (h : Hdr) (b : FmtB) (s : State) : Host.Outcome State Fault Refusal :=
  runWord (issueB 0x33 h b) (onCtx (binB sarWord b)) s

/-- R380: CMP. -/
def execCmp (h : Hdr) (b : FmtA) (s : State) : Host.Outcome State Fault Refusal :=
  runWord (issueA 0x34 h b) (onCtx (binA (cmpWord b.cond) b)) s

/-- R380: CMP.i. -/
def execCmpI (h : Hdr) (b : FmtB) (s : State) : Host.Outcome State Fault Refusal :=
  runWord (issueB 0x35 h b) (onCtx (binB (cmpWord b.cond) b)) s

/-- R430: SEL tests all 64 bits of s[E]. -/
def selCtx (b : FmtA) (c : Ctx) : WR Ctx := .done (c.setS b.d (if c.getS b.e = 0 then c.getS b.b else c.getS b.a))

/-- R430: SEL. -/
def execSel (h : Hdr) (b : FmtA) (s : State) : Host.Outcome State Fault Refusal :=
  runWord (issueA 0x36 h b) (onCtx (selCtx b)) s

/-- R400: LI writes sext(IMM48). -/
def liCtx (b : FmtK) (c : Ctx) : WR Ctx := .done (c.setS b.d (b.imm.signExtend 64))

/-- R400: LIH writes IMM48[15:0] to D[63:48] and keeps D[47:0]. -/
def lihCtx (b : FmtK) (c : Ctx) : WR Ctx :=
  .done (c.setS b.d (b.imm.extractLsb' 0 16 ++ (c.getS b.d).extractLsb' 0 48))

/-- R400: LI. -/
def execLi (h : Hdr) (b : FmtK) (s : State) : Host.Outcome State Fault Refusal :=
  runWord (issueK 0x37 h b) (onCtx (liCtx b)) s

/-- R400: LIH. -/
def execLih (h : Hdr) (b : FmtK) (s : State) : Host.Outcome State Fault Refusal :=
  runWord (issueK 0x38 h b) (onCtx (lihCtx b)) s

/-- A unary form: s[D] = f(s[A]). -/
def unA (f : Word → Word) (b : FmtA) (c : Ctx) : WR Ctx := .done (c.setS b.d (f (c.getS b.a)))

/-- R379: CLZ. -/
def execClz (h : Hdr) (b : FmtA) (s : State) : Host.Outcome State Fault Refusal :=
  runWord (issueA 0x39 h b) (onCtx (unA (fun x => BitVec.ofNat 64 (clzNat 64 x.toNat)) b)) s

/-- R423: POPC. -/
def execPopc (h : Hdr) (b : FmtA) (s : State) : Host.Outcome State Fault Refusal :=
  runWord (issueA 0x3A h b) (onCtx (unA (fun x => BitVec.ofNat 64 (popNat 64 x.toNat)) b)) s

end Sys2Proof.Machine
end

