-- ==== Sys2Proof/Machine/VecArith.lean ====
section
/-! DEFINITION. Machine/VecArith.lean: the element-wise vector words (R98, R443, R444, R452, R460, R461, R466), VCMP (R447),
VCVT (R449), VSPLAT (R469), VIOTA (R454), and the sums VRED, VSCAN (R465) and VDOT (R450). -/

namespace Sys2Proof.Machine

/-! ### The element loop (R97, R113) -/

/-- Elements lo to hi − 1 of width w: an active element receives its result and gives its flags; a masked-off element is left, or
is zeroed when mz holds (R97). -/
def laneLoop (m : BitVec 8192) (mz : Bool) (w lo hi : Nat) (f : Nat → Nat × Flags) (d : BitVec 65536) : BitVec 65536 × Flags :=
  (List.range (hi - lo)).foldl
    (fun a j =>
      if m.getLsbD (lo + j) then (setBits a.1 ((lo + j) * w) w (f (lo + j)).1, a.2 ||| (f (lo + j)).2)
      else if mz then (setBits a.1 ((lo + j) * w) w 0, a.2) else a)
    (d, fNone)

/-- The element loop of a word on v[VD], from VSTART to VL − 1, with result type t; VSTART becomes 0 and the flags reach VFLAGS
(R68, R97). -/
def Ctx.laneWrite (c : Ctx) (b : FmtV) (t : Ety) (f : Nat → Nat × Flags) : Ctx :=
  let v := c.getV b.vd.toNat
  let r := laneLoop (c.getM b.mask.toNat) (b.mz == 1) t.width c.vstart c.vl f v.data
  ((c.setV b.vd.toNat { v with ty := t, data := r.1 }).setVstart 0).orFlags r.2

/-- The frame of R98: TYPE unless VA's tag is accepted and every other vector source carries it; VL_RANGE; the loop. -/
def vecFrame (ok : Ety → Bool) (srcs : List (BitVec 6)) (b : FmtV) (f : Ctx → Ety → Nat → Nat × Flags) (c : Ctx) : WR Ctx :=
  let t := (c.getV b.va.toNat).ty
  if !ok t || srcs.any (fun r => (c.getV r.toNat).ty != t) then .trapW c .type_
  else if c.capacity t < c.vl then .trapW c .vlRange
  else .done (c.laneWrite b t (f c t))

/-! ### Operands -/

/-- The bits of element i of VA. -/
def laneX (b : FmtV) (c : Ctx) (t : Ety) (i : Nat) : Nat := (c.getV b.va.toNat).elem t.width i

/-- The bits of the second operand: element i of v[VB], or bits w − 1:0 of s[VB] in a .vs form (R443). -/
def laneY (vs : Bool) (b : FmtV) (c : Ctx) (t : Ety) (i : Nat) : Nat :=
  if vs then (c.getS b.vb).toNat % 2 ^ t.width else (c.getV b.vb.toNat).elem t.width i

/-- The bits of element i of VC. -/
def laneZ (b : FmtV) (c : Ctx) (t : Ety) (i : Nat) : Nat := (c.getV b.vc.toNat).elem t.width i

/-- Rounding of a floating result by RM, SAT and FTZO, with the flags of the operation (R98). -/
def laneRound (b : FmtV) (t : Ety) (r : Exact × Flags) : Nat × Flags :=
  let q := roundTo t (Rounding.ofRM b.rm) (b.sat == 1) (b.ftzo == 1) none r.1
  (q.1, r.2 ||| q.2)

/-- A floating operand, with FTZI (R67). -/
def laneF (b : FmtV) (t : Ety) (bits : Nat) : Exact := elemValue t (b.ftzi == 1) bits

/-- Floating and integer meanings of a two-operand word: on exact values under a rounding, and on a width, SAT and two signed
integers. -/
structure BinOp where
  fl  : Rounding → Exact → Exact → Exact × Flags
  int : Nat → Bool → Int → Int → Nat

/-- Element i of a two-operand word. -/
def BinOp.lane (o : BinOp) (vs : Bool) (b : FmtV) (c : Ctx) (t : Ety) (i : Nat) : Nat × Flags :=
  let x := laneX b c t i
  let y := laneY vs b c t i
  if t.isInt then (o.int t.width (b.sat == 1) (sintOf t.width x) (sintOf t.width y), fNone)
  else laneRound b t (o.fl (Rounding.ofRM b.rm) (laneF b t x) (laneF b t y))

/-- Element i of a one-operand word. -/
def unLane (fl : Exact → Exact × Flags) (int : Nat → Bool → Int → Nat) (b : FmtV) (c : Ctx) (t : Ety) (i : Nat) : Nat × Flags :=
  let x := laneX b c t i
  if t.isInt then (int t.width (b.sat == 1) (sintOf t.width x), fNone) else laneRound b t (fl (laneF b t x))

/-- Element i of a fused word on exact values and on integers (R452). -/
def fusedLane (fl : Rounding → Exact → Exact → Exact → Exact × Flags) (int : Int → Int → Int → Int) (vs : Bool) (b : FmtV) (c : Ctx)
    (t : Ety) (i : Nat) : Nat × Flags :=
  let x := laneX b c t i
  let y := laneY vs b c t i
  let z := laneZ b c t i
  if t.isInt then
    (intResult t.width (b.sat == 1) (int (sintOf t.width x) (sintOf t.width y) (sintOf t.width z)), fNone)
  else laneRound b t (fl (Rounding.ofRM b.rm) (laneF b t x) (laneF b t y) (laneF b t z))

/-- Element i of a word on bits alone. -/
def bitLane (f : Nat → Nat → Nat → Nat) (vs : Bool) (b : FmtV) (c : Ctx) (t : Ety) (i : Nat) : Nat × Flags :=
  (f t.width (laneX b c t i) (laneY vs b c t i), fNone)

/-! ### The operations (Tables 23-1 and 24-1, R444, R452, R461) -/

def opAdd : BinOp := ⟨fun rd x y => x.add rd y, fun w sat x y => intResult w sat (x + y)⟩
def opSub : BinOp := ⟨fun rd x y => x.add rd y.neg, fun w sat x y => intResult w sat (x - y)⟩
def opMul : BinOp := ⟨fun _ x y => x.mul y, fun w sat x y => intResult w sat (x * y)⟩

/-- VDIV: an integer divisor of zero gives all ones, whatever SAT holds (R444). -/
def opDiv : BinOp :=
  ⟨fun _ x y => x.div y, fun w sat x y => if y = 0 then 2 ^ w - 1 else intResult w sat (x.tdiv y)⟩

/-- VMAX: −0 below +0; a NaN in either operand gives NaN with no flag (R461). -/
def opMax : BinOp :=
  ⟨fun _ x y =>
    (match x.cmp y with
     | none => .nan
     | some .lt => y
     | some .gt => x
     | some .eq => if x.isNeg then y else x, fNone),
   fun w _ x y => bitsOfInt w (if x < y then y else x)⟩

/-- VMIN. -/
def opMin : BinOp :=
  ⟨fun _ x y =>
    (match x.cmp y with
     | none => .nan
     | some .lt => x
     | some .gt => y
     | some .eq => if x.isNeg then x else y, fNone),
   fun w _ x y => bitsOfInt w (if y < x then y else x)⟩

/-- VCLAMP: a NaN bound limits nothing; an integer bound saturates (R444). -/
def opClamp : BinOp :=
  ⟨fun _ x y =>
    (match x.abs.cmp y.abs with
     | some .gt => if x.isNeg then y.abs.neg else y.abs
     | _ => x, fNone),
   fun w _ x y =>
    let b : Int := if y.natAbs ≤ 2 ^ (w - 1) - 1 then (y.natAbs : Int) else ((2 ^ (w - 1) - 1 : Nat) : Int)
    bitsOfInt w (if b < x then b else if x < -b then -b else x)⟩

/-- VFMA, VFMS, VFNMA (R452). -/
def flFma (rd : Rounding) (x y z : Exact) : Exact × Flags := Exact.fma rd x y z
def flFms (rd : Rounding) (x y z : Exact) : Exact × Flags := Exact.fma rd x y z.neg
def flFnma (rd : Rounding) (x y z : Exact) : Exact × Flags := Exact.fma rd x.neg y z

/-- The shift count, y mod w (Table 24-1). -/
def shiftCount (w : Nat) (y : Int) : Nat := (y % (w : Int)).toNat

def intShl (w : Nat) (sat : Bool) (x y : Int) : Nat := intResult w sat (x * 2 ^ shiftCount w y)
def intShr (w : Nat) (_ : Bool) (x y : Int) : Nat := bitsOfInt w x / 2 ^ shiftCount w y
def intShra (w : Nat) (_ : Bool) (x y : Int) : Nat := bitsOfInt w (x / 2 ^ shiftCount w y)

/-- VMULH: bits 2w − 1:w of the signed product. -/
def intMulh (w : Nat) (_ : Bool) (x y : Int) : Nat := bitsOfInt w (x * y / 2 ^ w)

/-- The words on integer tags only. -/
def intOp (f : Nat → Bool → Int → Int → Nat) : BinOp := ⟨fun _ x _ => (x, fNone), f⟩

/-- The vector registers of a two-operand word. -/
def regsVV (vs : Bool) (b : FmtV) : List (BitVec 6) := if vs then [b.vd, b.va] else [b.vd, b.va, b.vb]
def regsVVV (vs : Bool) (b : FmtV) : List (BitVec 6) := if vs then [b.vd, b.va, b.vc] else [b.vd, b.va, b.vb, b.vc]

/-- The s register of a .vs form (R443). -/
def readsVs (vs : Bool) (b : FmtV) : List RegNo := if vs then [b.vb] else []

/-- The issue and the frame of a two-operand word. -/
def binWord (op : BitVec 8) (ok : Ety → Bool) (lane : FmtV → Ctx → Ety → Nat → Nat × Flags) (vs : Bool) (h : Hdr) (b : FmtV)
    (s : State) : Host.Outcome State Fault Refusal :=
  runWord (issueV op h b (readsVs vs b) 0 (regsVV vs b) .lane)
    (onCtx (vecFrame ok (if vs then [] else [b.vb]) b (lane b))) s

/-- The issue and the frame of a fused word. -/
def fusedWord (op : BitVec 8) (fl : Rounding → Exact → Exact → Exact → Exact × Flags) (int : Int → Int → Int → Int) (vs : Bool)
    (h : Hdr) (b : FmtV) (s : State) : Host.Outcome State Fault Refusal :=
  runWord (issueV op h b (readsVs vs b) 0 (regsVVV vs b) .lane)
    (onCtx (vecFrame Ety.isPlain (if vs then [b.vc] else [b.vb, b.vc]) b (fusedLane fl int vs b))) s

/-- The issue and the frame of a one-operand word. -/
def unWord (op : BitVec 8) (ok : Ety → Bool) (lane : FmtV → Ctx → Ety → Nat → Nat × Flags) (h : Hdr) (b : FmtV) (s : State) :
    Host.Outcome State Fault Refusal :=
  runWord (issueV op h b [] 0 [b.vd, b.va] .lane) (onCtx (vecFrame ok [] b (lane b))) s

/-- R443: VADD. -/
def execVadd (h : Hdr) (b : FmtV) (s : State) : Host.Outcome State Fault Refusal :=
  binWord 0x80 Ety.isPlain (BinOp.lane opAdd false) false h b s

/-- R443: VADD.vs. -/
def execVaddVs (h : Hdr) (b : FmtV) (s : State) : Host.Outcome State Fault Refusal :=
  binWord 0x81 Ety.isPlain (BinOp.lane opAdd true) true h b s

/-- R460: VSUB. -/
def execVsub (h : Hdr) (b : FmtV) (s : State) : Host.Outcome State Fault Refusal :=
  binWord 0x82 Ety.isPlain (BinOp.lane opSub false) false h b s

/-- R460: VSUB.vs. -/
def execVsubVs (h : Hdr) (b : FmtV) (s : State) : Host.Outcome State Fault Refusal :=
  binWord 0x83 Ety.isPlain (BinOp.lane opSub true) true h b s

/-- R460: VMUL. -/
def execVmul (h : Hdr) (b : FmtV) (s : State) : Host.Outcome State Fault Refusal :=
  binWord 0x84 Ety.isPlain (BinOp.lane opMul false) false h b s

/-- R460: VMUL.vs. -/
def execVmulVs (h : Hdr) (b : FmtV) (s : State) : Host.Outcome State Fault Refusal :=
  binWord 0x85 Ety.isPlain (BinOp.lane opMul true) true h b s

/-- R452: VFMA. -/
def execVfma (h : Hdr) (b : FmtV) (s : State) : Host.Outcome State Fault Refusal :=
  fusedWord 0x86 flFma (fun x y z => x * y + z) false h b s

/-- R452: VFMA.vs. -/
def execVfmaVs (h : Hdr) (b : FmtV) (s : State) : Host.Outcome State Fault Refusal :=
  fusedWord 0x87 flFma (fun x y z => x * y + z) true h b s

/-- R452: VFMS. -/
def execVfms (h : Hdr) (b : FmtV) (s : State) : Host.Outcome State Fault Refusal :=
  fusedWord 0x88 flFms (fun x y z => x * y - z) false h b s

/-- R452: VFMS.vs. -/
def execVfmsVs (h : Hdr) (b : FmtV) (s : State) : Host.Outcome State Fault Refusal :=
  fusedWord 0x89 flFms (fun x y z => x * y - z) true h b s

/-- R452: VFNMA. -/
def execVfnma (h : Hdr) (b : FmtV) (s : State) : Host.Outcome State Fault Refusal :=
  fusedWord 0x8A flFnma (fun x y z => z - x * y) false h b s

/-- R452: VFNMA.vs. -/
def execVfnmaVs (h : Hdr) (b : FmtV) (s : State) : Host.Outcome State Fault Refusal :=
  fusedWord 0x8B flFnma (fun x y z => z - x * y) true h b s

/-- R443: VDIV. -/
def execVdiv (h : Hdr) (b : FmtV) (s : State) : Host.Outcome State Fault Refusal :=
  binWord 0x8C Ety.isPlain (BinOp.lane opDiv false) false h b s

/-- R443: VDIV.vs. -/
def execVdivVs (h : Hdr) (b : FmtV) (s : State) : Host.Outcome State Fault Refusal :=
  binWord 0x8D Ety.isPlain (BinOp.lane opDiv true) true h b s

/-- R460: VMIN. -/
def execVmin (h : Hdr) (b : FmtV) (s : State) : Host.Outcome State Fault Refusal :=
  binWord 0x8E Ety.isPlain (BinOp.lane opMin false) false h b s

/-- R460: VMIN.vs. -/
def execVminVs (h : Hdr) (b : FmtV) (s : State) : Host.Outcome State Fault Refusal :=
  binWord 0x8F Ety.isPlain (BinOp.lane opMin true) true h b s

/-- R460: VMAX. -/
def execVmax (h : Hdr) (b : FmtV) (s : State) : Host.Outcome State Fault Refusal :=
  binWord 0x90 Ety.isPlain (BinOp.lane opMax false) false h b s

/-- R460: VMAX.vs. -/
def execVmaxVs (h : Hdr) (b : FmtV) (s : State) : Host.Outcome State Fault Refusal :=
  binWord 0x91 Ety.isPlain (BinOp.lane opMax true) true h b s

/-- R443: VAND. -/
def execVand (h : Hdr) (b : FmtV) (s : State) : Host.Outcome State Fault Refusal :=
  binWord 0x92 Ety.isPlain (bitLane (fun _ x y => x &&& y) false) false h b s

/-- R443: VAND.vs. -/
def execVandVs (h : Hdr) (b : FmtV) (s : State) : Host.Outcome State Fault Refusal :=
  binWord 0x93 Ety.isPlain (bitLane (fun _ x y => x &&& y) true) true h b s

/-- R460: VOR. -/
def execVor (h : Hdr) (b : FmtV) (s : State) : Host.Outcome State Fault Refusal :=
  binWord 0x94 Ety.isPlain (bitLane (fun _ x y => x ||| y) false) false h b s

/-- R460: VOR.vs. -/
def execVorVs (h : Hdr) (b : FmtV) (s : State) : Host.Outcome State Fault Refusal :=
  binWord 0x95 Ety.isPlain (bitLane (fun _ x y => x ||| y) true) true h b s

/-- R460: VXOR. -/
def execVxor (h : Hdr) (b : FmtV) (s : State) : Host.Outcome State Fault Refusal :=
  binWord 0x96 Ety.isPlain (bitLane (fun _ x y => x ^^^ y) false) false h b s

/-- R460: VXOR.vs. -/
def execVxorVs (h : Hdr) (b : FmtV) (s : State) : Host.Outcome State Fault Refusal :=
  binWord 0x97 Ety.isPlain (bitLane (fun _ x y => x ^^^ y) true) true h b s

/-- R460: VSHL. -/
def execVshl (h : Hdr) (b : FmtV) (s : State) : Host.Outcome State Fault Refusal :=
  binWord 0x98 Ety.isInt (BinOp.lane (intOp intShl) false) false h b s

/-- R460: VSHL.vs. -/
def execVshlVs (h : Hdr) (b : FmtV) (s : State) : Host.Outcome State Fault Refusal :=
  binWord 0x99 Ety.isInt (BinOp.lane (intOp intShl) true) true h b s

/-- R460: VSHR. -/
def execVshr (h : Hdr) (b : FmtV) (s : State) : Host.Outcome State Fault Refusal :=
  binWord 0x9A Ety.isInt (BinOp.lane (intOp intShr) false) false h b s

/-- R460: VSHR.vs. -/
def execVshrVs (h : Hdr) (b : FmtV) (s : State) : Host.Outcome State Fault Refusal :=
  binWord 0x9B Ety.isInt (BinOp.lane (intOp intShr) true) true h b s

/-- R460: VSHRA. -/
def execVshra (h : Hdr) (b : FmtV) (s : State) : Host.Outcome State Fault Refusal :=
  binWord 0x9C Ety.isInt (BinOp.lane (intOp intShra) false) false h b s

/-- R460: VSHRA.vs. -/
def execVshraVs (h : Hdr) (b : FmtV) (s : State) : Host.Outcome State Fault Refusal :=
  binWord 0x9D Ety.isInt (BinOp.lane (intOp intShra) true) true h b s

/-- R460: VMULH. -/
def execVmulh (h : Hdr) (b : FmtV) (s : State) : Host.Outcome State Fault Refusal :=
  binWord 0x9E Ety.isInt (BinOp.lane (intOp intMulh) false) false h b s

/-- R460: VMULH.vs. -/
def execVmulhVs (h : Hdr) (b : FmtV) (s : State) : Host.Outcome State Fault Refusal :=
  binWord 0x9F Ety.isInt (BinOp.lane (intOp intMulh) true) true h b s

/-- R443: VCLAMP. -/
def execVclamp (h : Hdr) (b : FmtV) (s : State) : Host.Outcome State Fault Refusal :=
  binWord 0xA2 Ety.isPlain (BinOp.lane opClamp false) false h b s

/-- R443: VCLAMP.vs. -/
def execVclampVs (h : Hdr) (b : FmtV) (s : State) : Host.Outcome State Fault Refusal :=
  binWord 0xA3 Ety.isPlain (BinOp.lane opClamp true) true h b s

/-- R443: VABS. -/
def execVabs (h : Hdr) (b : FmtV) (s : State) : Host.Outcome State Fault Refusal :=
  unWord 0xA5 Ety.isPlain (unLane (fun x => (x.abs, fNone)) (fun w sat x => intResult w sat (x.natAbs : Int))) h b s

/-- R460: VNEG. -/
def execVneg (h : Hdr) (b : FmtV) (s : State) : Host.Outcome State Fault Refusal :=
  unWord 0xA6 Ety.isPlain (unLane (fun x => (x.neg, fNone)) (fun w sat x => intResult w sat (-x))) h b s

/-- R460: VSQRT. -/
def execVsqrt (h : Hdr) (b : FmtV) (s : State) : Host.Outcome State Fault Refusal :=
  unWord 0xA7 Ety.isFloat (unLane Exact.sqrt (fun _ _ _ => 0)) h b s

/-- R443: VCLZ. -/
def execVclz (h : Hdr) (b : FmtV) (s : State) : Host.Outcome State Fault Refusal :=
  unWord 0xBA Ety.isInt (unLane (fun x => (x, fNone)) (fun w _ x => clzNat w (bitsOfInt w x))) h b s

/-- R460: VPOPC. -/
def execVpopc (h : Hdr) (b : FmtV) (s : State) : Host.Outcome State Fault Refusal :=
  unWord 0xBB Ety.isInt (unLane (fun x => (x, fNone)) (fun w _ x => popNat w (bitsOfInt w x))) h b s

/-- R466: VSEL, whose selecting mask is m[VC]. -/
def execVsel (h : Hdr) (b : FmtV) (s : State) : Host.Outcome State Fault Refusal :=
  runWord (issueV 0xA4 h b [] 0 [b.vd, b.va, b.vb] .lane)
    (onCtx (vecFrame Ety.isPlain [b.vb] b fun c t i =>
      (if (c.getM b.vc.toNat).getLsbD i then laneX b c t i else laneY false b c t i, fNone))) s

/-! ### Comparison (R447) -/

/-- The condition of VCMP on element i. -/
def cmpLane (vs : Bool) (b : FmtV) (c : Ctx) (t : Ety) (i : Nat) : Bool × Flags :=
  let x := laneX b c t i
  let y := laneY vs b c t i
  if t.isInt then (vcmpInt b.fn.toNat t.width x y, fNone) else vcmpFloat b.fn.toNat (laneF b t x) (laneF b t y)

/-- The mask bits VSTART to VL − 1 of a comparison, over a mask value, with the flags of the active elements. -/
def cmpLoop (m : BitVec 8192) (mz : Bool) (lo hi : Nat) (f : Nat → Bool × Flags) (d : BitVec 8192) : BitVec 8192 × Flags :=
  (List.range (hi - lo)).foldl
    (fun a j =>
      if m.getLsbD (lo + j) then (setBits a.1 (lo + j) 1 (f (lo + j)).1.toNat, a.2 ||| (f (lo + j)).2)
      else if mz then (setBits a.1 (lo + j) 1 0, a.2) else a)
    (d, fNone)

/-- R447: VCMP. -/
def cmpCtx (vs : Bool) (b : FmtV) (c : Ctx) : WR Ctx :=
  let t := (c.getV b.va.toNat).ty
  if !vcmpLegal t b.fn.toNat || (!vs && (c.getV b.vb.toNat).ty != t) then .trapW c .type_
  else if c.capacity t < c.vl then .trapW c .vlRange
  else
    let r := cmpLoop (c.getM b.mask.toNat) (b.mz == 1) c.vstart c.vl (cmpLane vs b c t) (c.getM b.vd.toNat)
    .done (((c.setM b.vd.toNat (maskBelow (max c.vl c.vstart) r.1)).setVstart 0).orFlags r.2)

/-- R447: VCMP. -/
def execVcmp (h : Hdr) (b : FmtV) (s : State) : Host.Outcome State Fault Refusal :=
  runWord (issueV 0xA0 h b [] 0 [b.va, b.vb] .lane) (onCtx (cmpCtx false b)) s

/-- R447: VCMP.vs. -/
def execVcmpVs (h : Hdr) (b : FmtV) (s : State) : Host.Outcome State Fault Refusal :=
  runWord (issueV 0xA1 h b [b.vb] 0 [b.va] .lane) (onCtx (cmpCtx true b)) s

/-! ### Conversion (R449) -/

/-- The rounding of each element: RM, or the draws of R66 for elements lo to hi − 1 with the generators after them. -/
def srDraws (w lo hi : Nat) (g : Vector (BitVec 32) 256) : Vector (BitVec 32) 256 × List Rounding :=
  (List.range (hi - lo)).foldl
    (fun a j =>
      let l := (lo + j) * w / 32 % 256
      let x := srStep ((a.1[l]?).getD 0)
      (a.1.setIfInBounds l x, a.2 ++ [.sr x.toNat]))
    (g, List.replicate lo .rne)

/-- A block of the SE destination of VCVT: scale and slots. The same SE type copies it, with +0 at or above VL (R449). -/
def cvtBlock (s t : Ety) (v : VReg) (vl : Nat) (bound : Exact) (rds : List Rounding) (j : Nat) : SeBlock × Flags :=
  if s == t then
    (⟨v.scale j, (List.range 16).map fun i => if 16 * j + i < vl then v.elem 8 (16 * j + i) else 0⟩, fNone)
  else
    let xs := (List.range 16).map fun i =>
      if 16 * j + i < vl then clampNarrow t bound (v.read false (16 * j + i)) else (Exact.zero false, fNone)
    let r := seEncode t (xs.map (·.1)) ((List.range 16).map fun i => nthD .rne rds (16 * j + i))
    (r.1, xs.foldl (fun a x => a ||| x.2) r.2)

/-- A register with block j replaced. -/
def VReg.putBlock (v : VReg) (j : Nat) (k : SeBlock) : VReg :=
  let v1 := (List.range 16).foldl (fun a i => a.put 8 (16 * j + i) (nthD 0 k.slots i)) v
  v1.putScale j k.scale

/-- One element of a store by record and of VCVT between two types, clamped to B (R61, R67, R449, R473). -/
def cvtLane (b : FmtV) (s t : Ety) (v : VReg) (bound : Exact) (rd : Rounding) (i : Nat) : Nat × Flags :=
  if s.isInt && t.isInt then (intResult t.width (b.sat == 1) (v.sint i), fNone)
  else roundTo t rd (b.sat == 1) (b.ftzo == 1) (some bound) (v.read (b.ftzi == 1) i)

/-- One element of VCVT to a plain type: between equal types FTZI, FTZO and SAT alone apply, and no clamp (R449). -/
def vcvtLane (b : FmtV) (s t : Ety) (v : VReg) (bound : Exact) (rd : Rounding) (i : Nat) : Nat × Flags :=
  if s = t && t.isFloat then roundTo t rd (b.sat == 1) (b.ftzo == 1) none (v.read (b.ftzi == 1) i)
  else cvtLane b s t v bound rd i

/-- R449: the inputs of an SE encoding take FTZI before the clamp (R67). -/
def ftzSource (ftzi : Bool) (v : VReg) (n : Nat) : VReg :=
  if ftzi && v.ty.isFloat then
    (List.range n).foldl
      (fun a i =>
        if v.ty.fmt.isSubnormal (v.elem v.ty.width i) then
          a.put v.ty.width i (v.elem v.ty.width i / v.ty.fmt.signWeight % 2 * v.ty.fmt.signWeight) else a) v
  else v

/-- R449: VCVT and VCVT.sr. An SE encoding rounds to nearest even, whatever RM, or stochastically (R57). -/
def cvtCtx (sr : Bool) (b : FmtV) (c : Ctx) : WR Ctx :=
  let src := c.getV b.va.toNat
  let s := src.ty
  let t := Ety.ofTag b.fn.toNat
  if s == .invalid then .trapW c .type_
  else if c.capacity s < c.vl || c.capacity t < c.vl || ((t.isSE || sr) && c.vstart != 0) then .trapW c .vlRange
  else
    let bound := clampBound c.regs.csr.clampb
    let dr := if sr then srDraws s.width c.vstart c.vl c.regs.g else (c.regs.g, [])
    let c1 := c.upd fun r => { r with g := dr.1 }
    let rdOf := fun i => if sr then nthD .rne dr.2 i else Rounding.ofRM b.rm
    if t.isSE then
      let src1 := ftzSource (b.ftzi == 1) src c.vl
      let r := (List.range ((c.vl + 15) / 16)).foldl
        (fun (a : VReg × Flags) j =>
          let k := cvtBlock s t src1 c.vl bound dr.2 j
          (a.1.putBlock j k.1, a.2 ||| k.2))
        (c.getV b.vd.toNat, fNone)
      .done (((c1.setV b.vd.toNat { r.1 with ty := t }).setVstart 0).orFlags r.2)
    else .done (c1.laneWrite b t fun i => vcvtLane b s t src bound (rdOf i) i)

/-- R449: VCVT. -/
def execVcvt (h : Hdr) (b : FmtV) (s : State) : Host.Outcome State Fault Refusal :=
  runWord (issueV 0xA8 h b [] 0 [b.vd, b.va] .lane) (onCtx (cvtCtx false b)) s

/-- R449: VCVT.sr. -/
def execVcvtSr (h : Hdr) (b : FmtV) (s : State) : Host.Outcome State Fault Refusal :=
  runWord (issueV 0xA9 h b [] 0 [b.vd, b.va] .lane) (onCtx (cvtCtx true b)) s

/-! ### Filling -/

/-- R469: VSPLAT. -/
def execVsplat (h : Hdr) (b : FmtV) (s : State) : Host.Outcome State Fault Refusal :=
  runWord (issueV 0xAA h b [b.vb] 0 [b.vd] .lane)
    (onCtx fun c =>
      let t := Ety.ofTag b.fn.toNat
      if c.capacity t < c.vl then .trapW c .vlRange
      else .done (c.laneWrite b t fun _ => ((c.getS b.vb).toNat % 2 ^ t.width, fNone))) s

/-- R454: VIOTA. -/
def execViota (h : Hdr) (b : FmtV) (s : State) : Host.Outcome State Fault Refusal :=
  runWord (issueV 0xB1 h b [] 0 [b.vd] .lane)
    (onCtx fun c =>
      let t := Ety.ofTag b.fn.toNat
      if c.capacity t < c.vl then .trapW c .vlRange
      else .done (c.laneWrite b t fun i =>
        let v : Int := ((b.imm.toNat + i : Nat) : Int)
        if t.isInt then (intResult t.width (b.sat == 1) v, fNone) else laneRound b t (Exact.ofInt v, fNone))) s

/-! ### Sums (R69, R70, R450, R465) -/

/-- One rounded addition of VRED and VSCAN on exact values of type t. -/
def sumStep (b : FmtV) (t : Ety) (x y : Exact) : Exact × Flags :=
  let r := laneRound b t (x.add (Rounding.ofRM b.rm) y)
  (t.fmt.decode r.1, r.2)

/-- One addition of VRED and VSCAN on integers (R55). -/
def isumStep (b : FmtV) (t : Ety) (x y : Int) : Int × Flags := (sintOf t.width (intResult t.width (b.sat == 1) (x + y)), fNone)

/-- The leaves of elements lo to hi − 1: a masked-off position holds −0.0 (R69). -/
def leavesF (b : FmtV) (c : Ctx) (t : Ety) (lo hi : Nat) : List Exact :=
  (countFrom lo (hi - lo)).map fun i =>
    if (c.getM b.mask.toNat).getLsbD i then laneF b t (laneX b c t i) else Exact.zero true

/-- The integer leaves: a masked-off position holds 0. -/
def leavesI (b : FmtV) (c : Ctx) (t : Ety) (lo hi : Nat) : List Int :=
  (countFrom lo (hi - lo)).map fun i =>
    if (c.getM b.mask.toNat).getLsbD i then sintOf t.width (laneX b c t i) else 0

/-- The bits of the tree sum of elements 0 to n − 1, with its flags; n = 0 gives the identity. -/
def treeBits (b : FmtV) (c : Ctx) (t : Ety) (n : Nat) : Nat × Flags :=
  if t.isInt then
    let r := treeSum (isumStep b t) (leavesI b c t 0 n)
    (bitsOfInt t.width (r.1.getD 0), r.2)
  else
    let r := treeSum (sumStep b t) (leavesF b c t 0 n)
    ((roundFloat t.fmt .rne false false (r.1.getD (Exact.zero true))).1, r.2)

/-- The checks of VRED and VSCAN. -/
def sumChecks (b : FmtV) (c : Ctx) (k : Ety → Ctx) : WR Ctx :=
  let t := (c.getV b.va.toNat).ty
  if !t.isPlain then .trapW c .type_
  else if c.capacity t < c.vl || c.vstart != 0 then .trapW c .vlRange
  else .done (k t)

/-- R465: VRED. -/
def execVred (h : Hdr) (b : FmtV) (s : State) : Host.Outcome State Fault Refusal :=
  runWord (issueV 0xAB h b [] 0 [b.vd, b.va] .lane)
    (onCtx fun c => sumChecks b c fun t =>
      let r := treeBits b c t c.vl
      let v := c.getV b.vd.toNat
      (c.setV b.vd.toNat { v with ty := t, data := setBits v.data 0 (c.len * 32) r.1 }).orFlags r.2) s

/-- R465: VSCAN. -/
def execVscan (h : Hdr) (b : FmtV) (s : State) : Host.Outcome State Fault Refusal :=
  runWord (issueV 0xAC h b [] 0 [b.vd, b.va] .lane)
    (onCtx fun c => sumChecks b c fun t =>
      let v := c.getV b.vd.toNat
      let r := laneLoop (BitVec.allOnes 8192) false t.width 0 c.vl (fun i => treeBits b c t (i + 1)) v.data
      (c.setV b.vd.toNat { v with ty := t, data := r.1 }).orFlags r.2) s

/-- One addition of VDOT, rounded to FP32 by RM (R70). -/
def dotStep (b : FmtV) (x y : Exact) : Exact × Flags :=
  let s := x.add (Rounding.ofRM b.rm) y
  let r := roundFloat Ety.fp32.fmt (Rounding.ofRM b.rm) false false s.1
  (Ety.fp32.fmt.decode r.1, s.2 ||| r.2)

/-- The result bits of one segment, elements lo to hi − 1. FTZO applies to the result (R450). -/
def dotBits (b : FmtV) (c : Ctx) (t : Ety) (lo hi : Nat) : Nat × Flags :=
  let m := c.getM b.mask.toNat
  if t.isInt then
    (bitsOfInt 32 (((countFrom lo (hi - lo)).map fun i =>
      if m.getLsbD i then sintOf t.width (laneX b c t i) * sintOf t.width (laneY false b c t i) else 0).foldl (· + ·) 0), fNone)
  else
    let ps := (countFrom lo (hi - lo)).map fun i =>
      if m.getLsbD i then (laneF b t (laneX b c t i)).mul (laneF b t (laneY false b c t i)) else (Exact.zero true, fNone)
    let r := treeSum (dotStep b) (ps.map (·.1))
    let q := roundFloat Ety.fp32.fmt (Rounding.ofRM b.rm) false (b.ftzo == 1) (r.1.getD (Exact.zero true))
    (q.1, ps.foldl (fun a p => a ||| p.2) (r.2 ||| q.2))

/-- R450: VDOT. -/
def dotCtx (b : FmtV) (c : Ctx) : WR Ctx :=
  let t := (c.getV b.va.toNat).ty
  let seg := if b.imm = 0 then c.vl else b.imm.toNat
  let n := if c.vl = 0 then 1 else c.vl / seg
  if !t.isPlain || (c.getV b.vb.toNat).ty != t then .trapW c .type_
  else if c.capacity t < c.vl || c.vstart != 0 || c.vl % seg != 0 || c.len < n then .trapW c .vlRange
  else
    let v := c.getV b.vd.toNat
    let d0 := setBits v.data 0 (c.len * 32) 0
    let r := (List.range n).foldl
      (fun (a : BitVec 65536 × Flags) j =>
        let q := if c.vl = 0 then dotBits b c t 0 0 else dotBits b c t (j * seg) (j * seg + seg)
        (setBits a.1 (j * 32) 32 q.1, a.2 ||| q.2))
      (d0, fNone)
    .done ((c.setV b.vd.toNat { v with ty := if t.isInt then .i32 else .fp32, data := r.1 }).orFlags r.2)

/-- R450: VDOT. -/
def execVdot (h : Hdr) (b : FmtV) (s : State) : Host.Outcome State Fault Refusal :=
  runWord (issueV 0xB2 h b [] 0 [b.vd, b.va, b.vb] .lane) (onCtx (dotCtx b)) s

end Sys2Proof.Machine
end

