-- ==== Sys2Proof/Machine/VecMove.lean ====
section
/-! DEFINITION. Machine/VecMove.lean: words that move elements within and between registers (R448, R453, R462 to R464), the mask
words (R414, R415, R451), and VSETL, VTAG and VSETSHAPE (R39, R40, R467, R468, R474). -/

namespace Sys2Proof.Machine

/-! ### Flags of MMAs (R408) -/

/-- The flags of retired MMAs still in flight reach VFLAGS: the context's earlier MMAs have finished (R408). -/
def Ctx.finishMma (c : Ctx) : Ctx :=
  match c.regs.arr.mmaFlags with
  | some f => (c.orFlags f).updArr fun a => { a with mmaFlags := none }
  | none => c

/-! ### Moves within a register -/

/-- Positions 0 to VL − 1 of a move whose sources are read first: f gives a position its value, or none to leave it. -/
def moveLoop (w n : Nat) (f : Nat → Option Nat) (d : BitVec 65536) : BitVec 65536 :=
  (List.range n).foldl (fun a i => match f i with | some x => setBits a (i * w) w x | none => a) d

/-- A move of VL elements under MASK and MZ (R462, R463). -/
def Ctx.moveMasked (c : Ctx) (b : FmtV) (t : Ety) (f : Nat → Nat) : Ctx :=
  let v := c.getV b.vd.toNat
  let m := c.getM b.mask.toNat
  let d := moveLoop t.width c.vl (fun i => if m.getLsbD i then some (f i) else if b.mz = 1 then some 0 else none) v.data
  c.setV b.vd.toNat { v with ty := t, data := d }

/-- Element j of VA when j lies below VL, else 0. -/
def pickBelow (b : FmtV) (c : Ctx) (t : Ety) (j : Int) : Nat :=
  if 0 ≤ j ∧ j < c.vl then laneX b c t j.toNat else 0

/-- R463: VSLIDE. -/
def slideCtx (b : FmtV) (c : Ctx) : WR Ctx :=
  let t := (c.getV b.va.toNat).ty
  let k : Int := ((c.getS b.vb).toNat + b.imm.toNat : Nat)
  if !t.isPlain then .trapW c .type_
  else if c.capacity t < c.vl || c.vstart != 0 then .trapW c .vlRange
  else .done (c.moveMasked b t fun i => pickBelow b c t (if b.fn = 0 then (i : Int) - k else (i : Int) + k))

/-- R463: VSLIDE. -/
def execVslide (h : Hdr) (b : FmtV) (s : State) : Host.Outcome State Fault Refusal :=
  runWord (issueV 0xAD h b [b.vb] 0 [b.vd, b.va] .lane) (onCtx (slideCtx b)) s

/-- R462: VPERM; the indices are unsigned. -/
def permCtx (b : FmtV) (c : Ctx) : WR Ctx :=
  let t := (c.getV b.va.toNat).ty
  let u := (c.getV b.vb.toNat).ty
  if !t.isPlain || !u.isInt then .trapW c .type_
  else if c.capacity t < c.vl || c.capacity u < c.vl || c.vstart != 0 then .trapW c .vlRange
  else .done (c.moveMasked b t fun i => pickBelow b c t ((c.getV b.vb.toNat).elem u.width i))

/-- R462: VPERM. -/
def execVperm (h : Hdr) (b : FmtV) (s : State) : Host.Outcome State Fault Refusal :=
  runWord (issueV 0xAE h b [] 0 [b.vd, b.va, b.vb] .lane) (onCtx (permCtx b)) s

/-- The set positions of a mask below n, in ascending order. -/
def setPositions (m : BitVec 8192) (n : Nat) : List Nat := (List.range n).filter fun i => m.getLsbD i

/-- The checks of VCOMPRESS and VEXPAND. -/
def packChecks (b : FmtV) (c : Ctx) (k : Ety → Ctx) : WR Ctx :=
  let t := (c.getV b.va.toNat).ty
  if !t.isPlain then .trapW c .type_
  else if c.capacity t < c.vl || c.vstart != 0 then .trapW c .vlRange
  else .done (k t)

/-- R448: VCOMPRESS. -/
def compressCtx (b : FmtV) (c : Ctx) (t : Ety) : Ctx :=
  let v := c.getV b.vd.toNat
  let ps := setPositions (c.getM b.mask.toNat) c.vl
  let d := moveLoop t.width c.vl
    (fun i => match ps[i]? with
      | some p => some (laneX b c t p)
      | none => if b.mz = 1 then some 0 else none) v.data
  c.setV b.vd.toNat { v with ty := t, data := d }

/-- R448: VEXPAND. -/
def expandCtx (b : FmtV) (c : Ctx) (t : Ety) : Ctx :=
  let v := c.getV b.vd.toNat
  let ps := setPositions (c.getM b.mask.toNat) c.vl
  let d := moveLoop t.width c.vl
    (fun i => match ps.idxOf? i with
      | some k => some (laneX b c t k)
      | none => if b.mz = 1 then some 0 else none) v.data
  c.setV b.vd.toNat { v with ty := t, data := d }

/-- R448: VCOMPRESS. -/
def execVcompress (h : Hdr) (b : FmtV) (s : State) : Host.Outcome State Fault Refusal :=
  runWord (issueV 0xBC h b [] 0 [b.vd, b.va] .lane) (onCtx fun c => packChecks b c (compressCtx b c)) s

/-- R448: VEXPAND. -/
def execVexpand (h : Hdr) (b : FmtV) (s : State) : Host.Outcome State Fault Refusal :=
  runWord (issueV 0xBD h b [] 0 [b.vd, b.va] .lane) (onCtx fun c => packChecks b c (expandCtx b c)) s

/-! ### Single elements -/

/-- The slot of SE element e: the sign in bit 7 and the magnitude in its low bits; the bits between them read as zero (R37). -/
def VReg.seSlot (v : VReg) (e : Nat) : Nat := v.elem 8 e / 128 * 128 + v.elem 8 e % 2 ^ v.ty.seBits

/-- R453: the value VGET reads of element e: a held cell, an SE slot with its scale, or the bits of the element. -/
def vgetValue (b : FmtV) (c : Ctx) (e : Nat) : Word :=
  let v := c.getV b.va.toNat
  let cell := match c.regs.arr.held with
    | some t =>
      if c.heldMeets b.va.toNat 1 && decide ((b.va.toNat - t.vd) * c.capacity v.ty + e < t.g * t.n) then
        some ((b.va.toNat - t.vd) * c.capacity v.ty + e) else none
    | none => none
  match cell with
  | some f => BitVec.ofNat 64 (getBits c.regs.arr.cells (32 * f) 32)
  | none =>
    if v.ty.isSE then BitVec.ofNat 64 (v.seSlot e + (v.scale (e / 16)).toNat * 2 ^ 32)
    else BitVec.ofNat 64 (v.elem v.ty.width e)

/-- R453: VGET. -/
def vgetCtx (h : Hdr) (b : FmtV) (c0 : Ctx) : WR Ctx :=
  let ty := (c0.getV b.va.toNat).ty
  let e := ((c0.afterAlloc h.ta.toNat).getS b.vb).toNat + b.imm.toNat
  let held := c0.heldMeets b.va.toNat 1
  if ty == .invalid then .trapW c0 .type_
  else if c0.capacity ty ≤ e then .trapW c0 .vlRange
  else if held && h.ta = 0 then .trapW c0 .arrayHeld
  else
    let c := if held then c0.finishMma else c0
    let r := vgetValue b (c.afterAlloc h.ta.toNat) e
    if h.ta = 0 then .done (c.setS b.vd r)
    else .done (c.allocS h.ta.toNat b.vd r)

/-- R453: VGET. -/
def execVget (h : Hdr) (b : FmtV) (s : State) : Host.Outcome State Fault Refusal :=
  runWord (issueV 0xAF h b [b.vb] (if h.ta = 0 then b.vd else 0) [b.va] .vgetput) (onCtx (vgetCtx h b)) s

/-- R464: VPUT. -/
def vputCtx (b : FmtV) (c : Ctx) : WR Ctx :=
  let v := c.getV b.vd.toNat
  let e := (c.getS b.vb).toNat + b.imm.toNat
  let x := c.getS b.va
  if v.ty == .invalid then .trapW c .type_
  else if c.capacity v.ty ≤ e then .trapW c .vlRange
  else if c.heldMeets b.vd.toNat 1 then .trapW c .arrayHeld
  else if v.ty.isSE then .done (c.setV b.vd.toNat ((v.put 8 e (getBits x 0 8)).putScale (e / 16) (x.extractLsb' 32 20)))
  else .done (c.setV b.vd.toNat (v.put v.ty.width e (getBits x 0 v.ty.width)))

/-- R464: VPUT. -/
def execVput (h : Hdr) (b : FmtV) (s : State) : Host.Outcome State Fault Refusal :=
  runWord (issueV 0xB0 h b [b.va, b.vb] 0 [b.vd] .vgetput) (onCtx (vputCtx b)) s

/-! ### Masks -/

/-- The function FN of MOP (Table 22-5). -/
def mopFn (fn : BitVec 4) (x y : BitVec 8192) : BitVec 8192 :=
  if fn = 0 then x &&& y else if fn = 1 then x ||| y else if fn = 2 then x ^^^ y else if fn = 3 then x &&& ~~~y
  else if fn = 4 then x ||| ~~~y else if fn = 5 then ~~~(x &&& y) else if fn = 6 then ~~~(x ||| y) else ~~~(x ^^^ y)

/-- R414: MOP. -/
def execMop (h : Hdr) (b : FmtV) (s : State) : Host.Outcome State Fault Refusal :=
  runWord (issueV 0xB3 h b [] 0 [] .lane)
    (onCtx fun c =>
      if c.vstart != 0 then .trapW c .vlRange
      else .done (c.setM b.vd.toNat (maskBelow c.vl (mopFn b.fn (c.getM b.va.toNat) (c.getM b.vb.toNat))))) s

/-- R415: MPOP. -/
def execMpop (h : Hdr) (b : FmtV) (s : State) : Host.Outcome State Fault Refusal :=
  runWord (issueV 0xB4 h b [] b.vd [] .lane)
    (onCtx fun c =>
      if c.vstart != 0 then .trapW c .vlRange
      else .done (c.setS b.vd
        (BitVec.ofNat 64 (setPositions (c.getM b.va.toNat &&& c.getM b.mask.toNat) c.vl).length))) s

/-- R451: VFIRST. -/
def execVfirst (h : Hdr) (b : FmtV) (s : State) : Host.Outcome State Fault Refusal :=
  runWord (issueV 0xB5 h b [] b.vd [] .lane)
    (onCtx fun c =>
      if c.vstart != 0 then .trapW c .vlRange
      else .done (c.setS b.vd
        (match (setPositions (c.getM b.va.toNat &&& c.getM b.mask.toNat) c.vl).head? with
         | some i => BitVec.ofNat 64 i
         | none => BitVec.allOnes 64))) s

/-! ### Length, tags and shape -/

/-- R467: VL and s[D] receive n, unless n is above 8,192. -/
def setlCtx (d : RegNo) (n : Nat) (c : Ctx) : WR Ctx :=
  if 8192 < n then .trapW c .vlRange else .done ((c.setVl n).setS d (BitVec.ofNat 64 n))

/-- R467: VSETL. -/
def execVsetl (h : Hdr) (b : FmtV) (s : State) : Host.Outcome State Fault Refusal :=
  runWord (issueV 0xB7 h b [b.va] b.vd [] .other) (onCtx fun c => setlCtx b.vd (c.getS b.va).toNat c) s

/-- R467: VSETL.i. -/
def execVsetlI (h : Hdr) (b : FmtV) (s : State) : Host.Outcome State Fault Refusal :=
  runWord (issueV 0xB8 h b [] b.vd [] .other) (onCtx fun c => setlCtx b.vd b.imm.toNat c) s

/-- R40: the tags of n registers from r. -/
def Ctx.tagRegs (c : Ctx) (t : Ety) (r n : Nat) : Ctx :=
  (countFrom r n).foldl (fun c k => c.setV k { c.getV k with ty := t }) c

/-- R474: VTAG; IMM20[5:0] holds count − 1. -/
def execVtag (h : Hdr) (b : FmtV) (s : State) : Host.Outcome State Fault Refusal :=
  runWord (issueV 0xB9 h b [] 0 [b.vd] .other)
    (onCtx fun c =>
      let n := getBits b.imm 0 6 + 1
      if c.count < b.vd.toNat + n then .trapW c .type_
      else if c.heldMeets b.vd.toNat n then .trapW c .arrayHeld
      else .done ((c.awaitDrain b.vd.toNat n).tagRegs (Ety.ofTag b.fn.toNat) b.vd.toNat n)) s

/-- Step 1 of R39 for one tag: a vector tag is emptied without commit, after an SFN's flags have landed (R223); a failed one
enters the deferred-fault record. -/
def Ctx.dropTag (c : Ctx) (t : Nat) : Ctx :=
  let g := c.getTag t
  if !g.vec then c
  else match g.st with
    | .pending => let c1 := c.land t; c1.setTag t { c1.getTag t with st := .empty }
    | .landed => c.setTag t { g with st := .empty }
    | .partly _ => c.setTag t { g with st := .empty }
    | .failed _ => c.deferTag t
    | .empty => c

/-- R39, R468: the effects of a successful VSETSHAPE; every vector dirty bit is set (R294). -/
def Ctx.newShape (c : Ctx) (sh : BitVec 2) : Ctx :=
  let c1 := (List.range 16).foldl Ctx.dropTag c.endDrain
  c1.upd fun r => { r with
    shape := sh, v := Vector.replicate 64 VReg.zero, slots := Vector.replicate 4 LSlot.zero,
    csr := { r.csr with vl := 0, vstart := 0 },
    dirty := { r.dirty with vregs := BitVec.allOnes 64, slots := BitVec.allOnes 4 } }

/-- R39, R468: VSETSHAPE. -/
def setshapeCtx (d : RegNo) (sh : BitVec 2) (c : Ctx) : WR Ctx :=
  if !shapeFits sh c.launch.vregKiB then .done (c.setS d 0)
  else if (countFrom 1 15).any fun t => (c.getTag t).vec && c.tagBusy t then .stall c
  else .done ((c.newShape sh).setS d (BitVec.ofNat 64 (shapeLen sh)))

/-- R468: VSETSHAPE. -/
def execVsetshape (h : Hdr) (b : FmtV) (s : State) : Host.Outcome State Fault Refusal :=
  runWord (issueV 0xB6 h b [] b.vd [] .vshape) (onCtx (setshapeCtx b.vd (b.imm.extractLsb' 0 2))) s

end Sys2Proof.Machine
end

