-- ==== Sys2Proof/Machine/Csr.lean ====
section
/-! DEFINITION. Machine/Csr.lean: the CSRs of Table 2-6 and the words CSRR, CSRW, CSRS and CSRC (02 R50, R51; 21 R386, R387). -/

namespace Sys2Proof.Machine

/-- MODESTATE (Table 2-6). -/
def Ctx.modeState (c : Ctx) : Nat :=
  c.regs.arr.mode % 4 + (if c.regs.arr.draining.isSome then 4 else 0) + (if c.regs.arr.roped then 8 else 0)

/-- VSHAPE (Table 2-6). -/
def Ctx.vshapeWord (c : Ctx) : Nat := c.len * 2 ^ 16 + c.count * 2 ^ 8 + c.regs.shape.toNat

/-- CTXID of slot k (Table 2-6). -/
def ctxidWord (k : Nat) : Nat :=
  slotDie k * 2 ^ 29 + slotCluster k * 2 ^ 25 + slotCore k * 2 ^ 17 + slotSide k * 2 ^ 16 + k % 2 ^ 11

/-- EMULBASE and TRAPBASE (Table 2-6). -/
def handlerWord : Option (BitVec 32) → Nat
  | none => 0
  | some w => 2 ^ 32 + w.toNat

/-- The value of a CSR (Table 2-6). FAULTINJ reads zero in a production partition (R198). -/
def State.csrRead (s : State) (n : Nat) : Word :=
  let c := s.ctx
  let r := c.regs.csr
  let num := BitVec.ofNat 64
  if n = 0x000 then num r.vl
  else if n = 0x001 then num c.vshapeWord
  else if n = 0x002 then num r.vstart
  else if n = 0x003 then r.strip
  else if n = 0x004 then r.vflags.setWidth 64
  else if n = 0x005 then r.clampb.setWidth 64
  else if n = 0x006 then r.srseed.setWidth 64
  else if n = 0x007 then num (c.launch.scrKiB % 2 ^ 11 * 2 ^ 16 + c.launch.vregKiB % 2 ^ 8)
  else if n = 0x008 then num c.regs.loops.length
  else if n = 0x010 then num c.modeState
  else if 0x020 ≤ n ∧ n ≤ 0x02F then (r.mbox[n - 0x020]?).getD 0
  else if n = 0x030 then num (ctxidWord s.cur)
  else if n = 0x031 then c.launch.node.setWidth 64
  else if n = 0x032 then c.launch.inst.setWidth 64
  else if n = 0x033 then c.launch.ninst.setWidth 64
  else if n = 0x040 then num s.tick
  else if n = 0x041 then r.retired
  else if n = 0x050 then r.trapcause.setWidth 64
  else if n = 0x051 then r.trappc.setWidth 64
  else if n = 0x052 then r.trapinfo0
  else if n = 0x053 then r.trapinfo1
  else if n = 0x054 then num (handlerWord c.launch.emulBase)
  else if n = 0x055 then num (handlerWord c.launch.trapBase)
  else if 0x060 ≤ n ∧ n ≤ 0x067 then scopeTab (n - 0x060) s.cur
  else if n = 0x070 then r.regionno.setWidth 64
  else if n = 0x071 then r.acktimeout.setWidth 64
  else if n = 0x072 then (if r.harness then r.faultinj else 0)
  else 0

/-- The value that a write leaves in ACKTIMEOUT (Table 2-6). -/
def acktimeoutRule (w : Word) : BitVec 7 := if w.toNat < 2 then 2 else if 64 < w.toNat then 64 else w.extractLsb' 0 7

/-- The fields of FAULTINJ that a write leaves (Table 9-6): a reserved KIND stores ARM = 0. -/
def faultinjRule (w : Word) : Word :=
  let v := w &&& 0xFC0000000000FFFF
  if w.getLsbD 62 then v &&& 0x7FFFFFFFFFFFFFFF else v

/-- A write of FAULTINJ in a harness partition starts its counts afresh (R198). -/
def Csrs.inject (r : Csrs) (w : Word) : Csrs :=
  { r with faultinj := faultinjRule w, injSkip := getBits w 0 16, injLeft := getBits w 58 2 + 1, injSeq := none }

/-- A write of a CSR (Table 2-6, R6): RO and RSV fields ignore it. -/
def Ctx.csrWrite (c : Ctx) (n : Nat) (w : Word) : WR Ctx :=
  if n = 0x000 then (if 8192 < w.toNat then .trapW c .vlRange else .done (c.setVl w.toNat))
  else if n = 0x002 then .done (c.setVstart (getBits w 0 13))
  else if n = 0x004 then .done (c.updCsr fun r => { r with vflags := w.extractLsb' 0 5 })
  else if n = 0x005 then .done (c.updCsr fun r => { r with clampb := w.extractLsb' 0 32 })
  else if n = 0x006 then
    .done ((c.updCsr fun r => { r with srseed := w.extractLsb' 0 32 }).upd fun r => { r with g := srStates (w.extractLsb' 0 32) })
  else if 0x020 ≤ n ∧ n ≤ 0x02F then .done (c.updCsr fun r => { r with mbox := r.mbox.setIfInBounds (n - 0x020) w })
  else if n = 0x051 then .done (c.updCsr fun r => { r with trappc := w.extractLsb' 0 32 })
  else if n = 0x071 then .done (c.updCsr fun r => { r with acktimeout := acktimeoutRule w })
  else if n = 0x072 then .done (if c.regs.csr.harness then c.updCsr fun r => r.inject w else c)
  else .done c

/-- Table 21-3: a word on VFLAGS first meets the flags of every earlier MMA and SFN. -/
def Ctx.settleFlags (c : Ctx) (n : Nat) : Ctx :=
  if n = 0x004 then
    ((List.range 16).foldl (fun c t => if (c.getTag t).sfn then c.land t else c) c).finishMma
  else c

/-- R386: CSRR; a mailbox is a tagged producer. -/
def csrrBody (h : Hdr) (b : FmtY) (s0 : State) : WR State :=
  let n := b.imm.toNat
  let s := s0.updCtx fun c => c.settleFlags n
  let r := s.csrRead n
  if isMbox b.imm then .done (s.updCtx fun c => c.allocS h.ta.toNat b.d r) else .done (s.updCtx fun c => c.setS b.d r)

/-- R386: CSRW, CSRS and CSRC write f of the CSR and s[A]. -/
def csrwBody (f : Word → Word → Word) (b : FmtY) (s0 : State) : WR State :=
  let n := b.imm.toNat
  let s := s0.updCtx fun c => c.settleFlags n
  onCtx (fun c => c.csrWrite n (f (s.csrRead n) (c.getS b.a))) s

/-- R386: CSRR. -/
def execCsrr (h : Hdr) (b : FmtY) (s : State) : Host.Outcome State Fault Refusal :=
  runWord (issueY 0x13 h b [] (if isMbox b.imm then 0 else b.d)) (csrrBody h b) s

/-- R386: CSRW. -/
def execCsrw (h : Hdr) (b : FmtY) (s : State) : Host.Outcome State Fault Refusal :=
  runWord (issueY 0x14 h b [b.a] 0) (csrwBody (fun _ x => x) b) s

/-- R386: CSRS. -/
def execCsrs (h : Hdr) (b : FmtY) (s : State) : Host.Outcome State Fault Refusal :=
  runWord (issueY 0x15 h b [b.a] 0) (csrwBody (fun r x => r ||| x) b) s

/-- R386: CSRC. -/
def execCsrc (h : Hdr) (b : FmtY) (s : State) : Host.Outcome State Fault Refusal :=
  runWord (issueY 0x16 h b [b.a] 0) (csrwBody (fun r x => r &&& ~~~x) b) s

end Sys2Proof.Machine
end

