-- ==== Sys2Proof/Machine/Matrix.lean ====
section
/-! DEFINITION. Machine/Matrix.lean: array ownership and power (07 R122 to R127), register groups (R129, R130), the cell steps
(03 R71), and MODE, MMA, MWLD, MDRAIN, MZERO, ROPE and MSTAT (07 R125 to R141; 22 R405 to R411, R416, R418, R419, R428).
An unroped MMA makes one array step at each issue, so that VSTART is the next k, or the next row, wherever it is cut (R132, R137). -/

namespace Sys2Proof

/-- The G and N of a matrix word, or the K and N of MWLD, and the tile descriptor (Table 7-4). -/
def FmtX.rows (b : FmtX) : Nat := b.g.toNat + 1
def FmtX.cols (b : FmtX) : Nat := b.n.toNat + 1
def FmtX.tile (b : FmtX) : Machine.Tile := ⟨b.vd.toNat, b.rows, b.cols⟩

end Sys2Proof

namespace Sys2Proof.Machine

/-! ### Groups (R129) -/

/-- The bits of flat element e of width w of the group at register v. -/
def Ctx.flatBits (c : Ctx) (v w e : Nat) : Nat :=
  let cap := c.len * 32 / w
  (c.getV (v + e / cap)).elem w (e % cap)

/-- The value of flat element e of the group at register v under type t. -/
def Ctx.flatVal (c : Ctx) (t : Ety) (v e : Nat) : Exact :=
  let cap := c.capacity t
  let r := c.getV (v + e / cap)
  let i := e % cap
  if t.isSE then seValue t (r.scale (i / 16)) (i % 16) (r.elem 8 i) else elemValue t false (r.elem t.width i)

/-- A write of flat element e of width 32. -/
def Ctx.flatPut (c : Ctx) (v e x : Nat) : Ctx :=
  let r := c.getV (v + e / c.len)
  c.setV (v + e / c.len) (r.put 32 (e % c.len) x)

/-- Every register of a span carries a tag. -/
def Ctx.spanTag (c : Ctx) (v n : Nat) (t : Ety) : Bool := (countFrom v n).all fun k => (c.getV k).ty == t

/-- Registers of a tile of 32-bit accumulators. -/
def Ctx.tileSpan (c : Ctx) (t : Tile) : Nat := groupSpan c.len (t.g * t.n) 32

/-! ### Tiles (R132, R134, R135) -/

/-- The cells loaded from a tile's group. -/
def Ctx.loadTile (c : Ctx) (t : Tile) : Ctx :=
  c.updArr fun a => { a with
    held := some t,
    cells := (List.range (t.g * t.n)).foldl (fun d e => setBits d (32 * e) 32 (c.flatBits t.vd 32 e)) 0 }

/-- drain (R132): the cells written into their group, tags kept, and the hold released. -/
def Ctx.drain (c : Ctx) : Ctx :=
  match c.regs.arr.held with
  | none => c
  | some t =>
    let c1 := (List.range (t.g * t.n)).foldl (fun c' e => c'.flatPut t.vd e (getBits c.regs.arr.cells (32 * e) 32)) c
    c1.updArr fun a => { a with held := none }

/-- A drain that MODE or MDRAIN begins: DRAINING stays 1 until DRAIN_COMPLETE, or until a word waits for it (R125). -/
def Ctx.startDrain (c : Ctx) : Ctx :=
  if c.regs.arr.held.isNone then c else c.drain.updArr fun a => { a with draining := c.regs.arr.held }

/-- R134: the tile held with every cell zero, and the tag of its span. -/
def Ctx.holdZero (c : Ctx) (t : Tile) (ty : Ety) : Ctx :=
  (c.tagRegs ty t.vd (c.tileSpan t)).updArr fun a => { a with held := some t, cells := 0 }

/-! ### Cell steps (R71) -/

/-- Step alignment of k for a pair of operand types (Table 7-3); none for a pair that the table does not list. -/
def pairStep (a b : Ety) : Option Nat :=
  match a, b with
  | .bf16, .bf16 => some 1 | .fp16, .fp16 => some 1
  | .e4m3, .e4m3 => some 2 | .e4m3, .e5m2 => some 2 | .e5m2, .e4m3 => some 2 | .e5m2, .e5m2 => some 2
  | .se7, .se7 => some 2 | .i8, .i8 => some 2
  | .se2, .se2 => some 4 | .se4, .se4 => some 4
  | _, _ => none

/-- R71: one step of a cell over the products of x k and y k; the sum is exact and rounded once. int: the products of an SE2 or SE4
step form one integer, so that a zero sum of them is +0. DEDUCED (log 66): the terms are added from the accumulator on, so that a NaN
accumulator absorbs products +∞ and −∞ with no NV (R54 has an input NaN raise no flag). -/
def cellStep (int : Bool) (ks : List Nat) (x y : Nat → Exact) (c : Nat) : Nat × Flags :=
  let ps := ks.map fun k => (x k).mul (y k)
  let start := if int then Exact.zero false else Ety.fp32.fmt.decode c
  let s := ps.foldl (fun (a : Exact × Flags) p =>
    let r := a.1.add .rne p.1
    (r.1, a.2 ||| p.2 ||| r.2)) (start, fNone)
  let t := if int then (Ety.fp32.fmt.decode c).add .rne s.1 else (s.1, fNone)
  let r := roundFloat Ety.fp32.fmt .rne false false t.1
  (r.1, s.2 ||| t.2 ||| r.2)

/-- R71: one step of an I8 cell, modulo 2^32. -/
def cellStepInt (ks : List Nat) (x y : Nat → Int) (c : Nat) : Nat :=
  bitsOfInt 32 (ks.foldl (fun a k => a + x k * y k) (sintOf 32 c))

/-- The operands of an MMA: M, N, K, the types, and the sources of A[i][k] and B[k][j] as values and as integers. -/
structure MmaIn where
  m  : Nat
  n  : Nat
  k  : Nat
  ta : Ety
  tb : Ety
  a  : Nat → Nat → Exact
  b  : Nat → Nat → Exact
  ai : Nat → Nat → Int
  bi : Nat → Nat → Int

/-- Step alignment of an MMA. -/
def MmaIn.step (x : MmaIn) : Nat := (pairStep x.ta x.tb).getD 1

/-- The products of the step at k, within the k range. -/
def MmaIn.ks (x : MmaIn) (k : Nat) : List Nat := countFrom k (min x.step (x.k - k))

/-- One step of cell (i, j) at k. -/
def MmaIn.cell (x : MmaIn) (i j k c : Nat) : Nat × Flags :=
  if x.ta == .i8 then (cellStepInt (x.ks k) (x.ai i) (fun q => x.bi q j) c, fNone)
  else cellStep (x.ta == .se2 || x.ta == .se4) (x.ks k) (x.a i) (fun q => x.b q j) c

/-- Flags of a step of the MMA at the PC. -/
def Ctx.addMmaFlags (c : Ctx) (f : Flags) : Ctx := c.updArr fun a => { a with part := a.part ||| f }

/-- The MMA at the PC retires: the flags of its steps reach VFLAGS when it finishes (R68, R408). -/
def Ctx.mmaRetired (c : Ctx) : Ctx :=
  c.updArr fun a => { a with mmaFlags := some (a.mmaFlags.getD 0 ||| a.part), part := 0 }

/-- One RS step at k over every cell. -/
def Ctx.rsStep (c : Ctx) (x : MmaIn) (k : Nat) : Ctx :=
  let r := (List.range (x.m * x.n)).foldl (fun (d : BitVec 131072 × Flags) e =>
    let q := x.cell (e / x.n) (e % x.n) k (getBits d.1 (32 * e) 32)
    (setBits d.1 (32 * e) 32 q.1, d.2 ||| q.2)) (c.regs.arr.cells, fNone)
  (c.updArr fun a => { a with cells := r.1 }).addMmaFlags r.2

/-- Every step of accumulator (i, j), in ascending k. -/
def MmaIn.column (x : MmaIn) (i j c : Nat) : Nat × Flags :=
  (List.range ((x.k + x.step - 1) / x.step)).foldl (fun (d : Nat × Flags) q =>
    let r := x.cell i j (q * x.step) d.1
    (r.1, d.2 ||| r.2)) (c, fNone)

/-- One WS row i: every accumulator of the row. -/
def Ctx.wsRow (c : Ctx) (x : MmaIn) (vd i : Nat) : Ctx :=
  (List.range x.n).foldl (fun c j =>
    let q := x.column i j (c.flatBits vd 32 (i * x.n + j))
    (c.flatPut vd (i * x.n + j) q.1).addMmaFlags q.2) c

/-! ### Operands and checks of MMA (R132, R407) -/

/-- K of an MMA: VL in RS, the weights' K in WS. -/
def Ctx.mmaK (c : Ctx) : Nat :=
  if c.regs.arr.mode = 2 then c.vl else match c.regs.arr.weights with | some w => w.k | none => 0

/-- Tb: the tag of VB in RS, the weights' type in WS. -/
def Ctx.mmaTb (c : Ctx) (b : FmtX) : Ety :=
  if c.regs.arr.mode = 2 then (c.getV b.vb.toNat).ty else match c.regs.arr.weights with | some w => w.ty | none => .invalid

/-- The value of weight element e. -/
def Weights.val (w : Weights) (e : Nat) : Exact :=
  if w.ty.isSE then seValue w.ty (w.scales.extractLsb' (20 * (e / 16)) 20) (e % 16) (getBits w.data (8 * e) 8)
  else elemValue w.ty false (getBits w.data (w.ty.width * e) w.ty.width)

/-- The operands of an MMA of context c, with A of context ca at register va. -/
def mmaIn (ca : Ctx) (va : Nat) (c : Ctx) (b : FmtX) : MmaIn :=
  let k := c.mmaK
  let ta := (ca.getV va).ty
  let tb := c.mmaTb b
  let vb := b.vb.toNat
  { m := b.rows, n := b.cols, k := k, ta := ta, tb := tb,
    a := fun i q => ca.flatVal ta va (i * k + q),
    b := fun q j =>
      if c.regs.arr.mode = 2 then c.flatVal tb vb (j * k + q)
      else match c.regs.arr.weights with | some w => w.val (j * k + q) | none => Exact.zero false,
    ai := fun i q => sintOf 8 (ca.flatBits va 8 (i * k + q)),
    bi := fun q j =>
      if c.regs.arr.mode = 2 then sintOf 8 (c.flatBits vb 8 (j * k + q))
      else match c.regs.arr.weights with | some w => sintOf 8 (getBits w.data (8 * (j * k + q)) 8) | none => 0 }

/-- Position 0 of a rope, or no rope: the word's own VA is read (R140). -/
def Ctx.ownA (c : Ctx) : Bool := !c.regs.arr.roped || c.regs.arr.ropeP == 0

/-- The registers of the A span; none where VA is ignored. -/
def Ctx.aSpan (c : Ctx) (b : FmtX) : Nat :=
  if c.ownA then groupSpan c.len (b.rows * c.mmaK) ((c.getV b.va.toNat).ty.width) else 0

/-- The registers of the B span; none in WS. -/
def Ctx.bSpan (c : Ctx) (b : FmtX) : Nat :=
  if c.regs.arr.mode = 2 then groupSpan c.len (b.cols * c.mmaK) ((c.getV b.vb.toNat).ty.width) else 0

/-- A span that ends in the registers and carries its base's tag. -/
def Ctx.spanOk (c : Ctx) (v n : Nat) : Bool := decide (v + n ≤ c.count) && c.spanTag v n (c.getV v).ty

/-- Order 2 of Table 22-2. With no weights loaded no pair is formed, and order 4 follows. -/
def Ctx.mmaTypes (c : Ctx) (b : FmtX) : Bool :=
  (!c.ownA || c.spanOk b.va.toNat (c.aSpan b)) && (c.regs.arr.mode != 2 || c.spanOk b.vb.toNat (c.bSpan b)) &&
  ((c.regs.arr.mode == 1 && c.regs.arr.weights.isNone) ||
   (if c.ownA then (pairStep (c.getV b.va.toNat).ty (c.mmaTb b)).isSome else (pairStep (c.mmaTb b) (c.mmaTb b)).isSome))

/-- The checks of Table 22-2 in orders 1 to 6. -/
def Ctx.mmaCheckA (c : Ctx) (b : FmtX) : Option Cause :=
  let arr := c.regs.arr
  let tb := c.mmaTb b
  let a := (pairStep tb tb).getD 1
  let held (v n : Nat) := c.heldMeets v n
  let n := c.tileSpan b.tile
  if arr.mode = 0 then some .modeErr
  else if !c.mmaTypes b then some .type_
  else if (tb.isSE && c.mmaK % 16 != 0) || (arr.mode == 2 && c.vstart % a != 0) then some .vlRange
  else if arr.mode == 1 && (match arr.weights with | none => true | some w => w.n != b.cols) then some .modeErr
  else if held b.va.toNat (c.aSpan b) || held b.vb.toNat (c.bSpan b) then some .arrayHeld
  else if spansMeet b.vd.toNat n b.va.toNat (c.aSpan b) || spansMeet b.vd.toNat n b.vb.toNat (c.bSpan b) then some .modeErr
  else none

/-- The checks of Table 22-2 in orders 8 and 9. -/
def Ctx.mmaCheckC (c : Ctx) (b : FmtX) : Option Cause :=
  let arr := c.regs.arr
  let n := c.tileSpan b.tile
  let fresh := arr.mode == 1 || arr.held != some b.tile
  if arr.mode == 2 && fresh && c.heldMeets b.vd.toNat n then some .arrayHeld
  else if fresh && !(decide (b.vd.toNat + n ≤ c.count) && c.spanTag b.vd.toNat n (if c.mmaTb b == .i8 then .i32 else .fp32)) then
    some .type_
  else none

/-- The checks of Table 22-2 but for order 7. -/
def Ctx.mmaCheck (c : Ctx) (b : FmtX) : Option Cause :=
  match c.mmaCheckA b with
  | some k => some k
  | none => c.mmaCheckC b

/-- A tile that is not held yet is drained for and loaded (R132). -/
def Ctx.holdTile (c : Ctx) (b : FmtX) : Ctx :=
  if c.regs.arr.held = some b.tile then c else c.drain.loadTile b.tile

/-- R125: the drain that an MMA of b waits for: of a group that holds a register of one of its spans. -/
def Ctx.mmaAwait (c : Ctx) (b : FmtX) : Ctx :=
  ((c.awaitDrain b.va.toNat (c.aSpan b)).awaitDrain b.vb.toNat (c.bSpan b)).awaitDrain b.vd.toNat (c.tileSpan b.tile)

/-- R294, R136: the injection streams of an MMA fill landing slots 0 and 1, or slot 0 alone in WS; those of an MMA that follows another one still in
the array fill slots 2 and 3, or 2 alone. -/
def Ctx.fillStreams (c : Ctx) : Ctx :=
  let own : BitVec 4 := if c.regs.arr.mode = 2 then 3 else 1
  c.upd fun r => { r with dirty := { r.dirty with slots := r.dirty.slots ||| (if c.regs.arr.mmaFlags.isSome then own <<< 2 else own) } }

/-- An MMA that begins: it waits for a drain of its registers, its streams are filled, and with VSTART = 0 no step of it has been done.
DESIGN CHOICE (log 66): the flags of an MMA that a WATCHDOG cut and that never goes on are dropped there. -/
def Ctx.mmaBegin (c : Ctx) (b : FmtX) : Ctx :=
  (c.mmaAwait b).fillStreams.updArr fun a => { a with part := if c.vstart = 0 then 0 else a.part }

/-- One array step of an MMA at VSTART; the context, and whether it was the last. -/
def Ctx.mmaStep (c : Ctx) (b : FmtX) (x : MmaIn) : Ctx × Bool :=
  let v := c.vstart
  if c.regs.arr.mode = 2 then
    let c1 := c.holdTile b
    if x.k ≤ v then (c1.setVstart 0, true)
    else if x.k ≤ v + x.step then ((c1.rsStep x v).setVstart 0, true)
    else ((c1.rsStep x v).setVstart (v + x.step), false)
  else if x.m ≤ v then (c.setVstart 0, true)
  else if x.m ≤ v + 1 then ((c.wsRow x b.vd.toNat v).setVstart 0, true)
  else ((c.wsRow x b.vd.toNat v).setVstart (v + 1), false)

/-! ### Ropes (R139, R140) -/

/-- The core after another on a rope, by core key pairs of die and core number (R139). -/
def ropeNext (p : Nat × Nat) : Option (Nat × Nat) :=
  if p.2 + 1 < dieCores p.1 then some (p.1, p.2 + 1) else if p.1 < 4 then some (p.1 + 4, 0) else none

/-- The core before another on a rope. -/
def ropePrev (p : Nat × Nat) : Option (Nat × Nat) :=
  if p.2 ≠ 0 then some (p.1, p.2 - 1) else if 4 ≤ p.1 then some (p.1 - 4, dieCores (p.1 - 4) - 1) else none

/-- n steps along a chain. -/
def ropeWalk (f : Nat × Nat → Option (Nat × Nat)) : Nat → Nat × Nat → Option (Nat × Nat)
  | 0, p => some p
  | n + 1, p => (f p).bind (ropeWalk f n)

/-- The core of position q of the chain on which slot k stands at position p. -/
def chainCore (k p q : Nat) : Option (Nat × Nat) :=
  if p ≤ q then ropeWalk ropeNext (q - p) (slotDie k, slotCore k) else ropeWalk ropePrev (p - q) (slotDie k, slotCore k)

/-- A ROPE issued at tick `since` has not yet waited for more than 4,096 ticks (R139). -/
def ropeFresh (tick since : Nat) : Bool := decide (tick ≤ since + 4096)

/-- The context waits in ROPE L, q, in the team of (vf, node), at most 4,096 ticks after its issue. -/
def Ctx.waitsRope (c : Ctx) (tick vf : Nat) (node : BitVec 32) (l q : Nat) : Bool :=
  c.bind.st == .run && c.launch.team && c.launch.vf == vf && c.launch.team32 == node &&
  (match c.wait with | .rope l' q' t => l' == l && q' == q && ropeFresh tick t | _ => false)

/-- The slot of a core whose context waits at position q. -/
def State.ropeAt (s : State) (c : Ctx) (core : Nat × Nat) (l q : Nat) : Option Nat :=
  [slotIndex core.1 core.2 0, slotIndex core.1 core.2 1].find? fun k => (s.slot k).waitsRope s.tick c.launch.vf c.launch.team32 l q

/-- The slots at positions 0 to L − 1 of the chain of slot k at position p, where each has a waiting context. -/
def State.ropeMembers (s : State) (k l p : Nat) : Option (List Nat) :=
  (List.range l).mapM fun q => (chainCore k p q).bind fun core => s.ropeAt (s.slot k) core l q

/-- The waiting contexts of the chain of slot k at position p. -/
def State.ropeWaiting (s : State) (k l p : Nat) : List Nat :=
  (List.range l).filterMap fun q => (chainCore k p q).bind fun core => s.ropeAt (s.slot k) core l q

/-- A rope is dissolved for all its members; an MMA that still waits raises MODE_ERR (R428). -/
def State.dissolve (s : State) (id : Nat) : State :=
  let f := fun (r : Regs) =>
    if r.arr.roped && r.arr.ropeId == id then
      { r with arr := { r.arr with roped := false, ropeL := 0, ropeP := 0, ropeId := 0 } } else r
  let s1 := s.mapSlots fun _ c =>
    let w := match c.wait with
      | .ropeMma _ => if c.regs.arr.roped && c.regs.arr.ropeId == id then .modeErr else c.wait
      | w => w
    { c with regs := f c.regs, wait := w }
  { s1 with members := s1.members.map fun p => (p.1, { p.2 with regs := f p.2.regs }) }

/-- The context of slot k leaves its rope, if it has one. -/
def State.leaveRope (s : State) (k : Nat) : State :=
  let a := (s.slot k).regs.arr
  if a.roped then s.dissolve a.ropeId else s

/-- The word at the PC of a context that waits in ROPE or a roped MMA retires: it writes no register. -/
def Ctx.retireHere (c : Ctx) : Ctx := (c.retire 0).endTest 5 c.regs.pc

/-- The rope forms (R139): every member has its position, and the waiting ROPEs retire; the focused one retires with its word. -/
def State.formRope (s : State) (l : Nat) (ks : List Nat) : State :=
  let id := (s.slot (ks.headD 0)).launch.uid
  (ks.zip (List.range ks.length)).foldl (fun s kp =>
    s.updSlot kp.1 fun c =>
      let c1 := c.updArr fun a => { a with roped := true, ropeL := l, ropeP := kp.2, ropeId := id }
      if kp.1 = s.cur then c1 else c1.retireHere) s

/-- R428: a ROPE that waits: it retires with the others, has no chain of rope-next cores, or waits on. -/
def ropeTry (l p : Nat) (s : State) : WR State :=
  if (List.range l).any fun q => (chainCore s.cur p q).isNone then .trapW s .modeErr
  else match s.ropeMembers s.cur l p with
    | some ks => .done (s.formRope l ks)
    | none => .stall s

/-- R139: 4,096 ticks after its issue, every waiting member of the chain raises MODE_ERR. -/
def State.ropeExpire (s : State) (k : Nat) : State :=
  match (s.slot k).wait with
  | .rope l p since =>
    if s.tick < since + 4096 then s
    else (k :: s.ropeWaiting k l p).foldl (fun s j => s.updSlot j fun c => { c with wait := .modeErr }) s
  | _ => s

/-- R428: ROPE. -/
def ropeBody (b : FmtX) (s : State) : WR State :=
  match s.ctx.wait with
  | .modeErr => .trapW s .modeErr
  | .rope l p t => if ropeFresh s.tick t then ropeTry l p s else .trapW (s.ropeExpire s.cur) .modeErr
  | _ =>
    if s.ctx.regs.arr.mode = 0 then .trapW s .modeErr
    else
      let s1 := s.leaveRope s.cur
      if b.ropeL = 1 then .done s1
      else ropeTry b.ropeL b.ropeP (s1.updCtx fun c => { c with wait := .rope b.ropeL b.ropeP s.tick })

/-- The slots of the members of a rope. -/
def State.ropeSlots (s : State) (id : Nat) : List Nat :=
  (s.slots.filter fun p => p.2.regs.arr.roped && p.2.regs.arr.ropeId == id).map (·.1)

/-- The MMA fields with which a member waits. -/
def Ctx.ropeWord (c : Ctx) : Option FmtX := match c.wait with | .ropeMma b => some b | _ => none

/-- R140: the members of a rope agree in mode, G, K and A type: position 0's A, with the B of each, is a pair of Table 7-3. DESIGN CHOICE (log 76):
a member past position 0 whose B forms no such pair raises MODE_ERR at every member, as any other disagreement does, and not TYPE; R140 says
neither. -/
def State.ropeAgrees (s : State) (ks : List Nat) (c0 : Ctx) (b0 : FmtX) : Bool :=
  ks.all fun k =>
    let c := s.slot k
    match c.ropeWord with
    | none => false
    | some b =>
      c.regs.arr.mode == c0.regs.arr.mode && b.g == b0.g && c.mmaK == c0.mmaK &&
      (pairStep (c0.getV b0.va.toNat).ty (c.mmaTb b)).isSome

/-- The step at VSTART is the last of the MMA. -/
def Ctx.mmaLast (c : Ctx) (x : MmaIn) : Bool :=
  if c.regs.arr.mode = 2 then decide (x.k ≤ c.vstart + x.step) else decide (x.m ≤ c.vstart + 1)

/-- One step of a member of a roped MMA with position 0's A. -/
def Ctx.ropeStep (c0 : Ctx) (b0 : FmtX) (c : Ctx) : Ctx :=
  match c.ropeWord with
  | some b => (c.mmaStep b (mmaIn c0 b0.va.toNat c b)).1
  | none => c

/-- One step of a roped MMA of which every member has issued (R140): the members at the lowest VSTART make theirs, so that a save finds all
at one k0; with the last step every member retires. -/
def State.ropeRun (s : State) (ks : List Nat) (c0 : Ctx) (b0 : FmtX) : WR State :=
  let v := ks.foldl (fun m k => min m (s.slot k).vstart) c0.vstart
  let last := ks.any fun k =>
    let c := s.slot k
    c.vstart == v && (match c.ropeWord with | some b => c.mmaLast (mmaIn c0 b0.va.toNat c b) | none => false)
  let others := ks.filter (· != s.cur)
  if last then
    .done ((others.foldl (fun s k => s.updSlot k fun c => (c0.ropeStep b0 c).mmaRetired.retireHere) s).updCtx fun c =>
      (c0.ropeStep b0 c).mmaRetired)
  else .stall (ks.foldl (fun s k => s.updSlot k fun c => if c.vstart = v then c0.ropeStep b0 c else c) s)

/-- R140: a roped MMA at the PC. Once every member has issued, the rope checks come (order 7 of Table 22-2), and then each member's orders 8 and
9. DEDUCED (log 66): a member that fails one of these traps alone, and the others wait until it issues its MMA again. -/
def State.ropeMma (s : State) : WR State :=
  let a := s.ctx.regs.arr
  let ks := s.ropeSlots a.ropeId
  if !(decide (ks.length = a.ropeL) && ks.all fun k => (s.slot k).ropeWord.isSome) then .stall s
  else match ks.find? fun k => (s.slot k).regs.arr.ropeP == 0 with
  | none => .stall s
  | some k0 =>
    let c0 := s.slot k0
    let b0 := (c0.ropeWord).getD ⟨0, 0, 0, 0, 0, 0, 0, 0⟩
    let check := fun (c : Ctx) => match c.ropeWord with | some b => c.mmaCheckC b | none => none
    if !s.ropeAgrees ks c0 b0 then
      .trapW ((ks.filter (· != s.cur)).foldl (fun s k => s.updSlot k fun c => { c with wait := .modeErr }) s) .modeErr
    else match check s.ctx with
    | some k => .trapW s k
    | none => if ks.any fun k => (check (s.slot k)).isSome then .stall s else s.ropeRun ks c0 b0

/-- The next step of an MMA without a rope. -/
def mmaGo (b : FmtX) (s : State) : WR State :=
  let r := s.ctx.mmaStep b (mmaIn s.ctx b.va.toNat s.ctx b)
  if r.2 then .done { s with ctx := r.1.mmaRetired } else .stall { s with ctx := { r.1 with wait := .mma } }

/-- R132, R407: MMA. -/
def mmaBody (b : FmtX) (s : State) : WR State :=
  let c := s.ctx
  match c.wait with
  | .modeErr => .trapW s .modeErr
  | .mma => mmaGo b s
  | .ropeMma _ => s.ropeMma
  | _ =>
    if c.regs.arr.roped then
      match c.mmaCheckA b with
      | some k => .trapW s k
      | none => (s.updCtx fun c => { c.mmaBegin b with wait := .ropeMma b }).ropeMma
    else match c.mmaCheck b with
      | some k => .trapW s k
      | none => mmaGo b (s.updCtx fun c => c.mmaBegin b)

/-! ### MODE (R125, R126) -/

/-- R127: the array of a core has power: granted, or in VEC for at most 256 cycles. -/
def ArrPower.on (p : ArrPower) (tick : Nat) : Bool :=
  match p with
  | .granted _ => true
  | .idle t => decide (tick ≤ t + 256)
  | _ => false

/-- A core joins the die's power queue, once (R127). -/
def State.askPower (s : State) (k : Nat) : State :=
  let n := coreKey k
  let c := s.core n
  match c.power with
  | .requested _ => s
  | _ =>
    (s.setCore n { c with power := .requested s.tick }).updDie (slotDie k) fun d => { d with arrQueue := d.arrQueue ++ [n] }

/-- R124: of two slots that stand at a MODE WS or MODE RS, the one that did not own the array most recently takes it. -/
def Core.loses (c : Core) (side : Nat) : Bool :=
  c.asking == 3 && (match c.lastOwner with | some o => o == (side == 1) | none => side == 1)

/-- The slot's mark of standing at a MODE WS or MODE RS. -/
def State.ask (s : State) (k : Nat) (v : Bool) : State :=
  let c := s.core (coreKey k)
  s.setCore (coreKey k) { c with asking := setBits c.asking (slotSide k) 1 (if v then 1 else 0) }

/-- R125: the array is owned in mode t by slot k, with no tile and no weights. -/
def State.own (s : State) (k t : Nat) : State :=
  let c := s.core (coreKey k)
  let s1 := s.setCore (coreKey k) { c with
    lastOwner := some (slotSide k == 1), asking := setBits c.asking (slotSide k) 1 0,
    power := (match c.power with | .idle _ => .granted s.tick | p => p) }
  s1.updSlot k fun c => c.updArr fun a => { a with mode := t, held := none, weights := none }

/-- The array of slot k returns to VEC, with power kept (R127); its weights are discarded. The tile has been drained. -/
def State.disown (s : State) (k : Nat) : State :=
  if (s.slot k).regs.arr.mode = 0 then s
  else
    let s1 := s.leaveRope k
    let s2 := s1.setCore (coreKey k) { s1.core (coreKey k) with power := .idle s.tick }
    s2.updSlot k fun c => c.updArr fun a => { a with mode := 0, held := none, weights := none }

/-- Vector tags in ascending number. -/
def Ctx.vtags (c : Ctx) : List Nat := (countFrom 1 15).filter fun t => (c.getTag t).vec

/-- R125: the lowest failed vector tag. -/
def Ctx.failedVtag (c : Ctx) : Option (Nat × TagFail) :=
  c.vtags.findSome? fun t => match (c.getTag t).st with | .failed f => some (t, f) | _ => none

/-- R125: MODE WS or MODE RS from VEC, once the vector tags have committed. -/
def takeArray (t : Nat) (s : State) : WR State :=
  let s1 := s.ask s.cur true
  let core := s1.core (coreKey s.cur)
  let mate := s.slot (slotMate s.cur)
  if mate.regs.arr.mode ≠ 0 || (mate.runs && core.loses (slotSide s.cur)) then .stall s1
  else if core.power.on s.tick then .done (s.own s.cur t)
  else .stall (s1.askPower s.cur)

/-- R125: a MODE WS or MODE RS that has passed its issue checks and stops there, before the commits of step 1 of R80: a vector tag is partial, or, with
every pending one landed, one has failed. -/
def State.modeStop (s : State) : Option (WR State) :=
  let c := s.ctx
  if c.vtags.any fun g => (c.getTag g).isPartial then some (.trapW (s.ask s.cur false) .modeErr)
  else if c.regs.arr.mode ≠ 0 then none
  else if c.vtags.any c.tagBusy then some (.stall s)
  else
    let c1 := c.vtags.foldl Ctx.land c
    c1.failedVtag.map fun x =>
      .trap ({ s with ctx := c1.setTag x.1 { c1.getTag x.1 with st := .empty } }.ask s.cur false) x.2.cause (mInfo0 x.2.off.toNat)
        (mInfo1 x.2.buf x.2.creg.toNat)

/-- R125: MODE WS (1) and MODE RS (2). -/
def modeArrBody (t : Nat) (s : State) : WR State :=
  let c := s.ctx
  if c.regs.arr.mode = t then .done s
  else if c.regs.arr.mode ≠ 0 then
    .done (s.updCtx fun c => c.finishMma.startDrain.updArr fun a => { a with mode := t, weights := none })
  else
    let c1 := c.vtags.foldl Ctx.land c
    takeArray t { s with ctx := (c1.vtags.foldl Ctx.commit c1).awaitDrains (c.vtags.map fun g => (c.getTag g).dst.toNat) }

/-- A MODE WS or MODE RS at the PC: it may stop where it would begin. -/
def runMode (w : Issue) (t : Nat) (s : State) : Host.Outcome State Fault Refusal :=
  match (if s.ctx.runs ∧ s.ctx.wait = .none_ ∧ issueCheck w s.ctx = none then s.modeStop else none) with
  | some r => finish w r
  | none => runWord w (modeArrBody t) s

/-- R125: MODE VEC. -/
def modeVecBody (s : State) : WR State :=
  if s.ctx.regs.arr.mode = 0 then .done s
  else .done ((s.updCtx fun c => c.finishMma.startDrain).disown s.cur)

/-! ### MWLD, MDRAIN, MZERO, MSTAT -/

/-- R418: the weights read from a group. -/
def Ctx.loadWeights (c : Ctx) (vb k n : Nat) (t : Ety) : Ctx :=
  let cap := c.capacity t
  let data := (List.range (k * n)).foldl (fun (d : BitVec 65536) e => setBits d (t.width * e) t.width (c.flatBits vb t.width e)) 0
  let scales := if t.isSE then
      (List.range (k * n / 16)).foldl (fun (d : BitVec 10240) j =>
        setBits d (20 * j) 20 ((c.getV (vb + 16 * j / cap)).scale (16 * j % cap / 16)).toNat) 0
    else 0
  c.updArr fun a => { a with weights := some ⟨t, k, n, data, scales⟩ }

/-- R418: MWLD, with K − 1 in G and N − 1 in N. -/
def mwldCtx (b : FmtX) (c : Ctx) : WR Ctx :=
  let t := (c.getV b.vb.toNat).ty
  if c.regs.arr.mode ≠ 1 then .trapW c .modeErr
  else if c.vstart ≠ 0 then .trapW c .vlRange
  else if (pairStep t t).isNone || !c.spanOk b.vb.toNat (groupSpan c.len (b.rows * b.cols) t.width) then .trapW c .type_
  else if t.isSE && b.rows % 16 != 0 then .trapW c .vlRange
  else .done ((c.finishMma.awaitDrain b.vb.toNat (groupSpan c.len (b.rows * b.cols) t.width)).loadWeights b.vb.toNat b.rows b.cols t)

/-- R405: MDRAIN. -/
def mdrainCtx (b : FmtX) (c : Ctx) : WR Ctx :=
  if c.regs.arr.mode = 0 then .trapW c .modeErr
  else if c.regs.arr.mode = 1 then .done c
  else match c.regs.arr.held with
    | none => .done c
    | some t => if t = b.tile then .done c.finishMma.startDrain else .trapW c .arrayHeld

/-- R419: MZERO. -/
def mzeroCtx (b : FmtX) (c : Ctx) : WR Ctx :=
  let n := c.tileSpan b.tile
  let t : Ety := if (c.getV b.vd.toNat).ty.isInt then .i32 else .fp32
  if c.regs.arr.mode = 0 then .trapW c .modeErr
  else if c.count < b.vd.toNat + n then .trapW c .type_
  else if c.regs.arr.mode = 2 then
    if c.regs.arr.held != some b.tile && c.heldMeets b.vd.toNat n then .trapW c .arrayHeld
    else .done ((c.finishMma.awaitDrain b.vd.toNat n).drain.holdZero b.tile t)
  else
    let c1 := (List.range (b.rows * b.cols)).foldl (fun c e => c.flatPut b.vd.toNat e 0) (c.awaitDrain b.vd.toNat n)
    .done (c1.tagRegs t b.vd.toNat n)

/-- The rope of slot k crosses a Y link: its cores stand on two dies (R139, R141). -/
def ropeCrosses (k l p : Nat) : Bool :=
  if slotDie k < 4 then decide (dieCores (slotDie k) ≤ slotCore k - p + (l - 1)) else decide (slotCore k < p)

/-- R141: MSTAT's selectors. -/
def mstatValue (k : Nat) (c : Ctx) (sel : Nat) : Nat :=
  let a := c.regs.arr
  if sel = 0 then
    c.modeState + (match a.held with | some t => 2 ^ 4 + t.vd * 2 ^ 8 + (t.g - 1) * 2 ^ 16 + (t.n - 1) * 2 ^ 24 | none => 0)
  else if sel = 1 then
    match a.weights with
    | some w => 1 + w.ty.tag * 2 ^ 4 + (w.k - 1) * 2 ^ 8 + (w.n - 1) * 2 ^ 16
    | none => 0
  else if sel = 2 then
    if a.roped then a.ropeL + a.ropeP * 2 ^ 4 + (if ropeCrosses k a.ropeL a.ropeP then 2 ^ 8 else 0) else 0
  else 4096 + 256 * 2 ^ 16

/-! ### The words -/

/-- The vector registers that an MMA names in its context's mode: WS ignores VB (R406), and a rope member beyond position 0 its VA
(R140). -/
def mmaRegs (b : FmtX) (c : Ctx) : List (BitVec 6) :=
  [b.vd] ++ (if c.ownA then [b.va] else []) ++ (if c.regs.arr.mode = 1 then [] else [b.vb])

/-- R410: MODE VEC. -/
def execModeVec (h : Hdr) (b : FmtX) (s : State) : Host.Outcome State Fault Refusal :=
  runWord (issueX 0xC0 h b 0 [] .other) modeVecBody s

/-- R410: MODE WS. -/
def execModeWs (h : Hdr) (b : FmtX) (s : State) : Host.Outcome State Fault Refusal :=
  runMode (issueX 0xC0 h b 0 [] .modeArr) 1 s

/-- R410: MODE RS. -/
def execModeRs (h : Hdr) (b : FmtX) (s : State) : Host.Outcome State Fault Refusal :=
  runMode (issueX 0xC0 h b 0 [] .modeArr) 2 s

/-- R406: MMA. -/
def execMma (h : Hdr) (b : FmtX) (s : State) : Host.Outcome State Fault Refusal :=
  runWord (issueX 0xC1 h b 0 (mmaRegs b s.ctx) .matrix) (mmaBody b) s

/-- R418: MWLD. -/
def execMwld (h : Hdr) (b : FmtX) (s : State) : Host.Outcome State Fault Refusal :=
  runWord (issueX 0xC2 h b 0 [b.vb] .matrix) (onCtx (mwldCtx b)) s

/-- R405: MDRAIN. -/
def execMdrain (h : Hdr) (b : FmtX) (s : State) : Host.Outcome State Fault Refusal :=
  runWord (issueX 0xC3 h b 0 [b.vd] .matrix) (onCtx (mdrainCtx b)) s

/-- R419: MZERO. -/
def execMzero (h : Hdr) (b : FmtX) (s : State) : Host.Outcome State Fault Refusal :=
  runWord (issueX 0xC4 h b 0 [b.vd] .matrix) (onCtx (mzeroCtx b)) s

/-- R428: ROPE. -/
def execRope (h : Hdr) (b : FmtX) (s : State) : Host.Outcome State Fault Refusal :=
  runWord (issueX 0xC5 h b 0 [] .matrix) (ropeBody b) s

/-- R416: MSTAT. -/
def execMstat (h : Hdr) (b : FmtX) (s : State) : Host.Outcome State Fault Refusal :=
  runWord (issueX 0xC8 h b b.vd [] .mstat)
    (onCtx fun c => .done (c.setS b.vd (BitVec.ofNat 64 (mstatValue s.cur c b.imm.toNat)))) s

end Sys2Proof.Machine
end

