-- ==== Sys2Proof/Machine/EvCore.lean ====
section
/-! DEFINITION. Machine/EvCore.lean: the events of a core: tag arrival, the array, ropes, pool moves, the level-one data cache, resending,
the region wrap and the watchdog (02 R42, R49; 07 R125, R127, R139, R408; 08 R147, R162; 09 R193; 15 R297, R298). -/

namespace Sys2Proof.Machine

/-- TAG_ARRIVAL (R42): a pending tag whose result is complete lands. -/
def execTagArrival (k t : Nat) (s : State) : Host.Outcome State Fault Refusal :=
  .next (s.updSlot k fun c => if c.tagBusy t then c else c.land t)

/-- DRAIN_COMPLETE (R125): the last word of a drain is in its group. -/
def execDrainComplete (k : Nat) (s : State) : Host.Outcome State Fault Refusal :=
  .next (s.updSlot k Ctx.endDrain)

/-- MMA_FINISH (R408): the step flags of the context's earlier MMAs reach VFLAGS. -/
def execMmaFinish (k : Nat) (s : State) : Host.Outcome State Fault Refusal := .next (s.updSlot k Ctx.finishMma)

/-- R127: the core at the head of a die's queue receives power, at most one every 8 cycles, and none in a cycle that gives a start grant (R351). -/
def State.grantPower (s : State) (d : Nat) : State :=
  match (s.die d).arrQueue with
  | [] => s
  | n :: l =>
    if (s.tick < (s.die d).arrGrant + 8 && (s.die d).arrGrant != 0) || ((s.die d).ceGrant == s.tick && s.tick != 0) then s
    else (s.updDie d fun x => { x with arrQueue := l, arrGrant := s.tick }).setCore n { s.core n with power := .granted s.tick }

/-- ARRAY_POWER_GRANT (R127). -/
def execArrayPowerGrant (die : Nat) (s : State) : Host.Outcome State Fault Refusal := .next (s.grantPower die)

/-- R127: an array that no context owns loses power 256 cycles after it returned to VEC, or after a grant that nobody took. -/
def State.powerDown (s : State) (n : Nat) : State :=
  let c := s.core n
  let free := (s.slot (2 * n)).regs.arr.mode == 0 && (s.slot (2 * n + 1)).regs.arr.mode == 0
  match c.power with
  | .idle t => if free && decide (t + 256 < s.tick) then s.setCore n { c with power := .off } else s
  | .granted t => if free && decide (t + 256 < s.tick) then s.setCore n { c with power := .off } else s
  | _ => s

/-- ARRAY_POWER_DOWN (R127) of a core of a die. -/
def execArrayPowerDown (die core : Nat) (s : State) : Host.Outcome State Fault Refusal :=
  .next (s.powerDown (coreKey (slotIndex die core 0)))

/-- ROPE_TIMEOUT (R139). -/
def execRopeTimeout (k : Nat) (s : State) : Host.Outcome State Fault Refusal := .next (s.ropeExpire k)

/-- POOL_MOVE (R49): the move of a context's pool parts ends. -/
def execPoolMove (k : Nat) (s : State) : Host.Outcome State Fault Refusal := .next (s.updSlot k fun c => { c with moving := false })

/-- L1D_LINE_EXPIRY (R147): a line is dropped 65,536 cycles after its fill. -/
def execL1dLineExpiry (die core line : Nat) (s : State) : Host.Outcome State Fault Refusal :=
  let n := coreKey (slotIndex die core 0)
  .next (match tabFind line (s.core n).l1d with
    | some x => if x.fill + 65536 ≤ s.tick then s.setCore n { s.core n with l1d := tabDel line (s.core n).l1d } else s
    | none => s)

/-- ACK_TIMEOUT (R193, R195). -/
def execAckTimeout (r : Nat) (s : State) : Host.Outcome State Fault Refusal := .next (s.ackTimeout r)

/-- REGION_WRAP_RESUME (R162): every home clears the stamps of a stalled context, which then goes on. -/
def execRegionWrapResume (k : Nat) (s : State) : Host.Outcome State Fault Refusal :=
  .next (match (s.slot k).wait with
    | .regionWrap false => (s.clearStamps k).updSlot k fun c => { c with wait := .regionWrap true }
    | _ => s)

/-! ### The watchdog (R297, R298) -/

/-- WDLEFT counts: running, unless the debug port halted the context, or waiting in a save (Table 15-6). -/
def Ctx.wdCounts (c : Ctx) : Bool := (c.bind.st == .run && !c.stopped) || c.bind.st == .save

/-- The access that the word at the PC waits for has passed the check of its home: nothing keeps the word from going on (R163, R356). -/
def Ctx.hasPassed (c : Ctx) : Bool :=
  match c.wait with
  | .check _ id => c.out.any fun x => match x with | .acc a => a.id == id && a.part.req.passed | .fence _ _ => false
  | _ => false

/-- WDLEFT has reached 0. A word that waits, for an answer too, is abandoned (R298). -/
def Ctx.wdDue (c : Ctx) : Bool := c.wdCounts && c.bind.wdleft == 0 && !c.hasPassed

/-- R298: a delivered WATCHDOG reloads WDLEFT with the limit. -/
def Ctx.takeWatchdog (c : Ctx) : Ctx :=
  let c1 := c.takeTrap .watchdog c.launch.wdLimit 0
  if c1.bind.st = .faulted then c1 else { c1 with bind := { c1.bind with wdleft := c.launch.wdLimit } }

/-- R298: WATCHDOG at the word where a context stands. -/
def State.watchdog (s : State) (k : Nat) : State :=
  if (s.slot k).wdDue then (s.ask k false).updSlot k Ctx.takeWatchdog else s

/-- WATCHDOG (R298). -/
def execWatchdog (k : Nat) (s : State) : Host.Outcome State Fault Refusal := .next (s.watchdog k)

end Sys2Proof.Machine
end

