-- ==== Sys2Proof/Machine/Nodes.lean ====
section
/-! DEFINITION. Machine/Nodes.lean: slots emptied and pool boundaries (02 R46 to R49), nodes, their records and completion (15 R281 to R288,
R299, R300; 16 R307, R308), and kernel headers (15 R284; 16 R310 to R313). -/

namespace Sys2Proof.Machine

/-! ### The pool (R46, R48, R49) -/

/-- Granules of 8 KiB of a slot's vector and scratchpad allotments; a slot with no bound context has none. -/
def Ctx.granules (c : Ctx) : Nat × Nat := if c.bind.st = .free then (0, 0) else (c.launch.vregKiB / 8, c.launch.scrKiB / 8)

/-- First granules of the parts of a slot of core n, where it has parts. -/
def State.partStart (s : State) (n side : Nat) : Option Nat × Option Nat :=
  let a := (s.slot (2 * n)).granules
  let b := (s.slot (2 * n + 1)).granules
  let own := if side = 0 then a else b
  (if own.1 = 0 then none else some (if side = 0 then 0 else a.1),
   if own.2 = 0 then none else some (a.1 + b.1 + (if side = 0 then 0 else a.2)))

/-- The boundaries written for core n (R46, R48). A change of the level-one data cache's storage discards its lines (R49). -/
def State.boundaries (s : State) (n : Nat) : State :=
  let a := (s.slot (2 * n)).granules
  let b := (s.slot (2 * n + 1)).granules
  let b0 := a.1 + b.1
  let b1 := b0 + a.2 + b.2
  let b2 := b1 + min 32 (128 - b1)
  let c := s.core n
  let same := c.bounds.2 == (b1, b2)
  s.setCore n { c with
    poolb0 := BitVec.ofNat 8 b0, poolb1 := BitVec.ofNat 8 b1, poolb2 := BitVec.ofNat 8 b2, l1d := if same then c.l1d else [] }

/-- A bind or an unbind in slot k: the boundaries, and the move of the other slot's parts (R49). -/
def State.placeSlot (s : State) (k : Nat) (c : Ctx) : State :=
  let m := slotMate k
  let s1 := s.setSlot k c
  let moves := (s.slot m).bound && s.partStart (coreKey k) (slotSide m) != s1.partStart (coreKey k) (slotSide m)
  (s1.updSlot m fun c => { c with moving := c.moving || moves }).boundaries (coreKey k)

/-- An empty slot whose bind record keeps the fields beside STATE (Table 15-3). -/
def Ctx.emptied (c : Ctx) : Ctx := { Ctx.free with bind := { c.bind with st := .free } }

/-- A slot emptied: its array released, its rope left, its parts freed. -/
def State.unbind (s : State) (k : Nat) : State := ((s.disown k).ask k false).placeSlot k (s.slot k).emptied

/-- Every context, bound or saved, whose launch data satisfy p is discarded without a frame. -/
def State.dropMembers (s : State) (p : Launch → Bool) : State :=
  let ks := (s.slots.filter fun x => x.2.bind.st != .free && p x.2.launch).map (·.1)
  let s1 := ks.foldl State.unbind s
  let l := s1.members.filter fun x => !p x.2.launch
  { s1 with members := l, claims := s1.claims.filter fun x => (tabFind x.2.1 l).isSome }

/-! ### Nodes -/

def State.vf (s : State) (v : Nat) : VfState := tabGet VfState.zero s.vfs v
def State.updVf (s : State) (v : Nat) (f : VfState → VfState) : State := { s with vfs := tabSet VfState.zero v (f (s.vf v)) s.vfs }

/-- A node by its number. -/
def State.nodeOf (s : State) (nid : Nat) : Option Node := s.nodes.find? (·.nid == nid)

/-- The live node of a VF with an id: a queued one before a child (R283, R287). -/
def State.liveNode (s : State) (v : Nat) (id : BitVec 32) : Option Node :=
  match s.nodes.find? (fun n => n.vf == v && n.node == id && n.parent.isNone) with
  | some n => some n
  | none => s.nodes.find? fun n => n.vf == v && n.node == id

def State.updNode (s : State) (nid : Nat) (f : Node → Node) : State :=
  { s with nodes := s.nodes.map fun n => if n.nid = nid then f n else n }

/-- The launch data of a member, bound or not. -/
def State.launchOf (s : State) (uid : Nat) : Option Launch :=
  match s.slotOf uid with
  | some k => some (s.slot k).launch
  | none => (tabFind uid s.members).map (·.launch)

/-! ### Completion records (R300) -/

/-- What a completion record says. -/
structure Report where
  status : Nat
  cause  : Nat
  inst   : Nat
  pc     : Nat
  info   : Word
  deriving DecidableEq, Repr

/-- A report with no fault. -/
def Report.plain (status : Nat) : Report := ⟨status, 0, 0xFFFFFFFF, 0, 0⟩

/-- Bytes 0x00 to 0x17 (Table 15-7). -/
def Report.bytes (r : Report) (node : BitVec 32) : List Byte :=
  bytesOf 4 node.toNat ++ bytesOf 2 r.status ++ bytesOf 2 (r.cause % 256) ++ bytesOf 4 r.inst ++ bytesOf 4 r.pc ++ bytesOf 8 r.info.toNat

/-- DONE (Table 15-7). -/
def doneBytes (tick : Nat) : List Byte := bytesOf 8 (2 ^ 63 + tick % 2 ^ 63)

/-- A belayed store of Basecamp at the home, off being its offset in a buffer: no die keeps a copy of the line. A line that no way takes (R251), or
that lies in a pending granule (R254), is written at its base die. -/
def State.homeWrite (s : State) (loc vf : Nat) (bs : List Byte) (e : Entry) (buf : BitVec 20) (off : Nat) : State :=
  let t := s.byteTag e buf loc off
  let s1 := (s.recall (lineOf loc)).homeFill loc vf t buf off
  if locKind loc = .dram ∧ (tabFind (lineOf loc) s1.homeLines).isNone then
    (throughReqs loc bs (BitVec.ofNat 7 e.key) buf off .none_).foldl State.bdSend s1
  else
    let s2 : State := if locKind loc = .dram then { s1 with lineBuf := tabPut (lineOf loc) (buf, off - loc % 128) s1.lineBuf } else s1
    s2.apply loc bs t

/-- A write of Basecamp to a home: one on another die has a number of Basecamp's, whose response the home keeps (R194). DESIGN CHOICE (log 71): it is
sent, applied and acknowledged in one step. -/
def State.farWrite (s : State) (loc vf : Nat) (bs : List Byte) (e : Entry) (buf : BitVec 20) (off : Nat) : State :=
  if homeDie loc = 0 then s.homeWrite loc vf bs e buf off
  else
    let q := s.numberReq { ctlReq 2 0 (homeDie loc) loc vf (s.vfPartition vf) none with
      bel := true, size := bs.length, data := bs, buf := buf, off := BitVec.ofNat 48 off }
    let s1 := (q.2.homeWrite loc vf bs e buf off).holdResp q.1 (.writeAck q.1)
    { s1 with reqs := s1.reqs.filter fun r => r.id != q.1.id }

/-- Bytes written to a record's address, o bytes from its start, for a node. A record that cannot be placed is not written. -/
def State.putRecord (s : State) (n : Node) (o : Nat) (bs : List Byte) : State :=
  match n.done with
  | .host a => { s with mem := memWrite s.mem ((countFrom (locHost (a + o)) bs.length).zip bs) }
  | .buffer cap off =>
    let at_ := capBase cap + off + o
    let w : Win := ⟨capBuf cap, at_, capS cap, 0⟩
    match s.portCheck .basecamp n.vf (s.vfPartition n.vf) w bs.length rWrite .write with
    | .error _ => s
    | .ok e =>
      let uid := n.parent.getD 0
      let allot := match s.launchOf uid with | some l => l.scrKiB * 1024 | none => 0
      match s.places .basecamp e w.buf uid allot true bs.length at_ with
      | .error _ => s
      | .ok l =>
        (runsOf 128 (l.zip (countFrom at_ bs.length))).foldl
          (fun s r => s.farWrite r.loc n.vf ((bs.drop (r.off - at_)).take r.n) e w.buf r.off) s

/-- The record of a node: bytes 0x00 to 0x17, and then DONE. -/
def State.writeRecord (s : State) (n : Node) (r : Report) : State :=
  (s.putRecord n 0 (r.bytes n.node)).putRecord n 0x18 (doneBytes s.tick)

/-! ### Completion and successors (R283, R299) -/

/-- The node's members discarded, the node no longer live, its record written. -/
def State.closeNode (s : State) (n : Node) (r : Report) : State :=
  let s1 := s.dropMembers fun l => l.nid == n.nid
  State.writeRecord { s1 with
    nodes := s1.nodes.filter (·.nid != n.nid), teams := s1.teams.filter fun t => t.node != BitVec.ofNat 32 n.nid } n r

/-- A node that has its decrements takes its place in the ready order. -/
def State.becomeReady (s : State) (n : Node) : State :=
  if n.order.isSome ∨ n.got < n.deps then s
  else { s.updNode n.nid (fun n => { n with order := some s.nextOrder }) with nextOrder := s.nextOrder + 1 }

/-- A decrement for a node id that is not live: kept, 4,096 at most. DESIGN CHOICE (log 72): one that finds the store full is held back until it has
room; R283 says only what a full store keeps Basecamp from. -/
def VfState.keep (x : VfState) (id : BitVec 32) : VfState :=
  if 4096 ≤ (x.kept.map (·.2)).foldl (· + ·) 0 then { x with unsent := x.unsent ++ [id] }
  else { x with kept := tabPut id.toNat (tabGet 0 x.kept id.toNat + 1) x.kept }

/-- The decrements for a node id, which has become live, leave the store, and those held back enter it. -/
def VfState.take (x : VfState) (id : BitVec 32) : VfState :=
  (x.unsent.filter (· != id)).foldl VfState.keep { x with kept := tabDel id.toNat x.kept, unsent := [] }

/-- One decrement for a node id: kept while no node of that id is live. -/
def State.decrement (s : State) (v : Nat) (id : BitVec 32) : State :=
  match s.liveNode v id with
  | some n => (s.updNode n.nid fun n => { n with got := n.got + 1 }).becomeReady { n with got := n.got + 1 }
  | none => s.updVf v fun x => x.keep id

/-- R283: the live ones of a list of successors complete with status 5, and so do theirs; the others are cancelled when they become
live. -/
def State.cancel : Nat → Nat → List (BitVec 32) → State → State
  | 0, _, _, s => s
  | k + 1, v, l, s =>
    l.foldl (fun s id =>
      match s.liveNode v id with
      | some n => State.cancel k v n.succ (s.closeNode n (Report.plain 5))
      | none => s.updVf v fun x => { x with cancels := if x.cancels.contains id then x.cancels else x.cancels ++ [id] }) s

/-- A node completes. -/
def State.completeNode (s : State) (n : Node) (r : Report) : State :=
  let s1 := s.closeNode n r
  if r.status = 0 then n.succ.foldl (fun s id => s.decrement n.vf id) s1 else s1.cancel (s1.nodes.length + 1) n.vf n.succ

/-! ### Submission (R282, R283, R292, R307, R308) -/

/-- A field of n bytes at an offset of a record. -/
def fieldAt (bs : List Byte) (o n : Nat) : Nat := numOf ((bs.drop o).take n)

/-- The limits of Table 16-1 that a record of either kind must keep. -/
def recordOk (bs : List Byte) : Bool :=
  fieldAt bs 0 4 == 1 && fieldAt bs 0x10 4 != 0 && decide (fieldAt bs 0x14 1 ≤ 63) && decide (fieldAt bs 0x15 1 ≤ 2) &&
  decide (fieldAt bs 0x16 1 ≤ 1) && fieldAt bs 0x17 1 == 0 && fieldAt bs 0x2A 6 == 0 && fieldAt bs 0x30 8 % 32 == 0 &&
  decide (fieldAt bs 0x38 8 < 2 ^ 38) && fieldAt bs 0xC0 64 == 0

/-- A capability-table entry (R308). -/
def capEntryOk (v : BitVec 128) : Bool := getBits v 100 2 == 0 && getBits v 0 4 == 0 && decide (capBase v + capLen v ≤ 2 ^ 48)

/-- The node that a launch record describes. -/
def nodeOfRecord (bs : List Byte) (nid v : Nat) (id : BitVec 32) (done : DoneAddr) (captab : List (BitVec 128)) (bad : Bool) : Node :=
  { nid := nid, vf := v, node := id, code := fieldAt bs 8 2, arg := fieldAt bs 0xA 2, entry := BitVec.ofNat 32 (fieldAt bs 0xC 4),
    ninst := BitVec.ofNat 32 (fieldAt bs 0x10 4), prio := fieldAt bs 0x14 1, cls := fieldAt bs 0x15 1, team := fieldAt bs 0x16 1 == 1,
    wd := BitVec.ofNat 64 (fieldAt bs 0x18 8), captab := captab, policy := BitVec.ofNat 64 (fieldAt bs 0x38 8),
    mbox := Vector.ofFn fun (i : Fin 16) => BitVec.ofNat 64 (fieldAt bs (0x40 + 8 * i.val) 8), done := done, deps := 0, got := 0,
    succ := [], parent := none, order := none, made := false, ended := 0, bad := bad || !recordOk bs, boxes := [] }

/-- The partition of a cluster of a die (R301). -/
def State.clusterPart (s : State) (d c : Nat) : Nat := getBits (s.die d).partmap (4 * c) 4

/-- R203: the class affinity admits a die. -/
def clsAdmits (cls d : Nat) : Bool := cls == 0 || (cls == 1 && decide (d < 4)) || (cls == 2 && decide (4 ≤ d))

/-- Slots of a VF's partition that meet a class affinity. -/
def State.partSlots (s : State) (v cls : Nat) : Nat :=
  (List.range 8).foldl (fun n d =>
    n + (if clsAdmits cls d then
      32 * ((List.range (dieCores d / 16)).filter fun c => s.clusterPart d c == s.vfPartition v).length else 0)) 0

/-- A node joins the live ones: a table entry that breaks R308, or a team larger than its partition (R292), completes it with status 3;
a cancellation waiting for it, with status 5; the decrements kept for it count. -/
def State.submit (s : State) (n : Node) : State :=
  let v := s.vf n.vf
  let q := n.parent.isNone
  let n1 := { n with got := if q then tabGet 0 v.kept n.node.toNat + (v.unsent.filter (· == n.node)).length else 0 }
  let s1 : State := { s with nodes := s.nodes ++ [n1] }
  let s2 := if q then s1.updVf n.vf fun x => { x.take n.node with cancels := x.cancels.filter (· != n.node) } else s1
  if n.captab.any (fun c => !capEntryOk c) ∨ (n.team = true ∧ s.partSlots n.vf n.cls < n.ninst.toNat) then
    s2.completeNode n1 (Report.plain 3)
  else if q ∧ v.cancels.contains n.node = true then s2.completeNode n1 (Report.plain 5)
  else s2.becomeReady n1

/-! ### Kernel headers (R284, R310, R311) -/

/-- The bytes of a code object, what stops their reading, or a page to bring in first. -/
inductive CodeRead where
  | bytes (bs : List Byte)
  | bad (cause : Cause) (off : Nat)
  | page (buf off : Nat)
  deriving DecidableEq, Repr

/-- The first n bytes of a node's code object, read with the execute right (R284, R320). -/
def State.codeBytes (s : State) (n : Node) (len : Nat) : CodeRead :=
  let cap := (n.captab[n.code]?).getD 0
  let off := capBase cap
  if rExec &&& ~~~(capRights cap) ≠ 0 then .bad .capRights off
  else if capLen cap < len then .bad .capBounds off
  else match s.portCheck .basecamp n.vf (s.vfPartition n.vf) ⟨capBuf cap, off, capS cap, 0⟩ len rExec .exec with
    | .error c => .bad c off
    | .ok e =>
      match s.places .basecamp e (capBuf cap) 0 0 false len off with
      | .error (.swap, o) => .page (capBuf cap).toNat o
      | .error (.page, o) => .bad .page o
      | .error (_, o) => .bad .capBounds o
      | .ok l => .bytes ((l.zip (countFrom off len)).map fun p => s.seeByte p.1 (s.byteTag e (capBuf cap) p.1 p.2))

/-- Magic, version and zero bytes of a kernel header (Table 16-2). -/
def headerForm (bs : List Byte) : Bool :=
  fieldAt bs 0 4 == 0x484B5644 && fieldAt bs 4 2 == 1 && fieldAt bs 6 2 == 0 && fieldAt bs 0x29 1 == 0 && fieldAt bs 0x2D 3 == 0 &&
  fieldAt bs 0x3C 68 == 0

/-- A kernel header is well-formed, and its requests and handler words are (R311, R48). -/
def headerLimits (bs : List Byte) : Bool :=
  let v := roundKiB (fieldAt bs 0x28 1)
  let r := roundKiB (fieldAt bs 0x2A 2)
  let word := fun (w : Nat) => w == 0xFFFFFFFF || decide (w < fieldAt bs 0x1C 4)
  headerForm bs && decide (fieldAt bs 0x2C 1 ≤ 3) && decide (fieldAt bs 0x28 1 ≤ 128) && decide (fieldAt bs 0x2A 2 ≤ 1024) &&
  (v == 0 || shapeFits (BitVec.ofNat 2 (fieldAt bs 0x2C 1)) v) && decide (v + r + 64 ≤ 1024) &&
  word (fieldAt bs 0x34 4) && word (fieldAt bs 0x38 4)

/-- The header keeps its limits, and the entry word used lies in its native code (R311). -/
def headerOk (bs : List Byte) (entry : Nat) : Bool := headerLimits bs && decide (entry < fieldAt bs 0x1C 4)

/-- The entry word used (R307). -/
def entryWord (n : Node) (bs : List Byte) : Nat := if n.entry = 0xFFFFFFFF then fieldAt bs 0x30 4 else n.entry.toNat

/-- What a node's header leads to: a wait for a page, a completion, or the launch with its header bytes and the words of a translated
code object. -/
inductive Prep where
  | wait (buf off : Nat)
  | ends (r : Report)
  | launch (hdr : List Byte) (native : Option (List Byte))
  deriving DecidableEq, Repr

/-- A node's code object. -/
def Node.codeCap (n : Node) : BitVec 128 := (n.captab[n.code]?).getD 0

/-- The translation of a node's code object that Basecamp keeps (R313). -/
def State.translOf (s : State) (n : Node) : Option (List Byte) :=
  (s.transl.find? fun x => x.vf == n.vf && x.buf == capBuf n.codeCap && x.base == capBase n.codeCap).map (·.form)

/-- The GVF of a node's code object, whose header stands in bs (Table 16-2). -/
def State.gvfOf (s : State) (n : Node) (bs : List Byte) : CodeRead :=
  match s.codeBytes n (fieldAt bs 0x20 4 + fieldAt bs 0x24 4) with
  | .bytes all => .bytes (all.drop (fieldAt bs 0x20 4))
  | r => r

/-- R313: the capability with which a translated code object is launched: for a code buffer of the VF, with the execute right alone. -/
def Node.nativeCap (n : Node) (t : List Byte) : BitVec 128 :=
  mkCap (Config.codeBuf n.vf (capBuf n.codeCap) (capBase n.codeCap)) rExec false false 0 (fieldAt t 0x18 4 + 10 * fieldAt t 0x1C 4)

/-! GVF registers (R314): of one length, each on one native register, or on two in shape 3. -/

def gvfBits : Nat := 16384
def gvfElems (t : Ety) : Nat := gvfBits / t.width
def gvfSpan (sh : BitVec 2) : Nat := if sh = 3 then 2 else 1

/-- R313: the launch of a translated code object, whose native form stands in a code buffer of the VF that only its instances fetch from. -/
def launchForm (n : Node) (t : List Byte) : Prep :=
  let words := t.drop (fieldAt t 0x18 4)
  if headerOk t (entryWord n t) && fieldAt t 8 16 == Config.stamp.toNat && decide (10 * fieldAt t 0x1C 4 ≤ words.length) then
    .launch t (some words)
  else .ends (Report.plain 2)

/-- R313: the GVF of the code object with header bs translated, once for each VF. -/
def State.translated (s : State) (n : Node) (bs : List Byte) : Prep :=
  match s.translOf n with
  | some t => launchForm n t
  | none =>
    match s.gvfOf n bs with
    | .page b o => .wait b o
    | .bad _ _ => .ends (Report.plain 2)
    | .bytes g =>
      match Config.gvf g with
      | none => .ends (Report.plain 2)
      | some t => launchForm n t

/-- The translation kept for the other nodes of the code object: native says that there is one. -/
def State.keepTransl (s : State) (n : Node) (native : Option (List Byte)) : State :=
  match native, s.translOf n, s.codeBytes n 128 with
  | some _, none, .bytes bs =>
    (match s.gvfOf n bs with
     | .bytes g =>
       (match Config.gvf g with
        | some t => { s with transl := ⟨n.vf, capBuf n.codeCap, capBase n.codeCap, t⟩ :: s.transl }
        | none => s)
     | _ => s)
  | _, _, _ => s

/-- R284, R311: the checks of a node that has become ready. -/
def State.prepare (s : State) (n : Node) : Prep :=
  if n.bad then .ends (Report.plain 3)
  else match s.codeBytes n 128 with
    | .page b o => .wait b o
    | .bad c off => .ends ⟨2, c.code, 0xFFFFFFFF, 0, BitVec.ofNat 64 off⟩
    | .bytes bs =>
      if fieldAt bs 8 16 = Config.stamp.toNat then
        (if headerOk bs (entryWord n bs) then .launch bs none else .ends (Report.plain 2))
      else if fieldAt bs 0x24 4 = 0 ∨ headerLimits bs = false then .ends (Report.plain 2)
      else s.translated n bs

/-! ### Members (R52, R284) -/

/-- A handler word (R310). -/
def handlerOf (w : Nat) : Option (BitVec 32) := if w = 0xFFFFFFFF then none else some (BitVec.ofNat 32 w)

/-- The watchdog's first value (R297). -/
def wdFirst (w : Word) : Word := if w = 0 then BitVec.allOnes 64 else w

/-- The mailboxes that member i starts with. -/
def Node.boxesOf (n : Node) (i : Nat) : Vector Word 16 :=
  n.boxes.foldl (fun m x => if x.1 = i then m.setIfInBounds x.2.1 x.2.2 else m) n.mbox

/-- Member i of a node, in the launch state of R52. -/
def Node.member (n : Node) (hdr : List Byte) (native : Option (List Byte)) (uid i : Nat) : Member :=
  let arg := (n.captab[n.arg]?).getD 0
  let c0 : CReg := ⟨mkCap (capBuf arg) (capRights arg &&& rRead) (capD arg) (capS arg) (capBase arg) (capLen arg), true⟩
  let csr : Csrs := { Csrs.zero with mbox := n.boxesOf i }
  let regs : Regs := { Regs.zero with
    pc := entryWord n hdr, csr := csr, shape := BitVec.ofNat 2 (fieldAt hdr 0x2C 1), c := Regs.zero.c.setIfInBounds 0 c0,
    s := (Regs.zero.s.setIfInBounds 1 (BitVec.ofNat 64 i)).setIfInBounds 2 (n.ninst.setWidth 64) }
  let launch : Launch :=
    { uid := uid, nid := n.nid, vf := n.vf, part := 0, node := n.node, inst := BitVec.ofNat 32 i, ninst := n.ninst, prio := n.prio,
      code := if native.isSome then n.nativeCap hdr else n.codeCap, nativeOff := fieldAt hdr 0x18 4, nativeLen := fieldAt hdr 0x1C 4, native := native,
      captab := n.captab, policy := n.policy, wdLimit := wdFirst n.wd, team := n.team, emulBase := handlerOf (fieldAt hdr 0x34 4),
      trapBase := handlerOf (fieldAt hdr 0x38 4), vregKiB := roundKiB (fieldAt hdr 0x28 1), scrKiB := roundKiB (fieldAt hdr 0x2A 2) }
  { launch := launch, regs := regs, image := false, wdleft := wdFirst n.wd, cls := n.cls, order := n.order.getD 0, head := false,
    waiting := none, halted := false, mon := Monitor.zero }

/-- Every member of a node prepared. -/
def State.makeMembers (s : State) (n : Node) (hdr : List Byte) (native : Option (List Byte)) : State :=
  let cnt := n.ninst.toNat
  let s1 := s.updNode n.nid fun n => { n with made := true }
  { s1 with
    members := (List.range cnt).foldl (fun t i => tabPut (s.nextUid + i) (n.member hdr native (s.nextUid + i) i) t) s1.members,
    nextUid := s.nextUid + cnt }

/-- NODE_READY (R284). -/
def State.nodeReady (s : State) (v : Nat) (id : BitVec 32) : State :=
  match s.nodes.find? fun n => n.vf == v && n.node == id && n.order.isSome && !n.made with
  | none => s
  | some n =>
    match s.prepare n with
    | .wait _ _ => s
    | .ends r => s.completeNode n r
    | .launch hdr native => (s.keepTransl n native).makeMembers n hdr native

/-- NODE_READY (R284, R311). -/
def execNodeReady (vf : Nat) (node : BitVec 32) (s : State) : Host.Outcome State Fault Refusal := .next (s.nodeReady vf node)

end Sys2Proof.Machine
end

