-- ==== Sys2Proof/Machine/DevTree.lean ====
section
/-! DEFINITION. Machine/DevTree.lean: the device tree that Basecamp builds (16 R322, Table 16-5), its flattened form, and the copy that a
process gets (R323). No instruction reads it at a place of its own: a process meets its copy as a buffer that the operating system maps
and may replace, which is a matter of that software. -/

namespace Sys2Proof.Machine

/-- One cell. -/
def DtValue.cell (n : Nat) : DtValue := .cells [BitVec.ofNat 32 n]

/-- The two cells of a 64-bit value, the high one first. -/
def wordCells (v : Word) : List (BitVec 32) := [v.extractLsb' 32 32, v.extractLsb' 0 32]

/-- The root's properties. -/
def rootProps : List (String × DtValue) :=
  [("compatible", .text "dvorik,xaney-x8"),
   ("dvorik,stamp", .cells [Config.stamp.extractLsb' 96 32, Config.stamp.extractLsb' 64 32, Config.stamp.extractLsb' 32 32,
     Config.stamp.extractLsb' 0 32]),
   ("dvorik,part", .text "DV-X8-1024")]

/-- The node of a die with one child for each cluster that keep holds of. -/
def State.dieNode (s : State) (keep : Nat → Nat → Bool) (d : Nat) : DtNode :=
  { name := "die", unit := some d,
    props := [("dvorik,class", .text (if d < 4 then "m" else "b")), ("dvorik,clusters", .cell (dieCores d / 16)),
      ("dvorik,cores-per-cluster", .cell 16), ("dvorik,stacks", .cell (if d < 4 then 1 else 2)),
      ("dvorik,l2-bytes", .cell (if d < 4 then 64 * 2 ^ 20 else 256 * 2 ^ 20)), ("dvorik,waysplit", .cell (s.die d).waysplit.toNat)],
    children := ((List.range (dieCores d / 16)).filter (keep d)).map fun c =>
      ("cluster", c, [("dvorik,partition", .cell (s.clusterPart d c))]) }

/-- A list with its positions. -/
def numberFrom {α : Type} (k : Nat) : List α → List (Nat × α)
  | [] => []
  | x :: l => (k, x) :: numberFrom (k + 1) l

/-- The nodes that follow the dies. SCOPETAB is given as slot 0 reads it. -/
def State.otherNodes (s : State) : List DtNode :=
  ((List.range 7).map fun n => ⟨"scope", some n, [("dvorik,scopetab", .cells (wordCells (scopeTab n 0)))], []⟩) ++
  ((List.range 8).map fun d => ⟨"pitch", some d, [("dvorik,profiles", .cells ((s.die d).pitchcfg.toList.map wordCells).flatten)], []⟩) ++
  ((List.range 12).map fun k => ⟨"memory", some k, [("reg", .cells (wordCells (BitVec.ofNat 64 (2 ^ 36)))), ("dvorik,die", .cell (stackDie k))], []⟩) ++
  [⟨"engines", none, [("dvorik,copy-engines", .cell 6), ("dvorik,tie-builtins", .cell 13)], []⟩, ⟨"peers", none, [],
    (numberFrom 0 Config.peers).map fun p => ("peer", p.1, [("dvorik,peer-id", .cell p.2.1.toNat), ("dvorik,hops", .cell p.2.2)])⟩]

/-- R322: the nodes below the root. -/
def State.deviceTree (s : State) : List DtNode := (List.range 8).map (s.dieNode fun _ _ => true) ++ s.otherNodes

/-- The boot of Basecamp: the tree is built and held (R322). -/
def State.boot (s : State) : State := { s with tree := s.deviceTree }

/-- R323: what the operating system copies of the held tree for a process of a VF: all but the clusters outside its partition, and the dies
left with none. -/
def State.treeFor (s : State) (vf : Nat) : List DtNode :=
  (s.tree.map fun n =>
    if n.name = "die" then
      { n with children := n.children.filter fun x => s.clusterPart (n.unit.getD 0) x.2.1 == s.vfPartition vf }
    else n).filter fun n => n.name != "die" || n.children != []

/-- R323: a fresh copy for a VF's process. -/
def State.copyTree (s : State) (vf : Nat) : State := { s with procTrees := tabPut vf (s.treeFor vf) s.procTrees }

/-- The copy that the process of a VF reads, whatever the partition map has become since (R323). -/
def State.processTree (s : State) (vf : Nat) : List DtNode := tabGet [] s.procTrees vf

/-- The ceiling of the buffer as which a copy is mapped: the read right alone (R323). -/
def treeCeiling : BitVec 4 := rRead

/-! ### The flattened form -/

/-- A 32-bit value, big-endian (R322). -/
def bigEndian (n : Nat) : List Byte := (bytesOf 4 n).reverse

/-- Bytes of a string with its closing zero. -/
def zeroText (s : String) : List Byte := (s.toList.map fun c => BitVec.ofNat 8 c.toNat) ++ [0]

/-- Bytes filled up with zeros to a multiple of four. -/
def fill4 (l : List Byte) : List Byte := l ++ List.replicate ((4 - l.length % 4) % 4) 0

/-- The decimal digits of a number of at most five. -/
def shortDigits (n : Nat) : String :=
  String.ofList ((([10000, 1000, 100, 10].filter fun d => decide (d ≤ n)) ++ [1]).map fun d => Char.ofNat (48 + n / d % 10))

/-- A node's full name. -/
def unitName (name : String) (unit : Option Nat) : String := match unit with | some n => name ++ "@" ++ shortDigits n | none => name

def DtValue.bytes : DtValue → List Byte
  | .text s => zeroText s
  | .cells l => (l.map fun c => bigEndian c.toNat).flatten

/-- The names of properties in the strings block, in the order in which they first appear. -/
def dtNames (t : List DtNode) : List String :=
  ((rootProps ++ (t.map fun n => n.props ++ (n.children.map fun c => c.2.2).flatten).flatten).map (·.1)).foldl
    (fun l x => if l.contains x then l else l ++ [x]) []

/-- The offset of a name in the strings block. -/
def nameOffset : List String → String → Nat
  | [], _ => 0
  | x :: l, n => if x = n then 0 else x.length + 1 + nameOffset l n

/-- Properties in the structure block: token 3, length, name, value. -/
def flatProps (names : List String) (l : List (String × DtValue)) : List Byte :=
  (l.map fun p => bigEndian 3 ++ bigEndian p.2.bytes.length ++ bigEndian (nameOffset names p.1) ++ fill4 p.2.bytes).flatten

/-- A node in the structure block: token 1 and its name, what it holds, token 2. -/
def flatNode (name : String) (inner : List Byte) : List Byte := bigEndian 1 ++ fill4 (zeroText name) ++ inner ++ bigEndian 2

/-- R322: the flattened tree, header version 17, last compatible version 16, big-endian. -/
def flatTree (t : List DtNode) : List Byte :=
  let names := dtNames t
  let nodes := (t.map fun n => flatNode (unitName n.name n.unit)
    (flatProps names n.props ++ (n.children.map fun c => flatNode (unitName c.1 (some c.2.1)) (flatProps names c.2.2)).flatten)).flatten
  let struct := flatNode "" (flatProps names rootProps ++ nodes) ++ bigEndian 9
  let strings := (names.map zeroText).flatten
  let size := 56 + struct.length + strings.length
  (([0xD00DFEED, size, 56, 56 + struct.length, 40, 17, 16, 0, strings.length, struct.length].map bigEndian).flatten ++ List.replicate 16 0) ++
    struct ++ strings

end Sys2Proof.Machine
end

