-- ==== Sys2Proof/Machine/EvLink.lean ====
section
/-! DEFINITION. Machine/EvLink.lean: the events of the die links: packets that arrive (09 R181 to R184, R189 to R200), the stop and go
signals (R190), and the write-back of a line left dirty (13 R262). -/

namespace Sys2Proof.Machine

/-! ### Routes (R189, R190) -/

/-- A hop: die, link (0 and 1 along X upwards and downwards, 2 along Y) and virtual channel. -/
abbrev Hop := Nat × Nat × Nat

/-- n hops along X from column c of a row: wrapped says that an earlier hop crossed the wrap-around link. -/
def xHops (row link cls : Nat) : Nat → Nat → Bool → List Hop
  | 0, _, _ => []
  | n + 1, c, wrapped =>
    let w := wrapped || (if link = 0 then c == 3 else c == 0)
    (4 * row + c, link, 2 * cls + (if w then 1 else 0)) :: xHops row link cls n (if link = 0 then (c + 1) % 4 else (c + 3) % 4) w

/-- The route of a packet of a class: along X the shorter way, upwards when both are two hops; then along Y. -/
def route (src dst cls : Nat) : List Hop :=
  let up := (dst % 4 + 4 - src % 4) % 4
  let xs := if up ≤ 2 then xHops (src / 4) 0 cls up (src % 4) false else xHops (src / 4) 1 cls (4 - up) (src % 4) false
  if src / 4 = dst / 4 then xs else xs ++ [(src / 4 * 4 + dst % 4, 2, 2 * cls)]

/-- The request of a packet, its operation code and its data (R191). DESIGN CHOICE (log 71): an atomic's operands travel as one sector, as Table
13-2 lays them out. -/
def Pkt.parts : Pkt → Req × Nat × List Byte
  | .read r => (r, 0x01, [])
  | .write r => (r, 0x02, r.data)
  | .atomic r => (r, 0x03, bytesOf 8 r.cmp.toNat ++ bytesOf 8 r.opnd.toNat)
  | .inval r => (r, 0x04, [])
  | .barArrival r => (r, 0x05, [])
  | .barRelease r => (r, 0x06, [])
  | .readData r data => (r, 0x81, data)
  | .writeAck r => (r, 0x82, [])
  | .atomicResult r old => (r, 0x83, old)
  | .invalAck r => (r, 0x84, [])
  | .refusal r _ _ => (r, 0x85, [])

/-- Source, destination and class of a packet. -/
def Pkt.ends (p : Pkt) : Nat × Nat × Nat :=
  let x := p.parts
  if x.2.1 < 0x80 then (x.1.src, x.1.dst, 0) else (x.1.dst, x.1.src, 1)

/-- The bytes that follow a packet's header: whole sectors, the bytes of the packet standing at their places. -/
def Pkt.sectors (p : Pkt) : List Byte :=
  let x := p.parts
  if x.2.2 = [] then []
  else
    let l := List.replicate (if x.2.2.length = 128 then 0 else x.1.loc % 32) 0 ++ x.2.2
    padTo ((l.length + 31) / 32 * 32) l

/-- BMASK: the bytes of the first sector that are written or read. -/
def Req.bmask (r : Req) : BitVec 32 :=
  (List.range 32).foldl (fun (m : BitVec 32) i =>
    setBits m i 1 (if r.fill || (decide (r.loc % 32 ≤ i) && decide (i < r.loc % 32 + r.size)) then 1 else 0)) 0

/-- The header of a packet on a dateline channel (Table 9-5). -/
def Pkt.header (p : Pkt) (dl : Nat) : BitVec 256 :=
  let x := p.parts
  let r := x.1
  let cause := match p with | .refusal _ c _ => c.code | _ => 0
  BitVec.ofNat 256 (packBits [(4, r.part), (2, p.ends.2.2), (1, dl), (1, r.bel.toNat), (8, x.2.1), (3, r.ch), (11, r.slot), (3, p.ends.1), (3, p.ends.2.1),
    (16, r.seq.toNat), (16, r.serial.toNat), (20, r.buf.toNat), (48, r.off.toNat), (40, r.loc / 32 * 32), (32, r.bmask.toNat),
    (8, p.sectors.length / 32), (8, cause), (32, 0)])

/-- A flit that carries n bytes: its content and the CRC-16 of it (R191). -/
def flitOf (n : Nat) (l : List Byte) : List Byte := padTo n l ++ bytesOf 2 (crc16 (padTo n l))

/-- The flits of a packet, the header flit first: of 64 bytes on a die link (R191), and of 256 on a scale-up port (R202). -/
def Pkt.flits (p : Pkt) (dl : Nat) : List (List Byte) := (bytesOf 32 (p.header dl).toNat :: piecesOf 62 3 p.sectors).map (flitOf 62)
def Pkt.peerFlits (p : Pkt) : List (List Byte) := (bytesOf 32 (p.header 0).toNat :: piecesOf 254 1 p.sectors).map (flitOf 254)

/-- A packet that its receiver takes: a known OPC of CLS 0 or 1; any other is dropped and counted (R191). -/
def headerTaken (h : BitVec 256) : Bool :=
  decide (getBits h 250 2 ≤ 1) && ([0x01, 0x02, 0x03, 0x04, 0x05, 0x06, 0x81, 0x82, 0x83, 0x84, 0x85] : List Nat).contains (getBits h 240 8)

/-- The hops of a packet; one to or from a peer device crosses no die link. -/
def Pkt.route (p : Pkt) : List Hop :=
  let e := p.ends
  if 8 ≤ e.1 ∨ 8 ≤ e.2.1 then [] else Machine.route e.1 e.2.1 e.2.2

/-- R190: a sender on the way has been told to stop, and the packet has not passed it yet. -/
def State.pathStopped (s : State) (p : Pkt) : Bool :=
  p.route.any fun h => (s.die h.1).stopped.contains (4 * h.2.1 + h.2.2) && !(tabGet [] s.rx (16 * h.1 + 4 * h.2.1 + h.2.2)).contains p

/-- The packet at position i leaves the links, and the buffers of the receivers that hold it. -/
def State.takePkt (s : State) (i : Nat) : State :=
  match s.net[i]? with
  | none => s
  | some p => { s with net := s.net.eraseIdx i, rx := s.rx.map fun x => (x.1, x.2.erase p) }

/-- The packet at position i of the links fails its CRC (R193). -/
def State.dropPkt (s : State) (i : Nat) : State := s.takePkt i

/-- The outputs and ingresses that check a packet's PART: those of its route, or the ingress of the scale-up port at which it comes in. -/
def Pkt.gates (p : Pkt) : List (Nat × Nat) := if 8 ≤ p.ends.1 ∨ 8 ≤ p.ends.2.1 then [(p.ends.2.1, 3)] else p.route.map fun h => (h.1, h.2.1)

/-- The first die whose router does not allow a packet's PART on the output that it would take (R193), or whose ingress does not (R202, R345). -/
def State.barredAt (s : State) (p : Pkt) : Option Nat :=
  (p.gates.find? fun g => s.routers.contains (g.1, g.2, p.parts.1.part)).map (·.1)

/-- A packet with a header that the model's units do not send reaches a die: one with another OPC, or with CLS 2 or 3, is dropped and counted
(R191). -/
def State.foreign (s : State) (d : Nat) (h : BitVec 256) : State :=
  if headerTaken h then s else s.countRefusal d (getBits h 252 4) (h.extractLsb' 168 20)

/-- Flits of packets. -/
def flitSum (l : List Pkt) : Nat := (l.map fun p => (p.flits 0).length).foldl (· + ·) 0

/-- Flits of the packets that cross a hop (R190): the most that its receiver can hold. -/
def State.flitsOn (s : State) (h : Hop) : Nat := flitSum (s.net.filter fun p => p.route.contains h)

/-- The first packets of a list that fit into n flits. -/
def fitFlits : Nat → List Pkt → List Pkt
  | _, [] => []
  | n, p :: l => if (p.flits 0).length ≤ n then p :: fitFlits (n - (p.flits 0).length) l else []

/-- The kind of a packet for FAULTINJ where it arrives: a response is dropped at its receiver (Tables 9-7, 17-5). -/
def Pkt.arriveKind (p : Pkt) : Nat := if p.parts.2.1 < 0x80 then 7 else respKind p.parts.1

/-- The packet at position p arrives, if it is of the event's kind: act is what its receiver does, from the machine without it. One whose PART a router
or an ingress on its way does not allow is dropped there and counted (R193, R345), and FAULTINJ drops a response at the requester's receiver. -/
def State.arrives (s : State) (p : Nat) (act : Pkt → Option (State → State)) : State :=
  match s.net[p]? with
  | none => s
  | some x =>
    if s.pathStopped x then s
    else match act x with
      | none => s
      | some f => match s.barredAt x with
        | some d => (s.takePkt p).countRefusal d x.parts.1.part x.parts.1.buf
        | none =>
          let y := s.inject x.parts.1 x.arriveKind
          if y.1 then y.2.takePkt p else f (y.2.takePkt p)

/-! ### Requests -/

/-- A request at its home: a SEQ already held is answered again (R194); one that waits in an open transaction stays there; any other
waits while the line has an open transaction, or another die's free store to its bytes is between its points (R183), and is served then. -/
def State.serveLink (s0 : State) (r : Req) (s : State) : State :=
  match s.openTxn (lineOf r.loc) with
  | some t => if t.req.requester = r.requester ∧ t.req.seq = r.seq ∧ r.opc ≠ 1 then s else s0
  | none =>
    match (if r.opc = 1 then none else s.dup r) with
    | some p => s.sendPkt p
    | none => if r.opc ≠ 1 ∧ (r.opc = 3 ∨ r.bel = true) ∧ s.storeBars r = true then s0 else s.homeServe r

/-- A control packet at its die: a SEQ already held is answered again, and any other acted on and answered (R194). -/
def State.serveCtl (act : State → State) (r : Req) (s : State) : State :=
  match s.dup r with
  | some p => s.sendPkt p
  | none => (act s).respond r [] none 0

/-- LINK_READ (R181). -/
def execLinkRead (p : Nat) (s : State) : Host.Outcome State Fault Refusal :=
  .next (s.arrives p fun x => match x with | .read r => some (s.serveLink r) | _ => none)

/-- LINK_WRITE (R181, R194). -/
def execLinkWrite (p : Nat) (s : State) : Host.Outcome State Fault Refusal :=
  .next (s.arrives p fun x => match x with | .write r => some (s.serveLink r) | _ => none)

/-- LINK_ATOMIC (R357). -/
def execLinkAtomic (p : Nat) (s : State) : Host.Outcome State Fault Refusal :=
  .next (s.arrives p fun x => match x with | .atomic r => some (s.serveLink r) | _ => none)

/-- R182: the home has ordered a free store of a die to a line whose acknowledgement is still on its way: an invalidation of the line is
held, unanswered, until that has come. -/
def State.holdsInv (s : State) (die line : Nat) : Bool :=
  s.reqs.any fun r => r.src == die && r.opc == 2 && !r.bel && lineOf r.loc == line && (s.dup r).isSome

/-- R182: an invalidation at a die: held behind the die's own unacknowledged free store to the line, which the home orders later, or
applied. A read of the line whose answer it overtakes fills no copy (R181). -/
def State.invalidate (s0 : State) (die line : Nat) : State :=
  let own := s0.reqs.any fun r => r.src == die && r.opc == 2 && !r.bel && lineOf r.loc == line
  let s : State := { s0 with reqs := s0.reqs.map fun (r : Req) =>
    if r.src = die ∧ r.opc = 1 ∧ lineOf r.loc = line then { r with stale := true } else r }
  if own then s.updDie die fun x => { x with heldInv := if x.heldInv.contains line then x.heldInv else x.heldInv ++ [line] }
  else s.dropCopy die line

/-- LINK_INVALIDATE (R182). -/
def execLinkInvalidate (p : Nat) (s : State) : Host.Outcome State Fault Refusal :=
  .next (s.arrives p fun x => match x with
    | .inval r => if s.holdsInv r.dst (lineOf r.loc) then none else some (State.serveCtl (fun s => s.invalidate r.dst (lineOf r.loc)) r)
    | _ => none)

/-- NINST of a team: of its node, or of a member. -/
def State.teamSize (s : State) (vf : Nat) (node : BitVec 32) : Option Nat :=
  match s.nodes.find? fun n => n.vf == vf && BitVec.ofNat 32 n.nid == node with
  | some n => some n.ninst.toNat
  | none => none

/-- LINK_BARRIER_ARRIVAL (R199). A team whose node is no longer live has no phase to complete. -/
def execLinkBarrierArrival (p : Nat) (s : State) : Host.Outcome State Fault Refusal :=
  .next (s.arrives p fun x => match x with
    | .barArrival r => some (State.serveCtl (fun s => match r.bar with
        | some m => (match s.teamSize r.vf m.node with | some n => s.teamCount r.vf m.node m.phase m.count n | none => s)
        | none => s) r)
    | _ => none)

/-- LINK_BARRIER_RELEASE (R200). -/
def execLinkBarrierRelease (p : Nat) (s : State) : Host.Outcome State Fault Refusal :=
  .next (s.arrives p fun x => match x with
    | .barRelease r => some (State.serveCtl (fun s => match r.bar with
        | some m => s.teamRelease r.dst r.vf m.node m.phase
        | none => s) r)
    | _ => none)

/-! ### Responses -/

/-- LINK_READ_DATA (R181). -/
def execLinkReadData (p : Nat) (s : State) : Host.Outcome State Fault Refusal :=
  .next (s.arrives p fun x => match x with | .readData r data => some fun s => s.answer r data none 0 | _ => none)

/-- LINK_WRITE_ACK (R184). -/
def execLinkWriteAck (p : Nat) (s : State) : Host.Outcome State Fault Refusal :=
  .next (s.arrives p fun x => match x with | .writeAck r => some fun s => s.answer r r.data none 0 | _ => none)

/-- LINK_ATOMIC_RESULT (R357). -/
def execLinkAtomicResult (p : Nat) (s : State) : Host.Outcome State Fault Refusal :=
  .next (s.arrives p fun x => match x with | .atomicResult r old => some fun s => s.answer r old none 0 | _ => none)

/-- An invalidation acknowledgement at the home: of a request that it still times (R193). -/
def State.invalAcked (s : State) (r : Req) : State :=
  if s.reqs.any (·.id == r.id) then
    (State.flushCtl { s with reqs := s.reqs.filter fun q => q.id != r.id } r.slot).gotAck r.dst (lineOf r.loc)
  else s

/-- LINK_INVALIDATION_ACK (R181). -/
def execLinkInvalidationAck (p : Nat) (s : State) : Host.Outcome State Fault Refusal :=
  .next (s.arrives p fun x => match x with | .invalAck r => some fun s => s.invalAcked r | _ => none)

/-- LINK_REFUSAL (R196). -/
def execLinkRefusal (p : Nat) (s : State) : Host.Outcome State Fault Refusal :=
  .next (s.arrives p fun x => match x with | .refusal r cause stamp => some fun s => s.answer r [] (some cause) stamp | _ => none)

/-! ### Channels and write-backs -/

/-- LINK_STOP (R190): a receiver signals stop at 24 flits. DEDUCED (log 42): its buffer of 32 flits holds the packets that are over its link first, and
those behind them wait for LINK_GO; the flits that arrive within 8 cycles of the signal fill it. -/
def execLinkStop (die link vc : Nat) (s : State) : Host.Outcome State Fault Refusal :=
  .next (if s.flitsOn (die, link, vc) < 24 ∨ 4 * link + vc ∈ (s.die die).stopped then s
    else
      let held := fitFlits 32 (s.net.filter fun p => p.route.contains (die, link, vc))
      State.updDie { s with rx := tabPut (16 * die + 4 * link + vc) held s.rx } die fun x => { x with stopped := x.stopped ++ [4 * link + vc] })

/-- Flits that the receiver of a stopped channel holds. -/
def State.heldFlits (s : State) (h : Hop) : Nat := flitSum (tabGet [] s.rx (16 * h.1 + 4 * h.2.1 + h.2.2))

/-- LINK_GO (R190): the receiver has drained to 16 flits or fewer. -/
def execLinkGo (die link vc : Nat) (s : State) : Host.Outcome State Fault Refusal :=
  .next (if 16 < s.heldFlits (die, link, vc) then s
    else State.updDie { s with rx := tabDel (16 * die + 4 * link + vc) s.rx } die fun x =>
      { x with stopped := x.stopped.filter (· != 4 * link + vc) })

/-- DIRTY_LINE_WRITE_BACK (R262). -/
def execDirtyLineWriteBack (line : Nat) (s : State) : Host.Outcome State Fault Refusal :=
  .next (if locKind (line * 128) = .dram then s.lineClean line else s)

end Sys2Proof.Machine
end

