-- ==== Sys2Proof/Machine/Frame.lean ====
section
/-! DEFINITION. Machine/Frame.lean: a context frame as bytes (15 R294, R295, Tables 15-5 and 15-9): its size, the ranges that a save writes, and the
contents of every part. Table 15-5 gives a size alone to the fault records (0x260), the loop stacks (0x280 and 0x2480), the tags (0x300), the array
state (0x3F0) and the weight tile (0x2C00): their bytes are free functions of what they hold (log 16). -/

namespace Sys2Proof.Machine

/-- The size of a frame, from the allotments in KiB (R295). -/
def frameSize (vreg scr : Nat) : Nat := 0x8400 + 1024 * (vreg + scr)

/-- Register n in the frame; landing slot j follows the registers, as number count + j. -/
def Ctx.frameReg (c : Ctx) (n : Nat) : Nat := 0x8400 + 4 * c.len * n

/-- The side array of register n. -/
def Ctx.frameSide (c : Ctx) (n : Nat) : Nat := 0x8400 + 4 * c.len * (c.count + 4) + c.len * n

/-- Granule j of the scratchpad. -/
def Ctx.frameGranule (c : Ctx) (j : Nat) : Nat := 0x8400 + 1024 * c.launch.vregKiB + 256 * j

/-- Register or landing slot n is dirty. -/
def Ctx.dirtyReg (c : Ctx) (n : Nat) : Bool :=
  if n < c.count then c.regs.dirty.vregs.getLsbD n else c.regs.dirty.slots.getLsbD (n - c.count)

/-- R294: the ranges of the frame that a save writes, as (offset, bytes): the whole frame while IMAGE is 0, and then the fixed part and what is
dirty. -/
def Ctx.frameWrites (c : Ctx) : List (Nat × Nat) :=
  if !c.regs.image then [(0, frameSize c.launch.vregKiB c.launch.scrKiB)]
  else
    (0, 0x8400) ::
      (((List.range (if c.hasV then c.count + 4 else 0)).filter c.dirtyReg).flatMap
        (fun n => [(c.frameReg n, 4 * c.len), (c.frameSide n, c.len)]) ++
      ((List.range (4 * c.launch.scrKiB)).filter c.regs.dirty.granules.getLsbD).map fun j => (c.frameGranule j, 256))

/-- The code of a save's reason (Table 15-5). -/
def reasonCode : SaveReason → Nat
  | .preemption => 0 | .pageSwap => 1 | .yield => 2 | .partitionChange => 3

/-- The code of a handler state (Table 15-5). -/
def handlerCode : Handler → Nat
  | .none_ => 0 | .emulation => 1 | .trap => 2

/-- The header (Table 15-5). -/
def Regs.frameHeader (r : Regs) : List Byte :=
  bytesOf 4 1 ++ bytesOf 1 (if r.image then 1 else 0) ++ bytesOf 1 (reasonCode r.saveWhy) ++ bytesOf 1 (handlerCode r.handler) ++
  bytesOf 1 r.aside.length ++ bytesOf 8 r.saves.toNat ++ bytesOf 8 r.saveTick.toNat ++ bytesOf 4 r.pageBuf.toNat ++ bytesOf 4 0 ++
  bytesOf 8 r.pageOff.toNat ++ bytesOf 24 0

/-- Bytes 4 to 7 of the PC field: the arrival of the BARSYNC at the PC and its phase (R366). -/
def Regs.arrivalBits (r : Regs) : Nat :=
  match r.barsyncP with
  | some x => if x.1 = r.pc then 2 ^ 31 + x.2.toNat else 0
  | none => 0

/-- A side array: entry j holds scale j in 32 bits (R38). -/
def sideBytes (len : Nat) (scales : BitVec 10240) : List Byte :=
  (List.range (len / 4)).flatMap fun j => bytesOf 4 (scales.extractLsb' (20 * j) 20).toNat

/-- A TIE slot in the vector form of R226, 0x380 bytes. -/
def TieProg.frameBytes : Option TieProg → List Byte
  | none => bytesOf 0x380 0
  | some p =>
    let l := (BitVec.ofNat 32 (p.steps.length + p.tab.length * 2 ^ 16) :: (p.steps ++ p.tab)).flatMap fun w => bytesOf 4 w.toNat
    l ++ bytesOf (0x380 - l.length) 0

/-! ### Parts without a layout -/

/-- A part of a frame whose bytes are free functions of its fields. -/
def openBytes (off size : Nat) (fields : List Nat) : List Byte := (List.range size).map (Config.frameByte off fields)

def LoopEnt.fields (l : LoopEnt) : List Nat := [l.sloop.toNat, l.start, l.fin, l.rem, l.vlmax, l.len, l.strip]
def Tile.fields (t : Option Tile) : List Nat := match t with | some t => [1, t.vd, t.g, t.n] | none => [0]

/-- Bytes of a loop stack; its four entries have one layout at 0x0280 and 0x2480. -/
def loopBytes (l : List LoopEnt) : List Byte := openBytes 0x0280 0x80 (l.flatMap LoopEnt.fields)

/-- The deferred-fault record with its count, and the records of the copy channels. -/
def Regs.faultFields (r : Regs) : List Nat :=
  r.deferCnt.toNat :: (match r.deferred with | some d => [1, d.code, d.pc.toNat, d.serial.toNat, d.buf.toNat, d.off.toNat] | none => [0]) ++
  r.chans.toList.flatMap fun x => match x.fault with
    | some f => [1, f.cause.code, f.tmpl.toNat, f.buf.toNat, f.off.toNat, f.pc.toNat, f.serial.toNat, f.stamp, f.bar]
    | none => [0]

/-- A tag: state with what it keeps, used bit, destination, slot, latch. -/
def Tag.fields (t : Tag) : List Nat :=
  (match t.st with
   | .empty => [0] | .pending => [1] | .partly pc => [2, pc.toNat] | .landed => [3]
   | .failed f => [4, f.cause.code, f.pc.toNat, f.serial.toNat, f.buf.toNat, f.off.toNat, f.creg.toNat]) ++
  [t.used.toNat, t.dst.toNat, t.vec.toNat, t.slot, t.latch.toNat, t.sfn.toNat, t.flags.toNat]

/-- The array's state, and its weight tile. -/
def Arr.fields (a : Arr) : List Nat :=
  [a.mode, a.ropeL, a.ropeP, a.roped.toNat, a.ropeId] ++ Tile.fields a.held ++
  (match a.weights with | some w => [1, w.ty.tag, w.k, w.n] | none => [0])
def Arr.tileFields (a : Arr) : List Nat := match a.weights with | some w => [w.data.toNat, w.scales.toNat] | none => []

/-- CSR n in a frame. Those that Table 2-6 marks shared are stored as written at launch, which is no value of theirs that the spec states. -/
def State.frameCsr (s : State) (n : Nat) : List Byte :=
  if n = 0x040 ∨ (0x060 ≤ n ∧ n ≤ 0x067) then openBytes (0x0400 + 8 * n) 8 [s.ctx.launch.uid] else bytesOf 8 (s.csrRead n).toNat

/-! ### The frame -/

/-- The contents of the frame of the context in focus, as (offset, bytes) (Table 15-5). -/
def State.frameParts (s : State) : List (Nat × List Byte) :=
  let c := s.ctx
  let r := c.regs
  let n := if c.hasV then c.count else 0
  let slots := if c.hasV then r.slots.toList else []
  [(0x0000, r.frameHeader),
   (0x0040, (List.range 32).flatMap fun i => bytesOf 8 (c.getS (BitVec.ofNat 6 i)).toNat),
   (0x0140, r.c.toList.flatMap (fun x => bytesOf 16 x.val.toNat) ++
     bytesOf 16 ((List.range 16).foldl (fun m i => if (c.getC (BitVec.ofNat 6 i)).valid then m + 2 ^ i else m) 0)),
   (0x0250, bytesOf 4 r.pc ++ bytesOf 4 r.arrivalBits ++ bytesOf 8 c.bind.wdleft.toNat),
   (0x0260, openBytes 0x0260 0x20 r.faultFields),
   (0x0280, loopBytes r.loops),
   (0x0300, (r.tags.toList.drop 1).flatMap fun t => openBytes 0x0300 0x10 t.fields),
   (0x03F0, openBytes 0x03F0 0x10 r.arr.fields)] ++
  (List.range 128).map (fun i => (0x0400 + 8 * i, s.frameCsr i)) ++
  [(0x0800, (countFrom 1 7).flatMap fun i => bytesOf 1024 (c.getM i).toNat),
   (0x2400, (r.v.toList.map VReg.ty ++ r.slots.toList.map LSlot.ty).map fun t => BitVec.ofNat 8 t.tag),
   (0x2480, if r.handler = .none_ then bytesOf 0x80 0 else loopBytes r.aside),
   (0x2500, bytesOf 0x300 0),
   (0x2800, r.g.toList.flatMap fun x => bytesOf 4 x.toNat),
   (0x2C00, openBytes 0x2C00 0x2000 r.arr.tileFields),
   (0x4C00, r.tie.toList.flatMap TieProg.frameBytes)] ++
  (List.range n).flatMap (fun i =>
    [(c.frameReg i, bytesOf (4 * c.len) (c.getV i).data.toNat), (c.frameSide i, sideBytes c.len (c.getV i).scales)]) ++
  ((countFrom n 4).zip slots).flatMap (fun x =>
    [(c.frameReg x.1, bytesOf (4 * c.len) x.2.data.toNat), (c.frameSide x.1, sideBytes c.len x.2.scales)]) ++
  (List.range (4 * c.launch.scrKiB)).map fun j => (c.frameGranule j, memBytes s.mem (locScratch c.launch.uid (256 * j)) 256)

/-- The frame of a member that is saved, once its save is complete. -/
def State.savedFrame (s : State) (m : Member) : List (Nat × List Byte) :=
  State.frameParts { s with ctx := { Ctx.free with launch := m.launch, regs := m.regs, bind := { BindRec.zero with wdleft := m.wdleft } } }

/-- A save writes the frame of the focused context, c as it stood before, as member m (R294, R295): the parts in the ranges written, over what the
frame held. -/
def State.writeFrame (s : State) (c : Ctx) (m : Member) : State :=
  let old : List (Nat × List Byte) := match tabFind m.launch.uid s.frames with | some f => f.parts | none => []
  let new := (s.savedFrame m).filter fun p => c.frameWrites.any fun r => decide (r.1 ≤ p.1) && decide (p.1 < r.1 + r.2)
  { s with frames := tabPut m.launch.uid ⟨m.launch.vf, c.bind.frame, c.bind.fkey, new.foldl (fun t p => tabPut p.1 p.2 t) old⟩ s.frames }

end Sys2Proof.Machine
end

