-- ==== Sys2Proof/Machine/Sched.lean ====
section
/-! DEFINITION. Machine/Sched.lean: Basecamp's choices (15 R290 to R292), binding and dispatch (15 R289, R301, R302), saves and restores
(15 R293 to R296; 07 R137, R140), and the words YIELD and HALT (24 R478; 21 R391). -/

namespace Sys2Proof.Machine

/-! ### The ready order (R290) -/

/-- One member comes before another: higher priority; a page that has arrived first; the node's place; the lower index. -/
def Member.before (a b : Member) : Bool :=
  if a.launch.prio ≠ b.launch.prio then decide (b.launch.prio < a.launch.prio)
  else if a.head ≠ b.head then a.head
  else if a.order ≠ b.order then decide (a.order < b.order)
  else decide (a.launch.inst.toNat < b.launch.inst.toNat)

/-- A member put into a list in the ready order. -/
def insertMember (x : Nat × Member) : List (Nat × Member) → List (Nat × Member)
  | [] => [x]
  | y :: l => if x.2.before y.2 then x :: y :: l else y :: insertMember x l

/-- Every stack has reached state 1 or 2 (R273). -/
def State.trained (s : State) : Bool :=
  (List.range 12).all fun k =>
    let w := (((s.die (stackDie k)).trainstat[stackSide k]?).getD 0)
    getBits w 0 2 == 1 || getBits w 0 2 == 2

/-- Contexts of a VF may be bound: it is enabled, and its interface is not locked without running nor in error (R301, Table 19-1). -/
def State.mayBind (s : State) (v : Nat) : Bool :=
  s.pkg.vfEn.getLsbD v && (s.vf v).tdisp != .configLocked && (s.vf v).tdisp != .error && (s.vf v).reset.isNone

/-- A member that is ready: it waits for no page, its VF may be dispatched, no instance of its node has faulted (R299), and it is not being
kept for a partition mode change (R303). -/
def State.isReady (s : State) (m : Member) : Bool :=
  m.waiting.isNone && s.mayBind m.launch.vf && !(s.slots.any fun x => x.2.bind.st == .faulted && x.2.launch.nid == m.launch.nid) &&
  (match s.modeChg with | some c => !c.saved.contains m.launch.uid | none => true)

/-- Ready members in order. -/
def State.ready (s : State) : List (Nat × Member) := (s.members.filter fun x => s.isReady x.2).foldr insertMember []

/-- The members that must be bound in one pass with a ready one (R292): it alone, or the unbound ones of its team. None while another
member of the team is not ready or is being saved. -/
def State.passOf (s : State) (x : Nat × Member) : Option (List (Nat × Member)) :=
  if !x.2.launch.team then some [x]
  else
    let l := s.members.filter fun y => y.2.launch.nid == x.2.launch.nid
    let saving := s.slots.any fun y => y.2.launch.nid == x.2.launch.nid && (y.2.bind.st == .save || y.2.bind.st == .saved)
    if saving || l.any (fun y => !s.isReady y.2) then none else some (l.foldr insertMember [])

/-! ### Eligible slots (R290, R301, R303, R48, R203) -/

/-- A cluster whose partition a mode change under way replaces. -/
def State.affected (s : State) (d c : Nat) : Bool :=
  match s.modeChg with
  | none => false
  | some m => m.maps.any fun x => x.1 == d && getBits x.2 (4 * c) 4 != s.clusterPart d c

/-- The allotments of a slot in KiB. -/
def Ctx.kib (c : Ctx) : Nat := if c.bind.st = .free then 0 else c.launch.vregKiB + c.launch.scrKiB

/-- Member g, or its gang, has given way, and m is of it. -/
def State.gaveWay (s : State) (g : Nat) (m : Member) : Bool :=
  m.launch.uid == g || (m.launch.team && (match tabFind g s.members with | some y => y.launch.nid == m.launch.nid | none => false))

/-- A slot that is being freed for a ready member is kept from those that gave way and from those that come after it in the ready order
(R290 to R292). -/
def State.mayTake (s : State) (pass : List Nat) (m : Member) (k : Nat) : Bool :=
  match tabFind k s.claims with
  | none => true
  | some (u, g) => pass.contains u ||
    (match tabFind u s.members with | some x => !s.isReady x || (!s.gaveWay g m && m.before x) | none => true)

/-- Both slots' allotments and a level-one data cache of 64 KiB fit in the pool of slot k's core (R48). -/
def State.roomFor (s : State) (l : Launch) (k : Nat) : Bool := decide (l.vregKiB + l.scrKiB + (s.slot (slotMate k)).kib + 64 ≤ 1024)

/-- Slot k is free and can take a member. -/
def State.eligible (s : State) (pass : List Nat) (m : Member) (k : Nat) : Bool :=
  let d := slotDie k
  let c := slotCluster k
  (s.slot k).bind.st == .free && clsAdmits m.cls d && s.clusterPart d c == s.vfPartition m.launch.vf && !s.affected d c &&
  s.roomFor m.launch k && s.mayTake pass m k

/-- Bound members of a node on a die. -/
def State.boundOn (s : State) (nid d : Nat) : Nat :=
  (s.slots.filter fun x => slotDie x.1 == d && x.2.bound && x.2.launch.nid == nid).length

/-- R290: among the eligible slots, the lowest index on the die with the most bound members of the node. -/
def State.chooseSlot (s : State) (pass : List Nat) (m : Member) : Option Nat :=
  (List.range 2048).foldl (fun best k =>
    if s.eligible pass m k then
      match best with
      | none => some k
      | some j => if s.boundOn m.launch.nid (slotDie j) < s.boundOn m.launch.nid (slotDie k) then some k else best
    else best) none

/-! ### Binding (R289) -/

/-- The slot that has owned the array of slot k's core since both its contexts were bound, when k's is bound now: the other one, where it owns it
(R124). -/
def State.ownerNow (s : State) (k : Nat) : Option Bool :=
  let m := s.slot (slotMate k)
  if m.regs.arr.mode = 0 ∨ m.bind.st = .bind then none else some (slotSide (slotMate k) == 1)

/-- The buffer-table index of the aperture buffer of a VF (R207). -/
def State.apertureOf (s : State) (v : Nat) : Option (BitVec 20) :=
  s.bufs.find? fun i => let e := s.entry i; e.v && e.ty == .aperture && e.vf == v

/-- The entry of the buffer table that Basecamp takes for a VF's aperture buffer: a free one of free choice, and else the first free one. -/
def State.freeEntry (s : State) (v : Nat) : Option Nat :=
  let used := (s.bufs.filter fun b => (s.entry b).v).map (·.toNat)
  let free := fun (i : Nat) => decide (i < s.btCount) && !used.contains i
  if s.btCount ≤ used.length then none
  else if free (Config.apertureAt v) then some (Config.apertureAt v) else (List.range (used.length + 1)).find? free

/-- The first two dwords of the entry of a VF's aperture buffer: TYPE 4, LENGTH 64 KiB, the VF as owner (R207). DESIGN CHOICE (log 77): KEY and CEIL
are free, and every field that the rule does not name is 0. -/
def apertureWords (v part : Nat) : List (BitVec 64) :=
  [setBits (BitVec.ofNat 64 (2 ^ 63 + 4 * 2 ^ 60 + 65536)) 48 11 (Config.apertureBits v).toNat, BitVec.ofNat 64 (v % 64 * 2 ^ 58 + part % 16 * 2 ^ 54)]

/-- Basecamp creates the aperture buffer of a VF that has none, in a free entry of the buffer table (R207). DESIGN CHOICE (log 77): where the table has
no free entry, none is made. -/
def State.makeAperture (s : State) (v : Nat) : State :=
  match s.apertureOf v, s.freeEntry v with
  | none, some i =>
    let a := s.btBase + 64 * i
    { s with mem := memWrite s.mem ((List.range 8).flatMap fun j => dwordCells (a + 8 * j) (nthD 0 (apertureWords v (s.vfPartition v)) j)) }
  | _, _ => s

/-- Member uid bound to slot k, in state BIND (R124), and the aperture of its VF made (R207). The root of a team is where its member 0 is first bound
(R199). -/
def State.bindTo (s : State) (k uid : Nat) (m : Member) : State :=
  let p := s.vfPartition m.launch.vf
  let c : Ctx :=
    { Ctx.free with
      bind := ⟨.bind, if m.image then 1 else 0, BitVec.ofNat 6 m.launch.prio, BitVec.ofNat 6 m.launch.vf, BitVec.ofNat 4 p, m.launch.node,
               m.launch.inst, m.launch.ninst, Config.frameAddr uid, Config.frameKey m.launch.vf, m.wdleft⟩,
      launch := { m.launch with part := p }, regs := m.regs, mon := m.mon, halt := m.halted, bindTick := s.tick }
  let s1 : State := { s with
    members := tabDel uid s.members, claims := s.claims.filter fun x => x.2.1 != uid && x.1 != k }
  let s2 := ((s1.setCore (coreKey k) { s1.core (coreKey k) with lastOwner := s1.ownerNow k }).placeSlot k c).makeAperture m.launch.vf
  if m.launch.team && m.launch.inst == 0 then
    let t := s2.team m.launch.vf m.launch.team32
    s2.setTeam { t with root := some (t.root.getD (slotDie k)) }
  else s2

/-- Members bound one after another, each to its slot (R290). -/
def State.bindEach (pass : List Nat) : List (Nat × Member) → State → Option State
  | [], s => some s
  | x :: l, s =>
    match s.chooseSlot pass x.2 with
    | some k => State.bindEach pass l (s.bindTo k x.1 x.2)
    | none => none

/-- The slots of a rope's members, in position order, with position 0 on slot k0: free slots on a chain of rope-next cores (R139, R140). -/
def State.chainSlots (s : State) (pass : List Nat) (k0 : Nat) (l : List (Nat × Member)) : Option (List Nat) :=
  l.mapM fun x => (chainCore k0 0 x.2.regs.arr.ropeP).bind fun core =>
    [slotIndex core.1 core.2 0, slotIndex core.1 core.2 1].find? fun k => s.eligible pass x.2 k

/-- A rope's members bound to the chain with the lowest first slot. -/
def State.bindRope (pass : List Nat) (l : List (Nat × Member)) (s : State) : Option State :=
  match (List.range 2048).findSome? fun k => s.chainSlots pass k l with
  | some ks => some ((l.zip ks).foldl (fun s x => s.bindTo x.2 x.1.1 x.1.2) s)
  | none => none

/-- Ropes among the members of a pass, by their identity. -/
def ropeIds (l : List (Nat × Member)) : List Nat := ((l.filter fun x => x.2.regs.arr.roped).map fun x => x.2.regs.arr.ropeId).eraseDups

/-- A whole pass bound, ropes first, or none of it (R292). -/
def State.bindPass (s : State) (l : List (Nat × Member)) : Option State :=
  let pass := l.map (·.1)
  let s1 := (ropeIds l).foldl (fun (o : Option State) id =>
    o.bind (State.bindRope pass (l.filter fun x => x.2.regs.arr.roped && x.2.regs.arr.ropeId == id))) (some s)
  s1.bind (State.bindEach pass (l.filter fun x => !x.2.regs.arr.roped))

/-- Basecamp's next bind: the first pass in the ready order that finds its slots; the slot and member it starts with, and the machine
after it. -/
def State.nextBind (s : State) : Option (Nat × Nat × State) :=
  if !s.trained then none
  else s.ready.findSome? fun x => (s.passOf x).bind fun l => (s.bindPass l).bind fun s1 => (s1.slotOf x.1).map fun k => (k, x.1, s1)

/-- BIND (R289, R290). -/
def execBind (k uid : Nat) (s : State) : Host.Outcome State Fault Refusal :=
  .next (match s.nextBind with
    | some (j, u, s1) => if j = k ∧ u = uid then s1 else s
    | none => s)

/-! ### Dispatch (R289, R294, R302) -/

/-- R302: harness status sampled as the state is loaded; FAULTINJ keeps its value only where the partition was one and stays one. -/
def Csrs.sample (r : Csrs) (harness : Bool) : Csrs :=
  if harness && r.harness then r
  else { r with harness := harness, faultinj := 0, injSkip := 0, injLeft := 0, injSeq := none }

/-- R157, R162: the region number goes on by one at a save or a restore. DEDUCED (log 67): the end state that R339 gives a run with a pre-emption
has REGIONNO as R337 gives it without one, which R157 does not; the model follows R157. -/
def State.passRegion (s : State) (k : Nat) : State :=
  let s1 := if (s.slot k).regs.csr.regionno = 0xFFFF then s.clearStamps k else s
  s1.updSlot k Ctx.nextRegion

/-- A context loaded into its slot. A restore clears the dirty bits and loses the monitor (R294, R173). -/
def Ctx.load (harness : Bool) (c : Ctx) : Ctx :=
  let c1 := c.updCsr fun r => r.sample harness
  let c2 := { c1 with bind := { c1.bind with st := .run }, hist := [], wait := .none_, rest := [] }
  if c.bind.start = 1 then { (c2.upd fun r => { r with dirty := Dirty.zero }) with mon := { c2.mon with armed := none, moved := true } }
  else c2

/-- The level-one data cache of the core of slot k emptied (R147). -/
def State.emptyL1 (s : State) (k : Nat) : State := s.setCore (coreKey k) { s.core (coreKey k) with l1d := [] }

/-- The array of a context that was saved in WS or RS mode can be its own again (R137): it is free, and powered. -/
def State.arrayReady (s : State) (k : Nat) : Bool :=
  (s.slot k).regs.arr.mode == 0 ||
  (((s.slot (slotMate k)).regs.arr.mode == 0 || (s.slot (slotMate k)).bind.st == .bind) && (s.core (coreKey k)).power.on s.tick)

/-- The clock of slot k's cluster runs: after a reset one cluster of a die starts every 64 cycles, and die d 16 d cycles after die 0 (R351). -/
def State.clocked (s : State) (k : Nat) : Bool := decide (s.resetTick + 16 * slotDie k + 64 * slotCluster k ≤ s.tick)

/-- A bound context may be dispatched: its VF is enabled and its interface admits it (R301, Table 19-1), the other slot's parts have moved, and its
cluster's clock runs. -/
def State.mayDispatch (s : State) (k : Nat) : Bool :=
  (s.slot k).bind.st == .bind && s.mayBind (s.slot k).launch.vf && !(s.slot (slotMate k)).moving && s.clocked k

/-- DISPATCH of slot k: the state is loaded; a restored array needs its grant (R127). The core's level-one
data cache is emptied: the first word synchronises with the submission (R152), and a restored context sees its own stores (R116). -/
def State.dispatch (s : State) (k : Nat) : State :=
  let c := s.slot k
  if !s.mayDispatch k then s
  else if !s.arrayReady k then
    (if (s.slot (slotMate k)).regs.arr.mode = 0 ∨ (s.slot (slotMate k)).bind.st = .bind then s.askPower k else s)
  else
    let s1 := s.updSlot k (Ctx.load (s.pkg.partharn.getLsbD c.launch.part))
    let s2 := (if c.bind.start = 1 then s1.passRegion k else s1).emptyL1 k
    if c.regs.arr.mode = 0 then s2
    else s2.setCore (coreKey k) { s2.core (coreKey k) with lastOwner := some (slotSide k == 1), power := .granted s.tick }

/-- DISPATCH (R289). -/
def execDispatch (k : Nat) (s : State) : Host.Outcome State Fault Refusal := .next (s.dispatch k)

/-! ### Saves begun (R289, R291, R292, R296) -/

/-- Slot k, if it runs, enters state 3. -/
def Ctx.beginSave (why : SaveReason) (c : Ctx) : Ctx :=
  if c.bind.st = .run then { c with bind := { c.bind with st := .save }, saveWhy := why } else c

/-- Slot k saved, with its whole gang or rope (R292, R140); a gang that is being bound is bound first. -/
def State.saveWhole (s : State) (k : Nat) (why : SaveReason) : State :=
  let c := s.slot k
  let mine := fun (x : Ctx) => x.launch.nid == c.launch.nid
  if c.launch.team then
    if s.slots.any fun x => mine x.2 && x.2.bind.st == .bind then s
    else s.mapSlots fun _ x => if mine x then x.beginSave why else x
  else s.updSlot k (Ctx.beginSave why)

/-- The machine as it would be with the slots that satisfy p free. -/
def State.without (s : State) (p : Nat → Ctx → Bool) : State :=
  s.mapSlots fun k c => if p k c then Ctx.free else c

/-- A slot that will be free soon: its context has ended or is being saved. -/
def soonFree (_ : Nat) (c : Ctx) : Bool := c.bind.st == .save || c.bind.st == .saved || c.bind.st == .halted || c.bind.st == .faulted

/-- A running context of strictly lower priority than p (R291). -/
def lowerThan (p : Nat) (_ : Nat) (c : Ctx) : Bool := c.bind.st == .run && decide (c.launch.prio < p)

/-- The better victim of two: the lower priority, then the one bound last, then the lower slot. -/
def betterVictim (a b : Nat × Ctx) : Bool :=
  if a.2.launch.prio ≠ b.2.launch.prio then decide (a.2.launch.prio < b.2.launch.prio)
  else if a.2.bindTick ≠ b.2.bindTick then decide (b.2.bindTick < a.2.bindTick)
  else decide (a.1 < b.1)

/-- The first of a list under an order. -/
def bestOf (f : Nat × Ctx → Nat × Ctx → Bool) : List (Nat × Ctx) → Option (Nat × Ctx)
  | [] => none
  | x :: l => match bestOf f l with | some y => if f x y then some x else some y | none => some x

/-- Slot k, once its context has given way, is eligible for a member of a pass: for a single instance with what stays in the other slot (R291, R48), and
for a gang with every context of lower priority gone (R292). -/
def State.victimFits (s all : State) (l : List (Nat × Member)) (k : Nat) : Bool :=
  match l with
  | [y] => (s.without fun j c => soonFree j c || j == k).eligible [y.1] y.2 k
  | _ => l.any fun y => all.eligible (l.map (·.1)) y.2 k

/-- The victim of a pass (R291, R292): none when its slots are free or soon will be, or when pre-empting every context of lower priority
would not free enough. -/
def State.victimOf (s : State) (l : List (Nat × Member)) : Option Nat :=
  let p := match l with | x :: _ => x.2.launch.prio | [] => 0
  let all := s.without fun k c => soonFree k c || lowerThan p k c
  if (State.bindPass (s.without soonFree) l).isSome ∨ (all.bindPass l).isNone then none
  else
    let cand := s.slots.filter fun x => lowerThan p x.1 x.2 && s.victimFits all l x.1
    (bestOf betterVictim cand).map (·.1)

/-- The next pre-emption of R291 and R292: the victim, and the member it is for. -/
def State.nextVictim (s : State) : Option (Nat × Nat) :=
  if !s.trained then none
  else s.ready.findSome? fun x => (s.passOf x).bind fun l => (s.victimOf l).map fun k => (k, x.1)

/-- Slot k, whose context gives way, claimed for a member. -/
def State.claim (s : State) (k uid : Nat) : State := { s with claims := tabPut k (uid, (s.slot k).launch.uid) s.claims }

/-- SAVE of slot k (R291, R303): Basecamp writes state 3 for a pre-emption that it decides on, or for a partition mode change. -/
def State.save (s : State) (k : Nat) (why : SaveReason) : State :=
  match why with
  | .preemption =>
    match s.nextVictim with
    | some (j, uid) => if j = k then (s.saveWhole k why).claim k uid else s
    | none => s
  | .partitionChange =>
    match s.modeChg with
    | some m => if m.preempt && s.affected (slotDie k) (slotCluster k) then s.saveWhole k why else s
    | none => s
  | _ => s

/-- SAVE (R289, R293). -/
def execSave (k : Nat) (reason : SaveReason) (s : State) : Host.Outcome State Fault Refusal := .next (s.save k reason)

/-- The longer-bound of two contexts, then the lower slot (R291). -/
def longerBound (a b : Nat × Ctx) : Bool :=
  if a.2.bindTick ≠ b.2.bindTick then decide (a.2.bindTick < b.2.bindTick) else decide (a.1 < b.1)

/-- The context that gives way to a ready member of its own priority (R291): bound for QUANTUM ticks on a slot eligible for it. A gang
pre-empts contexts of strictly lower priority only (R292). -/
def State.quantumVictim (s : State) (x : Nat × Member) : Option Nat :=
  if x.2.launch.team then none
  else (s.passOf x).bind fun l =>
    if (State.bindPass (s.without soonFree) l).isSome then none
    else
      (bestOf longerBound (s.slots.filter fun y =>
        y.2.bind.st == .run && y.2.launch.prio == x.2.launch.prio && decide (y.2.bindTick + s.pkg.quantum.toNat ≤ s.tick) &&
        l.any fun z => (s.without fun k _ => k == y.1).eligible (l.map (·.1)) z.2 y.1)).map (·.1)

/-- QUANTUM_EXPIRY for a ready member (R291). -/
def State.quantumExpiry (s : State) (uid : Nat) : State :=
  match s.ready.find? (·.1 == uid) with
  | none => s
  | some x => match s.quantumVictim x with
    | some k => if s.trained then (s.saveWhole k .preemption).claim k uid else s
    | none => s

def execQuantumExpiry (uid : Nat) (s : State) : Host.Outcome State Fault Refusal := .next (s.quantumExpiry uid)

/-- The ready member of the same or a higher priority for which the slot of a YIELD is eligible (R478); of a gang, one whose whole gang finds
its slots then (R292). -/
def State.yieldsTo (s : State) (k : Nat) : Option Nat :=
  let prio := (s.slot k).launch.prio
  let c := s.slot k
  let s1 := s.without fun j x => j == k || (c.launch.team && x.bind.st == .run && x.launch.nid == c.launch.nid)
  (s.ready.find? fun x => decide (prio ≤ x.2.launch.prio) && s.trained && s1.eligible [x.1] x.2 k &&
    (!x.2.launch.team || (((s.passOf x).bind s1.bindPass).isSome && ((s.passOf x).bind s.bindPass).isNone))).map (·.1)

/-- R478. -/
def yieldBody (s : State) : WR State :=
  match s.yieldsTo s.cur with
  | some uid => .done ((s.saveWhole s.cur .yield).claim s.cur uid)
  | none => .done s

/-- R478: YIELD. -/
def execYield (h : Hdr) (b : FmtY) (s : State) : Host.Outcome State Fault Refusal :=
  runWord (issueY 0x12 h b [] 0) yieldBody s

/-! ### Saves completed (R293 to R296) -/

/-- R217: every copy of the context has finished, and none writes its scratchpad. -/
def State.copiesDone (s : State) (k : Nat) : Bool :=
  (s.slot k).regs.chans.toList.all (·.copies.isEmpty) &&
  s.slots.all fun x => x.1 == k || x.2.copies.all fun p => p.owed == 0 || !p.targets.contains (s.slot k).launch.uid

/-- A free store of slot k is on its way to its home. -/
def State.storesOut (s : State) (k : Nat) : Bool := s.reqs.any fun r => r.slot == k && r.ch == 0 && r.opc == 2

/-- What a save waits for (R293, R44, R217, R128); a WATCHDOG that is due comes first (R298). DEDUCED (log 68): the stores of the context are at their
homes too, so that it sees them on whatever core it is bound to next (R116). -/
def State.saveReady (s : State) (k : Nat) : Bool :=
  let c := s.slot k
  c.bind.st == .save && !c.wdDue && !c.wait.atHome && !c.moving && c.regs.arr.draining.isNone && !c.regs.tags.toList.any Tag.isPending &&
  s.copiesDone k && c.out.isEmpty && !s.storesOut k

/-- The registers that a frame holds after a save (R137, R294, R295): the held tile stands in its group, and still in its descriptor.
DEDUCED (log 66): VFLAGS holds the flags of the steps of an MMA that has not retired, since R138 has them set at the end in any case. -/
def Ctx.frame (c0 : Ctx) (tick : Nat) : Regs :=
  let c := c0.finishMma.orFlags c0.regs.arr.part
  let a := c.regs.arr
  let r := (c.drain.updArr fun b => { b with held := a.held, part := 0 }).regs
  { r with dirty := Dirty.zero, image := true, saves := r.saves + 1, saveWhy := c0.saveWhy, saveTick := BitVec.ofNat 64 tick }

/-- The page that a swap waits for, unless it has become resident (R296). -/
def State.awaits (s : State) (c : Ctx) : Option (Nat × Nat) :=
  if c.saveWhy ≠ .pageSwap then none
  else
    let e := s.entry c.regs.pageBuf
    match s.place .basecamp e c.regs.pageBuf c.launch.uid c.scrBytes c.regs.pageOff.toNat false with
    | .swap => some (c.regs.pageBuf.toNat, c.regs.pageOff.toNat)
    | _ => none

/-- The place of a node in the ready order. -/
def State.orderOf (s : State) (nid : Nat) : Nat := match s.nodeOf nid with | some n => n.order.getD 0 | none => 0

/-- The class affinity of a node. -/
def State.clsOf (s : State) (nid : Nat) : Nat := match s.nodeOf nid with | some n => n.cls | none => 0

/-- A completed save of slot k: the member waits for its next bind; a VF in ERROR saves no frame (Table 19-1).
The frame holds the bytes; the member holds what they say. -/
def State.saveDone (s : State) (k : Nat) : State :=
  let d := slotDie k
  let s0 := s.updSlot k Ctx.endPause
  let c0 := s0.slot k
  let s1 := if c0.regs.hbarP.isSome then s0.teamFlush d c0.launch.vf c0.launch.team32 c0.launch.ninst.toNat else s0
  let s2 := (s1.passRegion k).ask k false
  let c := s2.slot k
  let w := s2.awaits c
  let m : Member :=
    { launch := c.launch, regs := c.frame s2.tick, image := true, wdleft := c.bind.wdleft, cls := s2.clsOf c.launch.nid,
      order := s2.orderOf c.launch.nid, head := c.saveWhy == .pageSwap, waiting := w, halted := c.halt,
      mon := { c.mon with armed := none, moved := true } }
  let s3 : State := if (s2.vf c.launch.vf).tdisp = .error then s2 else { s2 with
    frames := ((s2.focus k).writeFrame c.drain m).frames,
    members := tabPut c.launch.uid m s2.members,
    modeChg := s2.modeChg.map fun x => if c.saveWhy = .partitionChange then { x with saved := c.launch.uid :: x.saved } else x }
  let s4 := if c.regs.arr.mode = 0 then s3 else s3.setCore (coreKey k) { s3.core (coreKey k) with power := .idle s3.tick }
  let s5 := s4.updSlot k fun c => { c with
    bind := { c.bind with st := .saved }, wait := .none_, rest := [], regs := { c.regs with arr := Arr.zero, chans := Regs.zero.chans }, mon := Monitor.zero }
  if c.launch.team then s5.teamCheck d c.launch.vf c.launch.team32 c.launch.ninst.toNat else s5

/-- The other members of the rope of slot k that still run. -/
def State.ropeRunning (s : State) (k : Nat) : List Nat :=
  let a := (s.slot k).regs.arr
  if a.roped then (s.ropeSlots a.ropeId).filter fun j => j != k && (s.slot j).bind.st == .run else []

/-- SAVE_COMPLETE of slot k: a rope goes as a whole. -/
def State.saveComplete (s : State) (k : Nat) : State :=
  if (s.slot k).bind.st ≠ .save then s
  else if s.ropeRunning k ≠ [] then (s.ropeRunning k).foldl (fun s j => s.updSlot j (Ctx.beginSave .preemption)) s
  else if s.saveReady k then s.saveDone k else s

/-- SAVE_COMPLETE (R294). -/
def execSaveComplete (k : Nat) (s : State) : Host.Outcome State Fault Refusal := .next (s.saveComplete k)

/-! ### FREE (R289, R299) -/

/-- A fault that comes before another: of an earlier tick, or of a lower member in the same tick (R300). -/
def faultBefore (a b : Ctx) : Bool :=
  match a.faultAt, b.faultAt with
  | some x, some y => decide (x < y) || (x == y && decide (a.launch.inst.toNat ≤ b.launch.inst.toNat))
  | some _, none => true
  | none, some _ => false
  | none, none => decide (a.launch.inst.toNat ≤ b.launch.inst.toNat)

/-- The first fault of a node. -/
def State.firstFault (s : State) (nid : Nat) : Option Ctx :=
  (bestOf (fun a b => faultBefore a.2 b.2)
    (s.slots.filter fun x => x.2.bind.st == .faulted && x.2.launch.nid == nid)).map (·.2)

/-- The report of a fault (Table 15-7). -/
def Ctx.report (c : Ctx) : Report :=
  let f := c.faultRec.getD (.none_, 0, 0)
  ⟨1, f.1.code, c.launch.inst.toNat, f.2.1, f.2.2⟩

/-- FREE of slot k, of a faulted context once the stores before its fault have been performed (R106): a saved context leaves it, and one in state 3 is
discarded (Table 15-4); a halted one counts for its node, which completes with its last member; a faulted one completes its node. -/
def State.freeSlot (s : State) (k : Nat) : State :=
  let c := s.slot k
  match c.bind.st with
  | .saved => s.unbind k
  | .save => s.unbind k
  | .halted =>
    let s1 := s.unbind k
    match s1.nodeOf c.launch.nid with
    | none => s1
    | some n =>
      let n1 := { n with ended := n.ended + 1 }
      if n.ninst.toNat ≤ n1.ended then s1.completeNode n1 (Report.plain 0) else s1.updNode n.nid fun _ => n1
  | .faulted =>
    if c.storing then s
    else match s.nodeOf c.launch.nid with
    | none => s.unbind k
    | some n => s.completeNode n ((s.firstFault n.nid).getD c).report
  | _ => s

/-- FREE (R289, R299). -/
def execFree (k : Nat) (s : State) : Host.Outcome State Fault Refusal := .next (s.freeSlot k)

/-! ### PAGE_IN_COMPLETE (R246, R296, R216) -/

/-- The address of the leaf of a page number, where the walk reaches one. -/
def State.leafAddr (s : State) : Nat → Nat → Nat → Option Nat
  | 0, _, _ => none
  | l + 1, node, page =>
    let a := node + 8 * (page / 2 ^ (9 * l) % 512)
    if !(s.dword a).getLsbD 63 then none
    else if l = 0 then some a else s.leafAddr l (getBits (s.dword a) 12 28 * 4096) page

/-- RES set in the leaf of a page (R246). -/
def State.setRes (s : State) (e : Entry) (off : Nat) : State :=
  match s.leafAddr (tableLevels e.pageBits e.length 6 1) e.ptroot (e.pageNo off) with
  | none => s
  | some a => { s with mem := memWrite s.mem (dwordCells a (s.dword a ||| 0x4000000000000000)) }

/-- The page of an offset of a buffer has come in: the contexts and channels that wait for it resume. -/
def State.pageIn (s : State) (buf off : Nat) : State :=
  let e := s.entry (BitVec.ofNat 20 buf)
  let same := fun (w : Option (Nat × Nat)) =>
    match w with | some x => x.1 == buf && e.pageNo x.2 == e.pageNo off | none => false
  let s1 := s.setRes e off
  let s2 := s1.mapSlots fun _ c => c.upd fun r => { r with chans := r.chans.map fun (x : Chan) =>
    { x with copies := x.copies.map fun (p : Copy) =>
      if same (p.paused.map fun y => (y.1.toNat, y.2)) then { p with paused := none } else p } }
  { s2 with members := s2.members.map fun (x : Nat × Member) =>
      if same x.2.waiting then (x.1, { x.2 with waiting := none, head := true }) else x }

/-- PAGE_IN_COMPLETE (R246). -/
def execPageInComplete (buf off : Nat) (s : State) : Host.Outcome State Fault Refusal := .next (s.pageIn buf off)

/-! ### HALT (R391) -/

/-- The first copy-fault record of a context: its channel. -/
def Ctx.copyFaultAny (c : Ctx) : Option (Nat × CopyFault) :=
  (List.range 4).findSome? fun ch => ((c.chan ch).fault).map fun f => (ch, f)

/-- DEFERRED for a copy fault (Table 16-4). -/
def haltCopyFault (s : State) (ch : Nat) (f : CopyFault) : WR State :=
  let s1 := s.updCtx fun c => c.setChan ch { c.chan ch with fault := none }
  .trap (s1.setObj f.bar ((s1.obj f.bar).setErr false)) .deferred
    (BitVec.ofNat 64 (f.pc.toNat + f.serial.toNat * 2 ^ 32 + f.tmpl.toNat * 2 ^ 48))
    (BitVec.ofNat 64 (f.buf.toNat + f.off.toNat / 256 * 2 ^ 20 + deferCode f.cause * 2 ^ 60 + 2 ^ 63))

/-- Step 2 of R391: copies finished, stores and atomics at their global points. DEDUCED (log 76): no result of a tag is still on its way, as R103 has
its tagged load landed at HALT on every run. -/
def State.quiet (s : State) (k : Nat) : Bool :=
  s.copiesDone k && !(s.slot k).storing && !(s.reqs.any fun r => r.slot == k && r.ch == 0 && r.opc != 1) && (s.slot k).arrived

/-- HALT's end of a context: its tags landed (R103), its tile drained, and the slot HALTED (R391). -/
def Ctx.halted (c : Ctx) : Ctx := { c with bind := { c.bind with st := .halted }, out := [] }

/-- R391. -/
def haltBody : State → WR State :=
  deliverThen fun s =>
    match s.ctx.copyFaultAny with
    | some (ch, f) => haltCopyFault s ch f
    | none =>
      if !s.quiet s.cur then .stall (s.waitAt (.busy 0 []))
      else .done (((s.updCtx fun c => c.landAll.finishMma.drain.endDrain).disown s.cur).updCtx Ctx.halted)

/-- R391: HALT. -/
def execHalt (h : Hdr) (b : FmtY) (s : State) : Host.Outcome State Fault Refusal :=
  runWord (issueY 0x02 h b [] 0) haltBody s

end Sys2Proof.Machine
end

