-- ==== Sys2Proof/Machine/EvQueue.lean ====
section
/-! DEFINITION. Machine/EvQueue.lean: the submission queues (15 R281 to R285) and LAUNCH (15 R286 to R288; 21 R394). -/

namespace Sys2Proof.Machine

/-! ### Queues (R281) -/

def queueKey (vf q : Nat) : Nat := 4 * vf + q
def State.queue (s : State) (vf q : Nat) : Queue := tabGet Queue.zero s.queues (queueKey vf q)
def State.setQueue (s : State) (vf q : Nat) (x : Queue) : State := { s with queues := tabSet Queue.zero (queueKey vf q) x s.queues }

/-- The place after an entry in ring order. -/
def Queue.next (x : Queue) (i : Nat) : Nat := (i + 1) % x.size.toNat

/-- A write of TAIL passes HEAD − 1: it does not lie on the ring, or comes after the last entry that the host may fill. From TAIL the
host fills at most up to HEAD − 1. -/
def Queue.passes (x : Queue) (v : Nat) : Bool :=
  let n := x.size.toNat
  decide (n ≤ v) || decide ((x.head.toNat + n - 1 - x.tail.toNat) % n < (v + n - x.tail.toNat) % n)

/-- R281: the host writes TAIL. -/
def State.sqtail (s : State) (vf q : Nat) (v : BitVec 64) : State :=
  let x := s.queue vf q
  let t := getBits v 0 12
  if x.size = 0 ∨ x.passes t = true then s else s.setQueue vf q { x with tail := BitVec.ofNat 12 t }

/-- SQTAIL_WRITE (R281). -/
def execSqtailWrite (vf q : Nat) (v : BitVec 64) (s : State) : Host.Outcome State Fault Refusal := .next (s.sqtail vf q v)

/-- Bytes of host memory. -/
def State.hostBytes (s : State) (a n : Nat) : List Byte := memBytes s.mem (locHost a) n

/-- R283: Basecamp stops consuming while the node table or the store of kept decrements is full. -/
def State.sqStopped (s : State) (vf : Nat) : Bool :=
  decide (4096 ≤ (s.nodes.filter (·.vf == vf)).length) || decide (4096 ≤ ((s.vf vf).kept.map (·.2)).foldl (· + ·) 0)

/-- The next entry of a queue, while Basecamp consumes. -/
def State.sqEntry (s : State) (vf q : Nat) : Option (List Byte) :=
  let x := s.queue vf q
  if x.size = 0 ∨ x.head = x.tail ∨ s.sqStopped vf = true then none
  else some (s.hostBytes (x.base.toNat + 64 * x.head.toNat) 64)

/-- HEAD advanced past an entry. -/
def State.sqConsume (s : State) (vf q : Nat) : State :=
  let x := s.queue vf q
  s.setQueue vf q { x with head := BitVec.ofNat 12 (x.next x.head.toNat) }

/-- Whether an entry keeps Table 15-2. DESIGN CHOICE (log 76): one whose record address is no multiple of 256, with more than 8 successors, or with a
mailbox number above 15, is ignored and counted like those that R282 names. -/
def nodeEntryOk (e : List Byte) : Bool :=
  fieldAt e 0 1 == 1 && fieldAt e 1 1 == 0 && fieldAt e 8 8 % 256 == 0 && decide (fieldAt e 0x30 1 ≤ 8) && fieldAt e 0x31 15 == 0
def mboxEntryOk (e : List Byte) : Bool :=
  fieldAt e 0 1 == 2 && decide (fieldAt e 1 1 ≤ 15) && fieldAt e 2 2 == 0 && fieldAt e 0x18 24 == 0 && fieldAt e 0x30 16 == 0

/-- An entry that Table 15-2 does not admit is consumed, ignored and counted (R282). -/
def State.sqMalformed (s : State) (vf q : Nat) : State :=
  let s1 := s.sqConsume vf q
  { s1 with hyper := { s1.hyper with malformed := s1.hyper.malformed + 1 } }

/-- A NODE entry consumed (R282, R283): a duplicate id never becomes live. -/
def State.submitEntry (s : State) (vf : Nat) (e : List Byte) : State :=
  let id := BitVec.ofNat 32 (fieldAt e 4 4)
  let rec_ := s.hostBytes (fieldAt e 8 8) 256
  let base := fieldAt rec_ 0x20 8
  let cnt := fieldAt rec_ 0x28 2
  let tabOk := base % 16 == 0 && decide (1 ≤ cnt) && decide (cnt ≤ 64) && decide (fieldAt rec_ 8 2 < cnt) && decide (fieldAt rec_ 0xA 2 < cnt)
  let captab := if 1 ≤ cnt ∧ cnt ≤ 64 then (List.range cnt).map fun i => BitVec.ofNat 128 (numOf (s.hostBytes (base + 16 * i) 16)) else []
  let n := nodeOfRecord rec_ s.nextUid vf id (.host (fieldAt rec_ 0x30 8)) captab (!tabOk)
  let succ := (List.range (fieldAt e 0x30 1)).map fun i => BitVec.ofNat 32 (fieldAt e (0x10 + 4 * i) 4)
  let n1 := { n with deps := fieldAt e 2 2, succ := succ }
  if s.nodes.any (fun m => m.vf == vf && m.node == id) then s.writeRecord n1 (Report.plain 3)
  else State.submit { s with nextUid := s.nextUid + 1 } n1

/-- SQ_NODE (R283). -/
def execSqNode (vf q : Nat) (s : State) : Host.Outcome State Fault Refusal :=
  .next (match s.sqEntry vf q with
    | none => s
    | some e =>
      if nodeEntryOk e then (s.sqConsume vf q).submitEntry vf e
      else if mboxEntryOk e then s else s.sqMalformed vf q)

/-- A mailbox written in registers. -/
def Regs.putMbox (r : Regs) (m : Nat) (v : Word) : Regs := { r with csr := { r.csr with mbox := r.csr.mbox.setIfInBounds m v } }

/-- A frame's byte range written (Table 15-5). -/
def FrameImg.put (f : FrameImg) (off : Nat) (bs : List Byte) : FrameImg := { f with parts := tabPut off bs f.parts }

/-- R285: mailbox m of the members of a node that i names. A bound context takes it in its mailboxes, a saved one in its frame, which holds the
mailbox as CSR 0x020 + m (Table 15-5), and one that has not been made in its launch values. -/
def State.mboxWrite (s : State) (n : Node) (i : Option Nat) (m : Nat) (v : Word) : State :=
  let hit := fun (l : Launch) => l.nid == n.nid && (match i with | some x => l.inst.toNat == x | none => true)
  let s1 := s.mapSlots fun _ c => if c.bound && hit c.launch then c.upd fun r => r.putMbox m v else c
  let saved := fun (uid : Nat) => match tabFind uid s1.members with | some y => hit y.launch | none => false
  let s2 : State := { s1 with
    members := s1.members.map fun (x : Nat × Member) =>
      (x.1, if hit x.2.launch then { x.2 with regs := x.2.regs.putMbox m v } else x.2)
    frames := s1.frames.map fun (x : Nat × FrameImg) =>
      (x.1, if saved x.1 then x.2.put (0x0500 + 8 * m) (bytesOf 8 v.toNat) else x.2) }
  if n.made then s2
  else s2.updNode n.nid fun n =>
    match i with
    | some x => { n with boxes := n.boxes ++ [(x, m, v)] }
    | none => { n with mbox := n.mbox.setIfInBounds m v, boxes := n.boxes.filter fun b => b.2.1 != m }

/-- SQ_MBOX (R285). An entry whose node is not live is ignored. -/
def execSqMbox (vf q : Nat) (s : State) : Host.Outcome State Fault Refusal :=
  .next (match s.sqEntry vf q with
    | none => s
    | some e =>
      if nodeEntryOk e then s
      else if !mboxEntryOk e then s.sqMalformed vf q
      else
        let s1 := s.sqConsume vf q
        match s1.liveNode vf (BitVec.ofNat 32 (fieldAt e 4 4)) with
        | none => s1
        | some n =>
          let i := fieldAt e 8 8
          if i ≠ 0xFFFFFFFF ∧ n.ninst.toNat ≤ i then s1
          else s1.mboxWrite n (if i = 0xFFFFFFFF then none else some i) (fieldAt e 1 1) (BitVec.ofNat 64 (fieldAt e 0x10 8)))

/-! ### LAUNCH (R287) -/

/-- R287: the record keeps what LAUNCH asks of it beside the limits of Table 16-1. -/
def launchOk (bs : List Byte) (cnt len : Nat) : Bool :=
  let done := fieldAt bs 0x30 8
  fieldAt bs 0 4 == 1 && fieldAt bs 0x10 4 != 0 && fieldAt bs 0x20 8 == 0 && fieldAt bs 0x28 2 == 0 &&
  decide (fieldAt bs 8 2 < cnt) && decide (fieldAt bs 0xA 2 < cnt) && done % 32 == 0 && decide (done + 32 ≤ len)

/-- The child submitted: a duplicate among the live children of the VF completes the new node with status 3 (R287). -/
def State.submitChild (s : State) (bs : List Byte) (cap : BitVec 128) : State :=
  let l := s.ctx.launch
  let id := BitVec.ofNat 32 (fieldAt bs 4 4)
  let n := nodeOfRecord bs s.nextUid l.vf id (.buffer cap (fieldAt bs 0x30 8)) l.captab false
  let n1 := { n with prio := min n.prio l.prio, parent := some l.uid }
  if s.nodes.any (fun m => m.vf == l.vf && m.node == id && m.parent.isSome) then s.writeRecord n1 (Report.plain 3)
  else State.submit { s with nextUid := s.nextUid + 1 } n1

/-- LAUNCH once the record's bytes are there. A node table that is full makes it wait. -/
def launchTail (b : FmtY) (bs : List Byte) (s : State) : WR State :=
  let cap := (s.ctx.getC b.a).val
  let put := fun (v : Word) (s : State) => WR.done (s.updCtx fun c => (c.setS b.d v).nextRegion)
  if !launchOk bs s.ctx.launch.captab.length (capLen cap) then put 2 s
  else if 64 ≤ (s.nodes.filter fun n => n.parent == some s.ctx.launch.uid).length then put 1 s
  else if 4096 ≤ (s.nodes.filter (·.vf == s.ctx.launch.vf)).length then .stall (s.waitAt (.busy 0 []))
  else put 0 (s.submitChild bs cap)

/-- R162: a context at region 0xFFFF waits before LAUNCH goes further, so that its submission is made once. -/
def wrapFirst (k : State → WR State) (s : State) : WR State :=
  match s.ctx.wait with
  | .none_ =>
    if s.ctx.regs.csr.regionno = 0xFFFF ∧ s.stamped s.cur = true then .stall (s.waitAt (.regionWrap false)) else k s
  | .regionWrap false => .stall s
  | .regionWrap true => k (s.waitAt .none_)
  | _ => k s

/-- The plain load of the record: its parts pass the checks of their homes, where a refusal is precise; of a checked buffer they make their
reader stamps (R160), without a race cause, which R287 does not list. -/
def State.recordParts (s : State) (l : List Part) : Did :=
  match l.find? fun p => s.homeRefuses p.req with
  | some p => .bad (s.countRefusal p.req.dst p.req.part p.req.buf) p.req .permRemote 0
  | none => ((s.useParts l).partsPass l).doParts (l.map Part.pass) []

/-- What the reading of the record did. -/
def launchRead (b : FmtY) : Did → WR State
  | .wait s => .stall s
  | .bad s r cause stamp => badWord s r cause stamp
  | .got s bs => launchTail b bs s

/-- R287. DEDUCED (log 67): the reading of the record raises no race cause, since the causes of LAUNCH list none. -/
def launchBody (b : FmtY) (s : State) : WR State :=
  deliverThen (fun s =>
    match checkCap s.ctx b.a b.imm.toNat 256 (rRead ||| rWrite) 256 with
    | .error t => trapOf s t
    | .ok w =>
      match s.heard 0 with
      | some d => launchRead b d
      | none => wrapFirst (arriveThen 4 (fun s =>
        match s.translate s.ctx w 256 (rRead ||| rWrite) .read with
        | .error x => stopWord s x
        | .ok (en, l) => launchRead b (s.recordParts (s.parts AccMode.read w en l 0 [])))) s) s

/-- R286, R287: LAUNCH. -/
def execLaunch (h : Hdr) (b : FmtY) (s : State) : Host.Outcome State Fault Refusal :=
  runWord (issueY 0x18 h b [] b.d) (launchBody b) s

end Sys2Proof.Machine
end

