-- ==== Sys2Proof/Machine/EvHost.lean ====
section
/-! DEFINITION. Machine/EvHost.lean: privileged registers (02 Table 2-5a; 08 R171; 12 R241, R249 to R253; 13 R269; 15 R281, R301 to R304;
19 R340 to R351), the TDISP interfaces and the SPDM responder, faults, freeze, the debug port, power and resets (13 R272, R273). -/

namespace Sys2Proof.Machine

/-! ### Extent invalidation (R249) -/

/-- EXTINV0 written with BUSY = 1; a write while BUSY = 1 is ignored. DESIGN CHOICE (log 76): EXTINV1 written while BUSY = 1 is stored (writeReg), and
the invalidation under way then drops what the new value names; R249 says nothing of it. -/
def State.extinv (s : State) (v : BitVec 64) : State :=
  if s.pkg.extBusy then s
  else { s with pkg := { s.pkg with extBusy := v.getLsbD 63, ext0 := v &&& 0xFFFFFC0000000000 } }

/-- EXTINV_BUF (R249). -/
def execExtinvBuf (v : BitVec 64) (s : State) : Host.Outcome State Fault Refusal :=
  .next (s.extinv ((v ||| 0x8000000000000000) &&& 0xBFFFFFFFFFFFFFFF))

/-- EXTINV_ALL (R249). -/
def execExtinvAll (v : BitVec 64) (s : State) : Host.Outcome State Fault Refusal := .next (s.extinv (v ||| 0xC000000000000000))

/-- A word has begun an access and not finished it. -/
def Wait.midway : Wait → Bool
  | .remote _ _ _ | .answered _ _ _ _ _ _ => true
  | .busy _ acc => !acc.isEmpty
  | .check _ _ => true
  | _ => false

/-- A base-die request carries an access to its buffer. -/
def BdReq.isAccess (r : BdReq) : Bool := match r.who with | .none_ | .writeBack _ => false | _ => true

/-- A sector of several runs is under way with its translation. -/
def Copy.midway (p : Copy) : Bool := p.held.isSome && !p.failed && p.got.length % 32 != 0

/-- An access to a buffer that satisfies p has been translated and is not performed at its home yet: a request on its way, a deferred
access, a sector of a copy, or a request at a base die. -/
def State.accessing (s : State) (p : BitVec 20 → Bool) : Bool :=
  s.reqs.any (fun r => p r.buf) ||
  s.slots.any (fun x => (x.2.wait.midway && x.2.rest.any fun y => p y.req.buf) ||
    (x.2.out.any fun o => match o with | .acc a => p a.part.req.buf | .fence _ _ => false) ||
    x.2.copies.any fun q => q.midway && p q.memBuf) ||
  s.memStacks.toList.any fun k => k.queue.any fun r => r.isAccess && p r.buf

/-- An access that may have used a translation under invalidation has not been performed at its home yet. -/
def State.extWaits (s : State) : Bool := s.accessing fun b => s.pkg.ext0.getLsbD 62 || b == s.pkg.ext0.extractLsb' 42 20

/-- The fetch lines that satisfy p leave every level-one instruction cache (R321). -/
def State.dropCode (s : State) (p : CodeLine → Bool) : State :=
  { s with cores := s.cores.map fun x => (x.1, { x.2 with l1i := x.2.l1i.filter fun l => !p l }) }

/-- The translations of the code objects in a buffer that satisfies p are discarded (R313). -/
def State.dropTransl (s : State) (p : BitVec 20 → Bool) : State := { s with transl := s.transl.filter fun x => !p x.buf }

/-- The extent caches drop the translations that satisfy p, and the entry caches the buffers that satisfy q. -/
def State.dropExts (s : State) (p : Extent → Bool) (q : BitVec 20 → Bool) : State :=
  { s with cores := s.cores.map fun x => (x.1, { x.2 with ext := x.2.ext.filter fun y => !p y }),
           dies := s.dies.map fun (d : Die) => { d with entries := d.entries.filter fun y => !q y.buf } }

/-- An invalidation with ALL = 1: every cache of translations and entries is empty, and every instruction cache (R321). -/
def State.invalidateAll (s : State) : State := (s.dropExts (fun _ => true) fun _ => true).dropCode fun _ => true

/-- Every cache drops what the invalidation of a buffer names: translations, and the entry where COUNT is 0 (Table 12-5). -/
def State.invalidated (s : State) (buf : BitVec 20) : State := s.dropExts s.namesExt fun b => getBits s.pkg.ext1 0 32 == 0 && b == buf

/-- EXTINV_COMPLETE (R249): the caches have dropped what the invalidation names, the buffer's fetch lines have left the instruction caches
(R321), and BUSY reads 0. -/
def State.extDone (s : State) : State :=
  if !s.pkg.extBusy ∨ s.extWaits = true then s
  else
    let all := s.pkg.ext0.getLsbD 62
    let buf := s.pkg.ext0.extractLsb' 42 20
    let s2 := if all then s.invalidateAll
      else (s.invalidated buf).dropCode fun l => l.buf == buf
    let entry := all || getBits s.pkg.ext1 0 32 == 0
    let s3 := if entry then s2.dropTransl fun b => all || b == buf else s2
    { s3 with pkg := { s.pkg with extBusy := false, ext0 := s.pkg.ext0 &&& 0x7FFFFFFFFFFFFFFF } }

def execExtinvComplete (s : State) : Host.Outcome State Fault Refusal := .next s.extDone

/-! ### Keys (R250) -/

/-- The key pair in KEYDATA. -/
def Package.keyWord (p : Package) : BitVec 512 :=
  (List.range 8).foldl (fun k i => setBits k (64 * i) 64 ((p.keydata[i]?).getD 0).toNat) 0

/-- KEYSLOT written: LOAD copies KEYDATA into the slot and zeroes KEYDATA, ERASE zeroes the slot, neither for slot 0. -/
def State.keyslot (s : State) (v : BitVec 64) : State :=
  let n := v.extractLsb' 0 7
  let p := { s.pkg with keySlot := n }
  let p1 := if v.getLsbD 63 && n != 0 then
      { p with keys := p.keys.setIfInBounds n.toNat p.keyWord, keydata := Vector.replicate 8 0, keyBusy := some n } else p
  let p2 := if v.getLsbD 62 && n != 0 then { p1 with keys := p1.keys.setIfInBounds n.toNat 0 } else p1
  { s with pkg := p2 }

/-- KEY_LOAD_COMPLETE (R250): LOAD reads 0. -/
def execKeyLoadComplete (s : State) : Host.Outcome State Fault Refusal := .next { s with pkg := { s.pkg with keyBusy := none } }

/-! ### WAYSPLIT (R251, R252) -/

/-- Some context bound on a die holds a capability for a die-scratch buffer of it. -/
def State.usesDieScratch (s : State) (d : Nat) : Bool :=
  let names := fun (v : BitVec 128) => (s.entry (capBuf v)).ty == .dieScratch && (s.entry (capBuf v)).hsel % 8 == d
  s.slots.any fun x => slotDie x.1 == d && x.2.bound &&
    (x.2.launch.captab.any names || x.2.regs.c.toList.any fun r => r.valid && names r.val)

/-- WAYSPLIT written. A change writes back and drops the lines in the ways that it moves, and the die scratch reads as zero. -/
def State.setWaysplit (s : State) (d : Nat) (v : BitVec 64) : State :=
  let n := min (getBits v 0 5) 16
  let old := (s.die d).waysplit.toNat
  if s.usesDieScratch d ∨ old = n then s
  else
    let moved := (s.die d).l2.filter fun x => decide (min old n ≤ x.2) && decide (x.2 < max old n)
    let s1 := moved.foldl (fun s x => if homeDie (x.1 * 128) = d then s.lineDrop x.1 true else s.dropCopy d x.1) s
    let s2 : State := { s1 with mem := memClear s1.mem (locDie d 0) (2 ^ 32) }
    s2.updDie d fun x => { x with waysplit := BitVec.ofNat 5 n }

/-! ### Partitions (R301, R302) -/

/-- VFPART written. DESIGN CHOICE (log 76): each VF has one process, which gets its copy of the device tree as the VF is enabled; R323 says nothing of
when a process begins. -/
def State.setVfpart (s : State) (v : Nat) (w : BitVec 64) : State :=
  let p := getBits w 0 4
  if 12 ≤ p then { s with pkg := { s.pkg with vfEn := setBits s.pkg.vfEn v 1 0 } }
  else
    let s1 : State := { s with pkg := { s.pkg with
      vfEn := setBits s.pkg.vfEn v 1 (getBits w 4 1), vfPart := s.pkg.vfPart.setIfInBounds v (BitVec.ofNat 4 p) } }
    if w.getLsbD 4 && !s.pkg.vfEn.getLsbD v then s1.copyTree v else s1

/-- The interface of a VF is locked (Table 19-1). -/
def State.locked (s : State) (v : Nat) : Bool := (s.vf v).tdisp == .configLocked || (s.vf v).tdisp == .run

/-- PARTHARN written: the bit of a partition that holds a locked VF is not set (R302). -/
def State.setPartharn (s : State) (w : BitVec 64) : State :=
  let held := fun (p : Nat) => (List.range 64).any fun v => s.locked v && s.vfPartition v == p
  let v := (List.range 12).foldl (fun (x : BitVec 12) p =>
    setBits x p 1 (if w.getLsbD p && (!held p || s.pkg.partharn.getLsbD p) then 1 else 0)) 0
  { s with pkg := { s.pkg with partharn := v } }

/-- A value for PARTMAP of a die: 12 to 14 store 15; fields of clusters beyond a B-die's four are RSV. -/
def partmapRule (d : Nat) (w : BitVec 64) : BitVec 48 :=
  (List.range (dieCores d / 16)).foldl (fun (x : BitVec 48) c =>
    setBits x (4 * c) 4 (if 12 ≤ getBits w (4 * c) 4 then 15 else getBits w (4 * c) 4)) 0

def State.setPartmap (s : State) (d : Nat) (w : BitVec 64) : State := s.updDie d fun x => { x with partmap := partmapRule d w }

/-! ### Bind records (R289) -/

/-- A member by VF, node id and member index. -/
def State.memberAt (s : State) (v : Nat) (node inst : BitVec 32) : Option (Nat × Member) :=
  s.members.find? fun x => x.2.launch.vf == v && x.2.launch.node == node && x.2.launch.inst == inst

/-- The RW fields of d0 beside STATE (Table 15-3). -/
def BindRec.putD0 (b : BindRec) (v : BitVec 64) : BindRec :=
  { b with start := v.extractLsb' 58 2, prio := v.extractLsb' 52 6, vf := v.extractLsb' 46 6, part := v.extractLsb' 42 4,
           node := v.extractLsb' 10 32 }

/-- A BIND written to a record: the member that VF, NODE and INST name is bound as the record says. -/
def State.bindRaw (s : State) (k : Nat) (b : BindRec) : State :=
  match s.memberAt b.vf.toNat b.node b.inst with
  | none => s
  | some x =>
    if s.mayBind b.vf.toNat && s.roomFor x.2.launch k then
      (s.bindTo k x.1 x.2).updSlot k fun c =>
        { c with bind := { b with st := c.bind.st }, launch := { c.launch with part := b.part.toNat, prio := b.prio.toNat } }
    else s

/-- A dword of a bind record written by Basecamp: its fields are stored, and STATE of d0 acts on the slot. A write of d0 that Table 15-3 or 15-4
calls ignored changes nothing. DESIGN CHOICE (log 54): the tables say nothing of Basecamp writing STATE 2, 4, 5 or 6, nor of a BIND that names no
member, or one that Basecamp does not bind there (R48, R301, Table 19-1); such a write stores the other fields and leaves STATE. -/
def State.setBindRec (s : State) (k n : Nat) (v : BitVec 64) : State :=
  let c := s.slot k
  let put := fun (b : BindRec) => s.updSlot k fun c => { c with bind := b }
  if n = 1 then put { c.bind with inst := v.extractLsb' 32 32, ninst := v.extractLsb' 0 32 }
  else if n = 2 then put { c.bind with frame := v.extractLsb' 12 28, fkey := v.extractLsb' 0 7 }
  else if n = 3 then put { c.bind with wdleft := v }
  else
    let st := getBits v 60 4
    let b := c.bind.putD0 v
    let s1 := put b
    if 7 ≤ st then s
    else if st = 3 then (if c.bind.st = .run then s1.updSlot k (Ctx.beginSave .preemption) else s)
    else if st = 1 then
      (if c.bind.st = .free ∧ getBits v 58 2 < 2 then (if s.trained then s1.bindRaw k b else s1) else s)
    else if st = 0 then (if c.bind.st = .free then s1 else s1.freeSlot k)
    else s1

/-! ### Register writes (R6) -/

/-- PARTLOG written (Table 19-3): OVF and COUNT are W1C. -/
def PartLog.write (p : PartLog) (v : BitVec 64) : PartLog :=
  { p with ovf := p.ovf && !v.getLsbD 63, count := if getBits v 0 32 = 0 then p.count else 0 }

/-- ROWACT written (Table 13-4). -/
def rowactRule (v : BitVec 64) : Word :=
  BitVec.ofNat 64 (getBits v 63 1 * 2 ^ 63 + (if 2 ≤ getBits v 16 2 then 1 else getBits v 16 2) * 2 ^ 16 + max 16 (getBits v 0 16))

/-- A value limited to a range. -/
def clampNat (lo hi v : Nat) : Nat := max lo (min v hi)

/-- A pool boundary written (Table 2-5a). A change of the level-one data cache's storage discards its lines (R49). -/
def Core.setBound (c : Core) (n : Nat) (v : BitVec 64) : Core :=
  let b := BitVec.ofNat 8 (min 128 (getBits v 0 8))
  let c1 := if n = 0 then { c with poolb0 := b } else if n = 1 then { c with poolb1 := b } else { c with poolb2 := b }
  if c1.bounds.2 = c.bounds.2 then c1 else { c1 with l1d := [] }

/-- A write of a privileged register: its RW fields take the value that its table gives, RO and RSV fields keep theirs. -/
def State.writeReg (s : State) (r : PrivReg) (v : BitVec 64) : State :=
  let pkg := fun (p : Package) => { s with pkg := p }
  match r with
  | .poolb d c n => let k := coreKey (slotIndex d c 0); s.setCore k ((s.core k).setBound n v)
  | .pitchcfg d n =>
    let m : BitVec 64 := if n % 2 = 0 then 0xEFFFFFFFFFFFFFFF else 0x00003FFFFFFFFFFF
    s.updDie d fun x => { x with pitchcfg := x.pitchcfg.setIfInBounds n (v &&& m) }
  | .btbase => pkg { s.pkg with btbase := v.extractLsb' 12 28 }
  | .btcount => pkg { s.pkg with btcount := BitVec.ofNat 21 (min (getBits v 0 21) (2 ^ 20)) }
  | .extinv0 => s.extinv v
  | .extinv1 => pkg { s.pkg with ext1 := v }
  | .keyslot => s.keyslot v
  | .keydata n => pkg { s.pkg with keydata := s.pkg.keydata.setIfInBounds n v }
  | .quantum => pkg { s.pkg with quantum := v }
  | .freezeReg => pkg { s.pkg with
      freezeArm := v.getLsbD 63, freezeAt := v.extractLsb' 0 62, freezeFrom := max (getBits v 0 62) (s.tick + 1) }
  | .pwrcap => pkg { s.pkg with watts := BitVec.ofNat 12 (clampNat 1600 3200 (getBits v 0 12)) }
  | .partharn => s.setPartharn v
  | .vfpart n => s.setVfpart n v
  | .waysplit d => s.setWaysplit d v
  | .l2waymask d n => s.updDie d fun x => { x with l2waymask := x.l2waymask.setIfInBounds n (v.extractLsb' 0 16) }
  | .rowact d n => s.updDie d fun x => { x with rowact := x.rowact.setIfInBounds n (rowactRule v) }
  | .rowstat _ _ => s
  | .trainstat _ _ => s
  | .partmap d => s.setPartmap d v
  | .partlog d p => s.updDie d fun x => { x with partlog := x.partlog.setIfInBounds p (((x.partlog[p]?).getD PartLog.zero).write v) }
  | .bindRec k n => s.setBindRec k n v
  | .sqbase n q => s.setQueue n q { s.queue n q with base := v &&& 0xFFFFFFFFFFFFFFC0 }
  | .sqsize n q => s.setQueue n q { s.queue n q with size := BitVec.ofNat 13 (min (getBits v 0 13) 4096) }
  | .sqtail n q => s.sqtail n q v
  | .sqhead _ _ => s

/-! ### Register reads (R6): RSV bits read as zero -/

/-- PWRCAP.STEP: the lowest main-clock step of any die (Table 19-5). -/
def State.lowestStep (s : State) : Nat := s.dies.toList.foldl (fun n d => min n d.step16) 16

/-- The stack of an index on its die. -/
def stackOn (d n : Nat) : Nat := ((List.range 12).find? fun k => stackDie k == d && stackSide k == n).getD 0

/-- The code of a slot state (Table 15-4). -/
def BindSt.code : BindSt → Nat
  | .free => 0 | .bind => 1 | .run => 2 | .save => 3 | .saved => 4 | .halted => 5 | .faulted => 6

/-- A dword of a bind record (Table 15-3). -/
def BindRec.dword (b : BindRec) (n : Nat) : Word :=
  if n = 0 then BitVec.ofNat 64 (b.st.code * 2 ^ 60 + b.start.toNat * 2 ^ 58 + b.prio.toNat * 2 ^ 52 + b.vf.toNat * 2 ^ 46 +
    b.part.toNat * 2 ^ 42 + b.node.toNat * 2 ^ 10)
  else if n = 1 then b.inst ++ b.ninst
  else if n = 2 then BitVec.ofNat 64 (b.frame.toNat * 2 ^ 12 + b.fkey.toNat)
  else b.wdleft

/-- The value of a privileged register. KEYDATA reads as zero: no agent can read a key back (R250). -/
def State.readReg (s : State) : PrivReg → Word
  | .poolb d c n =>
    let x := s.core (coreKey (slotIndex d c 0))
    (if n = 0 then x.poolb0 else if n = 1 then x.poolb1 else x.poolb2).setWidth 64
  | .pitchcfg d n => ((s.die d).pitchcfg[n]?).getD 0
  | .btbase => s.pkg.btbase.setWidth 64 <<< 12
  | .btcount => s.pkg.btcount.setWidth 64
  | .extinv0 => if s.pkg.extBusy then s.pkg.ext0 ||| 0x8000000000000000 else s.pkg.ext0
  | .extinv1 => s.pkg.ext1
  | .keyslot => BitVec.ofNat 64 ((if s.pkg.keyBusy.isSome then 2 ^ 63 else 0) + s.pkg.keySlot.toNat)
  | .keydata _ => 0
  | .quantum => s.pkg.quantum
  | .freezeReg => BitVec.ofNat 64 (s.pkg.freezeArm.toNat * 2 ^ 63 + s.pkg.frozen.toNat * 2 ^ 62 + s.pkg.freezeAt.toNat)
  | .pwrcap => BitVec.ofNat 64 (s.lowestStep * 2 ^ 16 + s.pkg.watts.toNat)
  | .partharn => s.pkg.partharn.setWidth 64
  | .vfpart v => BitVec.ofNat 64 (getBits s.pkg.vfEn v 1 * 16 + s.vfPartition v)
  | .waysplit d => (s.die d).waysplit.setWidth 64
  | .l2waymask d v => (((s.die d).l2waymask[v]?).getD 0).setWidth 64
  | .rowact d n => ((s.die d).rowact[n]?).getD 0
  | .rowstat d n => (s.stack (stackOn d n)).rfm ++ (s.stack (stackOn d n)).alerts
  | .trainstat d n => ((s.die d).trainstat[n]?).getD 0
  | .partmap d => (s.die d).partmap.setWidth 64
  | .partlog d p =>
    let x := ((s.die d).partlog[p]?).getD PartLog.zero
    BitVec.ofNat 64 (x.ovf.toNat * 2 ^ 63 + x.lastBuf.toNat * 2 ^ 32 + x.count.toNat)
  | .bindRec k n => (s.slot k).bind.dword n
  | .sqbase v q => (s.queue v q).base
  | .sqsize v q => (s.queue v q).size.setWidth 64
  | .sqtail v q => (s.queue v q).tail.setWidth 64
  | .sqhead v q => (s.queue v q).head.setWidth 64

/-! ### The TDISP lock (R342) -/

/-- The interface of a VF moves to ERROR: EN is cleared. -/
def State.toError (s : State) (v : Nat) : State :=
  State.updVf { s with pkg := { s.pkg with vfEn := setBits s.pkg.vfEn v 1 0 } } v fun x => { x with tdisp := .error }

/-- The VFs whose items a register holds (Table 19-1): VFPART, L2WAYMASK, key slots that their buffers use, and queues. -/
def State.itemOf (s : State) (r : PrivReg) (v : BitVec 64) : List Nat :=
  match r with
  | .vfpart n => [n]
  | .l2waymask _ n => [n]
  | .sqbase n _ => [n]
  | .sqsize n _ => [n]
  | .keyslot => ((s.bufs.map s.entry).filter fun e => e.v && e.key != 0 && e.key == getBits v 0 7).map (·.vf)
  | _ => []

/-- The VFs whose buffer-table entries a write of dwords covers. -/
def State.tableItems (s : State) (pa n : Nat) : List Nat :=
  (s.bufs.filter fun b =>
    rangesMeet (s.btBase + 64 * b.toNat) 64 pa (8 * n) && (s.entry b).v).map fun b => (s.entry b).vf

/-- Dwords written at a physical address by Basecamp. The caches keep what they hold of them until an invalidation (R249). -/
def State.writeTable (s : State) (pa : Nat) (data : List (BitVec 64)) : State :=
  { s with mem := memWrite s.mem (((List.range data.length).zip data).map fun x => dwordCells (pa + 8 * x.1) x.2).flatten }

/-- What a change covers, and what it does. -/
def State.changeItems (s : State) : ConfigChange → List Nat
  | .register r v => s.itemOf r v
  | .table pa data => s.tableItems pa data.length
def State.applyChange (s : State) : ConfigChange → State
  | .register r v => s.writeReg r v
  | .table pa data => s.writeTable pa data

/-- The VF whose STOP_INTERFACE is not over and whose items a change covers. -/
def State.stopping (s : State) (x : ConfigChange) : Option Nat := (s.changeItems x).find? fun v => (s.vf v).reset == some true

/-- A change to the buffer table or page tables of a VF in ERROR, whose memory stays unreadable to every other VF (Table 19-1). -/
def State.bars (s : State) : ConfigChange → Bool
  | .register _ _ => false
  | .table pa data => (s.tableItems pa data.length).any fun v => (s.vf v).tdisp == .error

/-- A change that has its turn behind the stops before it: it is held behind a STOP_INTERFACE that is not over, and then applies to the unlocked
interface (R342); a change to the entries of a VF in ERROR is not made. -/
def State.inTurn (s : State) (f : State → State) (x : ConfigChange) : State :=
  match s.stopping x with
  | some v => s.updVf v fun y => { y with later := y.later ++ [x] }
  | none => if s.bars x then s else f s

/-- A change that comes from no interface's own session: refused for a locked VF, whose interface moves to ERROR. -/
def State.guarded (s : State) (x : ConfigChange) : State :=
  s.inTurn (fun s =>
    let l := (s.changeItems x).filter s.locked
    if l = [] then s.applyChange x else l.foldl State.toError s) x

/-- A register that Basecamp alone writes: a pool boundary (R46), a pitch register (R171), a bind record (R289). -/
def basecampOnly : ConfigChange → Bool
  | .register (.poolb _ _ _) _ => true
  | .register (.pitchcfg _ _) _ => true
  | .register (.bindRec _ _) _ => true
  | _ => false

/-- TDISP_CHANGE_REQUEST (R342): a change to a locked VF's items is applied from its own SPDM session. -/
def execTdispChangeRequest (vf : Nat) (ownSession : Bool) (change : ConfigChange) (s : State) : Host.Outcome State Fault Refusal :=
  .next (if basecampOnly change then s
    else if ownSession && (s.vf vf).session && (s.changeItems change).all (fun v => v == vf || !s.locked v) then
      s.inTurn (fun s => s.applyChange change) change
    else s.guarded change)

/-- REGISTER_WRITE (R6): a write by Basecamp, or one that it carries out. -/
def execRegisterWrite (r : PrivReg) (v : BitVec 64) (s : State) : Host.Outcome State Fault Refusal := .next (s.guarded (.register r v))

/-- TABLE_ENTRY_CHANGE (R249). -/
def execTableEntryChange (pa : Nat) (data : List (BitVec 64)) (s : State) : Host.Outcome State Fault Refusal :=
  .next (s.guarded (.table pa data))

/-- KEY_LOAD (R250). -/
def execKeyLoad (v : BitVec 64) (s : State) : Host.Outcome State Fault Refusal :=
  .next (s.guarded (.register .keyslot ((v ||| 0x8000000000000000) &&& 0xBFFFFFFFFFFFFFFF)))

/-- KEY_ERASE (R250). -/
def execKeyErase (v : BitVec 64) (s : State) : Host.Outcome State Fault Refusal :=
  .next (s.guarded (.register .keyslot ((v ||| 0x4000000000000000) &&& 0x7FFFFFFFFFFFFFFF)))

/-- WAYSPLIT_WRITE (R252). -/
def execWaysplitWrite (die : Nat) (v : BitVec 64) (s : State) : Host.Outcome State Fault Refusal := .next (s.setWaysplit die v)

/-- VFPART_WRITE (R301). -/
def execVfpartWrite (vf : Nat) (v : BitVec 64) (s : State) : Host.Outcome State Fault Refusal := .next (s.guarded (.register (.vfpart vf) v))

/-- PARTHARN_WRITE (R302). -/
def execPartharnWrite (v : BitVec 64) (s : State) : Host.Outcome State Fault Refusal := .next (s.setPartharn v)

/-- LOCK_INTERFACE (R342, R302): from CONFIG_UNLOCKED, unless the VF's partition is a harness partition. DESIGN CHOICE (log 76): it is ignored in
any other state; R342 gives no outcome there. -/
def execLockInterface (vf : Nat) (s : State) : Host.Outcome State Fault Refusal :=
  .next (if (s.vf vf).tdisp = .configUnlocked ∧ s.pkg.partharn.getLsbD (s.vfPartition vf) = false then
    s.updVf vf fun x => { x with tdisp := .configLocked } else s)

/-- START_INTERFACE (R342). DESIGN CHOICE (log 76): it is ignored in any state but CONFIG_LOCKED; R342 gives no outcome there. -/
def execStartInterface (vf : Nat) (s : State) : Host.Outcome State Fault Refusal :=
  .next (if (s.vf vf).tdisp = .configLocked then s.updVf vf fun x => { x with tdisp := .run } else s)

/-- KEY_EXCHANGE (R343): the secure session of an interface, or of PF0 (64). -/
def execKeyExchange (vf : Nat) (s : State) : Host.Outcome State Fault Refusal :=
  .next (if s.spdmUp then s.updVf vf fun x => { x with session := true } else s)

/-- IDE_STREAM_KEYING (R341). -/
def execIdeStreamKeying (vf : Nat) (s : State) : Host.Outcome State Fault Refusal := .next (s.updVf vf fun x => { x with keyed := true })

/-! ### VF reset (R253, R304, R342) -/

/-- Pages of a buffer. -/
def Entry.pages (e : Entry) : Nat :=
  if e.length = 0 then 0
  else if e.ilv = 0 then (e.length - 1) / 2 ^ e.pageBits + 1
  else
    let g := ilvGrain e
    (((e.length - 1) / g / (ilvStacks e).length + 1) * g - 1) / 2 ^ e.pageBits + 1

/-- The frames of a global buffer of this package, as first physical addresses, of every valid leaf, resident or not (Table 12-3; log 47). A
diagnostic buffer's frames are none of DRAM's (R271). -/
def State.framesOf (s : State) (e : Entry) : List Nat :=
  if e.ty ≠ .global ∨ e.hpol = 1 then []
  else ((List.range e.pages).map fun p =>
    match s.leaf e p with
    | none => []
    | some l =>
      let a := getBits l 12 28 * 4096
      if a % 2 ^ e.pageBits ≠ 0 then []
      else if e.ilv = 0 then (if a / 2 ^ 36 < 12 then [a] else [])
      else (ilvStacks e).map fun k => k * 2 ^ 36 + a % 2 ^ 36).flatten

/-- A frame loses its cached lines without write-back and becomes SCRUB-PENDING. -/
def State.scrubFrame (s : State) (a size : Nat) : State :=
  let out := fun (line : Nat) => !(decide (a / 128 ≤ line) && decide (line < (a + size) / 128))
  let s1 : State := { s with
    homeLines := s.homeLines.filter fun x => out x.1, lineBuf := s.lineBuf.filter fun x => out x.1, presence := s.presence.filter fun x => out x.1,
    linePoison := s.linePoison.filter fun k => out (k / 4),
    reqs := s.reqs.map fun (r : Req) => if r.opc = 1 ∧ out (lineOf r.loc) = false then { r with stale := true } else r,
    dies := s.dies.map fun (d : Die) =>
      { d with copies := d.copies.filter fun x => out x.1, l2 := d.l2.filter fun x => out x.1, heldInv := d.heldInv.filter out },
    cores := s.cores.map fun (x : Nat × Core) => (x.1, { x.2 with l1d := x.2.l1d.filter fun y => out y.1 }) }
  s1.updStack (paStack a) fun k =>
    { k with msc := k.msc.filter fun x => out x.1, mscPoison := k.mscPoison.filter fun x => out (x / 4),
             mscWeak := k.mscWeak.filter fun x => out (x / 4),
             scrub := k.scrub.filter (fun f => f.base != a / 4096) ++ [⟨a / 4096, size / 4096, 0, []⟩] }

/-- Key slots that only the buffers of a VF use. -/
def State.ownKeys (s : State) (v : Nat) : List Nat :=
  let es := (s.bufs.map s.entry).filter fun e => e.v && e.key != 0
  ((es.filter (·.vf == v)).map (·.key)).filter fun k => !es.any fun e => e.vf != v && e.key == k

/-- The frames of the buffers of a VF, with their sizes. -/
def State.vfFrames (s : State) (v : Nat) : List (Nat × Nat) :=
  ((s.bufs.filter fun b => (s.entry b).v && (s.entry b).vf == v).map fun b =>
    (s.framesOf (s.entry b)).map fun a => (a, 2 ^ (s.entry b).pageBits)).flatten

/-- Requests of a VF are outstanding, or accesses that the invalidation of its reset waits for (R249, R253), or base-die requests to its frames. -/
def State.resetWaits (s : State) (v : Nat) : Bool :=
  s.reqs.any (fun r => r.vf == v) || s.accessing (fun _ => true) ||
  (s.memStacks.toList.any (fun k => k.queue != []) && (s.vfFrames v).any fun f =>
    (s.stack (paStack f.1)).queue.any fun r => r.spans.any fun x => rangesMeet x.1 x.2 f.1 f.2)

/-- Steps 3 to 6 of R304: queues, node table, memory, way masks and keys. -/
def State.resetVfState (s : State) (v : Nat) : State :=
  let bufs := s.bufs.filter fun b => (s.entry b).v && (s.entry b).vf == v
  let frames := s.vfFrames v
  let keys := (s.ownKeys v).foldl (fun (k : Vector (BitVec 512) 128) n => k.setIfInBounds n 0) s.pkg.keys
  let s1 := bufs.foldl (fun s b =>
    let a := s.btBase + 64 * b.toNat
    { s with mem := memWrite s.mem (dwordCells a ((s.entry b).d0 &&& 0x7FFFFFFFFFFFFFFF)) }) s
  let s2 := frames.foldl (fun s f => s.scrubFrame f.1 f.2) s1.invalidateAll
  let s3 : State := { s2 with
    pkg := { s2.pkg with keys := keys },
    nodes := s2.nodes.filter fun n => n.vf != v,
    teams := s2.teams.filter fun t => t.vf != v,
    frames := s2.frames.filter fun x => x.2.vf != v,
    transl := s2.transl.filter fun x => x.vf != v,
    queues := s2.queues.map fun (x : Nat × Queue) => if x.1 / 4 = v then (x.1, { x.2 with head := x.2.tail }) else x,
    dies := s2.dies.map fun (d : Die) => { d with l2waymask := d.l2waymask.setIfInBounds v 0xFFFF } }
  let stop := (s3.vf v).reset == some true
  let s4 := s3.updVf v fun x => { x with
    kept := [], unsent := [], cancels := [], reset := none, later := [], tdisp := if stop then .configUnlocked else x.tdisp }
  (s3.vf v).later.foldl State.guarded s4

/-- R304: EN is cleared and every context discarded; the rest follows once no request of the VF is outstanding. -/
def State.resetVf (s : State) (v : Nat) (stop : Bool) : State :=
  let s1 := s.dropMembers fun l => l.vf == v
  let s2 : State := { s1 with pkg := { s1.pkg with vfEn := setBits s1.pkg.vfEn v 1 0 } }
  let s3 := s2.updVf v fun x => { x with reset := some (stop || x.reset == some true) }
  if s3.resetWaits v then s3 else s3.resetVfState v

/-- VF_RESET (R304). -/
def execVfReset (vf : Nat) (s : State) : Host.Outcome State Fault Refusal := .next (s.resetVf vf false)

/-- STOP_INTERFACE (R342). -/
def execStopInterface (vf : Nat) (s : State) : Host.Outcome State Fault Refusal := .next (s.resetVf vf true)

/-! ### Partition mode change (R303) -/

/-- Slots on affected clusters that hold contexts in states 1 to 3. -/
def State.affectedSlots (s : State) : List (Nat × Ctx) :=
  s.slots.filter fun x => x.2.bound && s.affected (slotDie x.1) (slotCluster x.1)

/-- The queued members of a node find slots for all of them at once when every slot is free: in their partition, with room in the pool, and for a
rope on a chain (R290, R292, R140). -/
def State.gangFits (s : State) (nid : Nat) : Bool :=
  (State.bindPass { s.without (fun _ _ => true) with claims := [], modeChg := none }
    ((s.members.filter fun x => x.2.launch.nid == nid).foldr insertMember [])).isSome

/-- A member whose VF's partition holds no cluster for its class, or whose gang no longer fits. -/
def State.homeless (s : State) (m : Member) : Bool :=
  s.partSlots m.launch.vf m.cls == 0 || (m.launch.team && !s.gangFits m.launch.nid)

/-- PART_NOCLASS events for the members that stay queued. -/
def State.postNoclass (s : State) : State :=
  let l := ((s.members.filter fun x => s.homeless x.2).map fun x => (x.2.launch.vf, x.2.launch.node)).eraseDups
  { s with hyper := { s.hyper with noclass := s.hyper.noclass ++ l } }

/-- A step of a mode change: under preempt, contexts on affected clusters are saved; when none is left and their requests are answered,
the maps are written. -/
def State.modeStep (s : State) (m : ModeChange) : State :=
  let s1 : State := { s with modeChg := some m }
  let l := s1.affectedSlots
  if l ≠ [] then
    (if m.preempt then l.foldl (fun s x => s.saveWhole x.1 .partitionChange) s1 else s1)
  else if s1.reqs.any (fun r => s1.affected (slotDie r.slot) (slotCluster r.slot)) then s1
  else
    State.postNoclass { m.maps.foldl (fun s x => s.setPartmap x.1 x.2) s1 with modeChg := none }

/-- PARTITION_MODE_CHANGE (R303): a change under way goes on. -/
def execPartitionModeChange (preempt : Bool) (maps : List (Nat × BitVec 64)) (s : State) : Host.Outcome State Fault Refusal :=
  .next (s.modeStep (s.modeChg.getD ⟨preempt, maps.map (fun x => (x.1, (partmapRule x.1 x.2).setWidth 64)), []⟩))

/-! ### Attestation (R343, R344) -/

/-- What the responders of PF0 and of the VFs advertise, and the algorithms that they use (R343). -/
inductive SpdmCap where
  | cert | chal | measSigned | keyEx | encrypt | mac
  deriving DecidableEq, Repr
inductive SpdmAlg where
  | ecdsaP521 | sha512 | aes256Gcm
  deriving DecidableEq, Repr
def spdmCaps : List SpdmCap := [.cert, .chal, .measSigned, .keyEx, .encrypt, .mac]
def spdmAlgs : List SpdmAlg := [.ecdsaP521, .sha512, .aes256Gcm]

/-- A certificate slot (R343): the die, its chain, and its leaf key, which is the die's identity key. -/
structure CertSlot where
  die   : Nat
  chain : List Byte
  leaf  : List Byte
  deriving DecidableEq, Repr

/-- Slot d, of 0 to 7, holds the chain of die d. -/
def certSlot (d : Nat) : CertSlot := ⟨d, Config.certChain d, Config.identityKey d⟩
def certSlots : List CertSlot := (List.range 8).map certSlot

/-- Measurement block 5 of a die, as what it measures. -/
def State.block5 (s : State) (d : Nat) : List (BitVec 64) := (s.die d).partmap.setWidth 64 :: (s.die d).pitchcfg.toList

/-- Measurement blocks 1 to 4 of a die, taken at the last reset, before the die takes part in any bind (Table 19-2). -/
def State.blocks (s : State) (d : Nat) : List (BitVec 512) := (countFrom 1 4).map (Config.blockDigest s.measured d)

/-- An answer signed by the die whose chain slot d holds, over its measurements. -/
def State.signBy (s : State) (d : Nat) : State :=
  if s.spdmUp then { s with signed := s.signed ++ [⟨(certSlot d).die, s.blocks d, s.block5 d⟩] } else s

/-- CHALLENGE (R344). -/
def execChallenge (slot : Nat) (s : State) : Host.Outcome State Fault Refusal := .next (s.signBy slot)

/-- GET_MEASUREMENTS (R344). -/
def execGetMeasurements (slot : Nat) (s : State) : Host.Outcome State Fault Refusal := .next (s.signBy slot)

/-! ### Recoverable faults (R347) -/

/-- A request sent again from its requester's record, with its timer restarted and no resend counted. -/
def State.resend (s : State) (r : Req) : State :=
  let r1 := { r with sent := s.tick }
  State.sendReq { s with reqs := s.reqs.map fun (q : Req) => if q.id = r.id then r1 else q } r1

/-- Requests of a stack's queue sent again with the same TAG and GEN. -/
def Stack.resendAll (k : Stack) (tick : Nat) : Stack :=
  { k with queue := k.queue.map fun (r : BdReq) => if r.tag.isSome then { r with reply := none, sent := tick, lost := false } else r }

/-- A link of a die loses its packets, and their requesters resend. -/
def State.relink (s : State) (d link : Nat) : State :=
  let lost := fun (p : Pkt) => p.route.any fun h => h.1 == d && h.2.1 == link
  let ids := (s.net.filter lost).map fun p => p.parts.1.id
  let s1 : State := { s with net := s.net.filter fun p => !lost p, rx := s.rx.map fun x => (x.1, x.2.filter fun p => !lost p) }
  (s1.reqs.filter fun r => ids.contains r.id).foldl State.resend s1

/-- What a unit's reset does (R347). -/
def State.recover (s : State) (u : FaultUnit) : State :=
  match u with
  | .extentCache d c => let n := coreKey (slotIndex d c 0); s.setCore n { s.core n with ext := [] }
  | .mpEntryCache d => s.updDie d fun x => { x with entries := [] }
  | .l1i d c => let n := coreKey (slotIndex d c 0); s.setCore n { s.core n with l1i := [] }
  | .l1d d c => let n := coreKey (slotIndex d c 0); s.setCore n { s.core n with l1d := [] }
  | .copyEngine d => (s.reqs.filter fun r => r.src == d && decide (1 ≤ r.ch) && decide (r.ch ≤ 4) && r.src != r.dst).foldl State.resend s
  | .mpQueue k => s.updStack k fun x => x.resendAll s.tick
  | .baseDieQueue k => s.updStack k fun x => x.resendAll s.tick
  | .dieLink d l => s.relink d l

/-- RECOVERABLE_FAULT (R347). -/
def execRecoverableFault (u : FaultUnit) (s : State) : Host.Outcome State Fault Refusal := .next (s.recover u)

/-! ### Freeze, debug port, power (R348 to R350) -/

/-- FREEZE_ARM (R348). -/
def execFreezeArm (v : BitVec 64) (s : State) : Host.Outcome State Fault Refusal :=
  .next (s.writeReg .freezeReg (v ||| 0x8000000000000000))

/-- The freeze is armed and its tick has come: AT, or for a value at or below the count when it was written, the tick after (Table 19-4). -/
def State.freezeDue (s : State) : Bool := s.pkg.freezeArm && decide (s.pkg.freezeFrom ≤ s.tick) && !s.pkg.frozen

/-- FREEZE (R348). -/
def execFreeze (s : State) : Host.Outcome State Fault Refusal :=
  .next (if s.freezeDue then { s with pkg := { s.pkg with frozen := true } } else s)

/-- DEBUG_HALT (R349): of the context of a slot; one that is being saved takes the halt into its frame. -/
def execDebugHalt (k : Nat) (s : State) : Host.Outcome State Fault Refusal :=
  .next (s.updSlot k fun c => if c.bound then { c with halt := true } else c)

/-- DEBUG_RESUME (R349). -/
def execDebugResume (k : Nat) (s : State) : Host.Outcome State Fault Refusal := .next (s.updSlot k fun c => { c with halt := false })

/-- THROTTLE_STEP (R350): no die goes below step 8. -/
def execThrottleStep (die : Nat) (s : State) : Host.Outcome State Fault Refusal :=
  .next (s.updDie die fun x => { x with step16 := if 8 < x.step16 then x.step16 - 1 else x.step16 })

/-- THROTTLE_RAISE (R350). -/
def execThrottleRaise (die : Nat) (s : State) : Host.Outcome State Fault Refusal :=
  .next (s.updDie die fun x => { x with step16 := if x.step16 < 16 then x.step16 + 1 else x.step16 })

/-! ### Resets (R272, R273) -/

/-- TRAINSTAT of a stack. -/
def State.setTrain (s : State) (k st retrained : Nat) : State :=
  s.updDie (stackDie k) fun x => { x with trainstat := x.trainstat.setIfInBounds (stackSide k) (BitVec.ofNat 64 (retrained % 256 * 256 + st)) }

/-- CRC-32 of IEEE 802.3 over bytes. -/
def crc32Step (c : Nat) : Nat := if c % 2 = 1 then Nat.xor (c / 2) 0xEDB88320 else c / 2
def crc32 (bs : List Byte) : Nat :=
  Nat.xor (bs.foldl (fun c b => (List.range 8).foldl (fun c _ => crc32Step c) (Nat.xor c b.toNat)) 0xFFFFFFFF) 0xFFFFFFFF

/-- The first 24 bytes of a stack's record: magic, version, stack id and serial number (Table 13-7). -/
def trainId (k : Nat) : List Byte := bytesOf 4 0x52545644 ++ bytesOf 2 1 ++ bytesOf 2 k ++ bytesOf 16 (Config.serial k).toNat

/-- A training record (Table 13-7) from its temperature and the values of its 2,304 lanes, whose fourth bytes are zero. -/
def trainRecord (k : Nat) (temp : BitVec 16) (lane : Nat → BitVec 24) : List Byte :=
  let l := trainId k ++ bytesOf 2 temp.toNat ++ bytesOf 6 0 ++ ((List.range 2304).map fun i => bytesOf 4 (lane i).toNat).flatten
  l ++ bytesOf 4 (crc32 l)

/-- The temperature and the lanes in a record. -/
def trainTemp (l : List Byte) : BitVec 16 := BitVec.ofNat 16 (numOf ((l.drop 0x18).take 2))
def trainLane (l : List Byte) (i : Nat) : BitVec 24 := BitVec.ofNat 24 (numOf ((l.drop (0x20 + 4 * i)).take 3))

/-- A stack's record may be restored at a temperature (R273). -/
def trainOk (k : Nat) (temp : BitVec 16) (l : List Byte) : Bool :=
  l.take 24 == trainId k && numOf (l.drop 0x2420) == crc32 (l.take 0x2420) && decide ((temp.toInt - (trainTemp l).toInt).natAbs ≤ 20)

/-- Where the record of a stack stands in the flash (R272). -/
def flashOffset (k : Nat) : Nat := 0x100000 + 0x2800 * k

/-- The record of a stack written to the flash. -/
def State.putFlash (s : State) (k : Nat) (bs : List Byte) : State := { s with flash := tabPut (flashOffset k) bs s.flash }

/-- A stack trained in full: trained with a record written to the flash, or failed. DESIGN CHOICE (log 75): a training that fails writes no record,
and the flash keeps the one that it has; R272 says nothing of it. -/
def State.trainFull (s : State) (k : Nat) : State :=
  let (n, s1) := s.draw
  if Config.trainOk n k then
    (s1.setTrain k 2 0).putFlash k (trainRecord k (Config.trainTemp n k) (Config.laneDelays n k))
  else s1.setTrain k 3 0

/-- Every die measures its blocks 1 to 4 (Table 19-2). -/
def State.measure (s : State) : State := { s with measured := s.draws, draws := s.draws + 1 }

/-- COLD_RESET (R272): everything at reset but what stands outside the device, host and peer memory and the flash; every stack is
trained. -/
def State.cold (s : State) : State :=
  let s1 : State := { State.reset with
    agenda := s.agenda, draws := s.draws, mem := s.mem.filter fun x => locKind x.1 == .host || locKind x.1 == .peer,
    flash := s.flash }
  ((List.range 12).foldl State.trainFull s1.measure).boot

def execColdReset (s : State) : Host.Outcome State Fault Refusal := .next s.cold

/-- A stack at warm reset (R273): restored from its record when that holds, with the pseudo-channels that fail the pattern retrained and the record
written again with their lanes; else trained in full. The test pattern leaves the contents of DRAM as they are (R348). -/
def State.trainWarm (s : State) (k : Nat) : State :=
  match tabFind (flashOffset k) s.flash with
  | none => s.trainFull k
  | some r =>
    let (n, s1) := s.draw
    if trainOk k (Config.trainTemp n k) r then
      let m := Config.retrains n k % 65
      let s2 := s1.setTrain k 1 m
      if m = 0 then s2
      else s2.putFlash k (trainRecord k (trainTemp r) fun i => if Config.retrained n k i then Config.laneDelays n k i else trainLane r i)
    else s1.trainFull k

/-- WARM_RESET (R273, R326, R348): DRAM keeps its contents, with its errors and the frames still to be scrubbed; the reference ticks and the
numbers of the requesters go on; the rest is at reset. -/
def State.warm (s : State) : State :=
  let s1 : State := { State.reset with
    agenda := s.agenda, draws := s.draws, tick := s.tick, resetTick := s.tick, secKey := s.secKey, seqs := s.seqs, dups := s.dups,
    mem := s.mem.filter fun x => locKind x.1 == .dram || locKind x.1 == .host || locKind x.1 == .peer,
    flash := s.flash,
    memStacks := s.memStacks.map fun (k : Stack) => { Stack.reset with scrub := k.scrub, poison := k.poison, weak := k.weak } }
  ((List.range 12).foldl State.trainWarm s1.measure).boot

def execWarmReset (s : State) : Host.Outcome State Fault Refusal := .next s.warm

end Sys2Proof.Machine
end

