-- ==== Sys2Proof/Machine/MemScalar.lean ====
section
/-! DEFINITION. Machine/MemScalar.lean: LD, ST, AMO and CAS (20 R354 to R358; 21 R375 to R377, R395 to R398; 22 R436 to R439). -/

namespace Sys2Proof.Machine

/-- The window offset of a scalar access: sext(OFF19), or s[X] · 2^SCALE (R396, R437). -/
def offM (c : Ctx) (b : FmtM) (idx : Bool) : Int :=
  if idx then (c.getS b.x).toInt * 2 ^ getBits b.off 16 3 else b.off.toInt

/-- The alignment that CheckCap checks (R146). -/
def alignM (b : FmtM) (n : Nat) : Nat := if b.ord = 0 then 1 else n

/-- The end of a scalar access: an acquire when ORD = 10, and the end of the region when ORD ≠ 00. DEDUCED (log 67): R176 lists s3 = 0x7711 with
s4 = 0 as allowed, which the single order of R149 with R148 forbids; the model follows R149. -/
def accessEnd (b : FmtM) (s : State) : WR State :=
  let s1 := if b.ord = 2 then s.acquire b.scope.toNat else s
  if b.ord = 0 then .done s1 else endRegion s1

/-- The result in the latch of TA (R41, R80). -/
def tagResult (h : Hdr) (b : FmtM) (bs : List Byte) (s : State) : State :=
  s.updCtx fun c => c.allocS h.ta.toNat b.d (BitVec.ofNat 64 (numOf bs))

/-- What the access of an LD, AMO or CAS did: a wait, a precise cause, or its result in TA, which a cause that is not precise fails later (R358,
R398). -/
def taggedEnd (h : Hdr) (b : FmtM) : Did → WR State
  | .wait s => .stall s
  | .bad s r cause stamp => badWord s r cause stamp
  | .got s bs => accessEnd b (tagResult h b bs s)

/-! ### LD (R396) -/

/-- R396. -/
def loadBody (h : Hdr) (b : FmtM) (n : Nat) (idx : Bool) (s : State) : WR State :=
  match s.heard 0 with
  | some d => taggedEnd h b d
  | none =>
    match s.access s.ctx b.c (offM s.ctx b idx) n rRead (alignM b n) .read with
    | .error x => stopWord s x
    | .ok (w, en, l) => 
      let m := { AccMode.read with plain := b.ord == 0, acq := if b.ord = 2 then some b.scope.toNat else none }
      taggedEnd h b (s.doTagged h.ta.toNat (placeParts (.latch 0) (s.parts m w en l 0 []) 0))

/-- R395: an LD of n bytes. -/
def runLoad (op : BitVec 8) (n : Nat) (idx : Bool) (h : Hdr) (b : FmtM) (s : State) : Host.Outcome State Fault Refusal :=
  runWord (issueM op h b (if idx then [b.x] else [])) (unlessWrapping (loadBody h b n idx)) s

def execLdB (h : Hdr) (b : FmtM) (s : State) : Host.Outcome State Fault Refusal := runLoad 0x40 1 false h b s
def execLdH (h : Hdr) (b : FmtM) (s : State) : Host.Outcome State Fault Refusal := runLoad 0x41 2 false h b s
def execLdW (h : Hdr) (b : FmtM) (s : State) : Host.Outcome State Fault Refusal := runLoad 0x42 4 false h b s
def execLdD (h : Hdr) (b : FmtM) (s : State) : Host.Outcome State Fault Refusal := runLoad 0x43 8 false h b s
def execLdBx (h : Hdr) (b : FmtM) (s : State) : Host.Outcome State Fault Refusal := runLoad 0x48 1 true h b s
def execLdHx (h : Hdr) (b : FmtM) (s : State) : Host.Outcome State Fault Refusal := runLoad 0x49 2 true h b s
def execLdWx (h : Hdr) (b : FmtM) (s : State) : Host.Outcome State Fault Refusal := runLoad 0x4A 4 true h b s
def execLdDx (h : Hdr) (b : FmtM) (s : State) : Host.Outcome State Fault Refusal := runLoad 0x4B 8 true h b s

/-! ### ST (R437) -/

/-- What the access of a store did: its cause is precise, or DEFERRED for a free store of an unchecked buffer (R439). -/
def storeEnd (b : FmtM) : Did → WR State
  | .wait s => .stall s
  | .bad s r cause stamp =>
    if r.late cause && b.bel == 0 then accessEnd b ((s.waitAt .none_).deferReq r cause) else badWord s r cause stamp
  | .got s _ => accessEnd b s

/-- R437, from its check of the window. -/
def storeTail (b : FmtM) (n : Nat) (idx : Bool) (s : State) : WR State :=
  match s.access s.ctx b.c (offM s.ctx b idx) n rWrite (alignM b n) .write with
  | .error x => stopWord s x
  | .ok (w, en, l) =>
    let m := { AccMode.write (b.bel == 1) with plain := b.ord == 0, rel := if b.ord = 3 then some b.scope.toNat else none }
    let go := fun (s : State) => storeEnd b (s.doTagged 0 (s.parts m w en l 0 (bytesOf n (s.ctx.getS b.d).toNat)))
    if b.ord = 3 && !s.ctx.wait.atHome then releaseThen b.scope.toNat go s else go s

/-- R437. -/
def storeBody (b : FmtM) (n : Nat) (idx : Bool) (s : State) : WR State :=
  match s.heard 0 with
  | some d => storeEnd b d
  | none => if b.ord = 3 && !s.ctx.wait.atHome then deliverThen (storeTail b n idx) s else storeTail b n idx s

/-- R436: an ST of n bytes. -/
def runStore (op : BitVec 8) (n : Nat) (idx : Bool) (h : Hdr) (b : FmtM) (s : State) : Host.Outcome State Fault Refusal :=
  runWord (issueM op h b (if idx then [b.d, b.x] else [b.d])) (unlessWrapping (storeBody b n idx)) s

def execStB (h : Hdr) (b : FmtM) (s : State) : Host.Outcome State Fault Refusal := runStore 0x44 1 false h b s
def execStH (h : Hdr) (b : FmtM) (s : State) : Host.Outcome State Fault Refusal := runStore 0x45 2 false h b s
def execStW (h : Hdr) (b : FmtM) (s : State) : Host.Outcome State Fault Refusal := runStore 0x46 4 false h b s
def execStD (h : Hdr) (b : FmtM) (s : State) : Host.Outcome State Fault Refusal := runStore 0x47 8 false h b s
def execStBx (h : Hdr) (b : FmtM) (s : State) : Host.Outcome State Fault Refusal := runStore 0x4C 1 true h b s
def execStHx (h : Hdr) (b : FmtM) (s : State) : Host.Outcome State Fault Refusal := runStore 0x4D 2 true h b s
def execStWx (h : Hdr) (b : FmtM) (s : State) : Host.Outcome State Fault Refusal := runStore 0x4E 4 true h b s
def execStDx (h : Hdr) (b : FmtM) (s : State) : Host.Outcome State Fault Refusal := runStore 0x4F 8 true h b s

/-! ### AMO and CAS (R356, R376) -/

/-- Rights of an atomic access. -/
def rAtomic : BitVec 4 := rRead ||| rWrite ||| rSync

/-- The low bits of an operand. -/
def lowWord (n : Nat) (x : Word) : Word := BitVec.ofNat 64 (x.toNat % 2 ^ (8 * n))

/-- The operation of an AMO or of a CAS; c is the context once TA has been allocated (R356, R376). -/
def atomMode (b : FmtM) (n : Nat) (cas : Bool) (c : Ctx) : AccMode :=
  { opc := 3, plain := false, bel := true, far := b.far == 1, aop := if cas then 15 else b.aop.toNat,
    opnd := lowWord n (c.getS b.e), cmp := if cas then lowWord n (c.getS b.x) else 0, need := rAtomic,
    acq := if b.ord = 2 then some b.scope.toNat else none, rel := if b.ord = 3 then some b.scope.toNat else none, vec := false }

/-- R356, R376, from the check of the window: CheckCap, the Release, and then the access. -/
def atomTail (h : Hdr) (b : FmtM) (n : Nat) (cas : Bool) (s : State) : WR State :=
  match checkCap s.ctx b.c b.off.toInt n rAtomic n with
  | .error t => .trap s t.cause t.i0 t.i1
  | .ok w =>
    let go := fun (s : State) =>
      match s.translate s.ctx w n rAtomic .atomic with
      | .error x => stopWord s x
      | .ok (en, l) =>
        let m := atomMode b n cas (s.ctx.afterAlloc h.ta.toNat)
        taggedEnd h b (s.doTagged h.ta.toNat (placeParts (.latch 0) (s.parts m w en l 0 []) 0))
    if b.ord = 3 then releaseThen b.scope.toNat go s else go s

/-- R356, R376. -/
def atomBody (h : Hdr) (b : FmtM) (n : Nat) (cas : Bool) (s : State) : WR State :=
  match s.heard 0 with
  | some d => taggedEnd h b d
  | none => if b.ord = 3 then deliverThen (atomTail h b n cas) s else atomTail h b n cas s

/-- R354: AMO of n bytes. -/
def runAmo (op : BitVec 8) (n : Nat) (h : Hdr) (b : FmtM) (s : State) : Host.Outcome State Fault Refusal :=
  runWord (issueM op h b [b.e]) (unlessWrapping (atomBody h b n false)) s

/-- R375: CAS of n bytes. -/
def runCas (op : BitVec 8) (n : Nat) (h : Hdr) (b : FmtM) (s : State) : Host.Outcome State Fault Refusal :=
  runWord (issueM op h b [b.x, b.e]) (unlessWrapping (atomBody h b n true)) s

def execAmoW (h : Hdr) (b : FmtM) (s : State) : Host.Outcome State Fault Refusal := runAmo 0x50 4 h b s
def execAmoD (h : Hdr) (b : FmtM) (s : State) : Host.Outcome State Fault Refusal := runAmo 0x51 8 h b s
def execCasW (h : Hdr) (b : FmtM) (s : State) : Host.Outcome State Fault Refusal := runCas 0x52 4 h b s
def execCasD (h : Hdr) (b : FmtM) (s : State) : Host.Outcome State Fault Refusal := runCas 0x53 8 h b s

end Sys2Proof.Machine
end

