-- ==== Sys2Proof/Machine/Sfn.lean ====
section
/-! DEFINITION. Machine/Sfn.lean: the functions of the TIE: the steps of a loaded micro-program (10 R224), and the built-in
functions of Table 10-6, exact on their grids and free within their bounds elsewhere (R225). Reals are fixed-point integers with
512 fraction bits. -/

namespace Sys2Proof.Machine

/-! ### Fixed-point functions -/

/-- The number 1, with 512 bits of fraction. -/
def fxOne : Int := 2 ^ 512

/-- Product and quotient. -/
def fxMul (a b : Int) : Int := a * b / fxOne
def fxDiv (a b : Int) : Int := if b = 0 then 0 else a * fxOne / b

/-- A sum of n terms from term t, where next k gives term k + 1 from term k. -/
def fxSeries (next : Nat → Int → Int) : Nat → Nat → Int → Int
  | 0, _, _ => 0
  | n + 1, k, t => t + fxSeries next n (k + 1) (next k t)

/-- 2·atanh(z) for |z| ≤ 1/3, which is ln((1 + z) / (1 − z)). -/
def fxAtanh2 (z : Int) : Int :=
  let zz := fxMul z z
  2 * ((List.range 340).foldl (fun (a : Int × Int) k => (a.1 + a.2 / (2 * k + 1 : Nat), fxMul a.2 zz)) (0, z)).1

def fxLn2 : Int := fxAtanh2 (fxOne / 3)

/-- arctan(1/n). -/
def fxAtanInv (n : Nat) : Int :=
  ((List.range 240).foldl (fun (a : Int × Int) k =>
    ((if k % 2 = 0 then a.1 + a.2 / (2 * k + 1 : Nat) else a.1 - a.2 / (2 * k + 1 : Nat)), a.2 / (n * n : Nat))) (0, fxOne / n)).1

def fxPi : Int := 16 * fxAtanInv 5 - 4 * fxAtanInv 239

/-- e^x. -/
def fxExp (x : Int) : Int :=
  let k := x / fxLn2
  let r := x - k * fxLn2
  let y := fxSeries (fun n t => fxMul t r / (n + 1 : Nat)) 130 0 fxOne
  if 0 ≤ k then y * 2 ^ k.toNat else y / 2 ^ (-k).toNat

/-- sin of x for 0 ≤ x ≤ π. -/
def fxSin (x : Int) : Int :=
  let xx := fxMul x x
  fxSeries (fun n t => -(fxMul t xx / ((2 * n + 2) * (2 * n + 3) : Nat))) 100 0 x

/-- erf of x for 0 ≤ x ≤ 12: (2/√π)·e^(−x²)·Σ 2^n x^(2n+1) / (2n + 1)!!. -/
def fxErf (x : Int) : Int :=
  let xx := fxMul x x
  let s := fxSeries (fun n t => 2 * fxMul t xx / (2 * n + 3 : Nat)) 3000 0 x
  fxDiv (2 * fxMul (fxExp (-xx)) s) (isqrt ((fxPi * fxOne).toNat) : Nat)

/-- 1/√2. -/
def fxHalfRoot : Int := (isqrt (2 ^ 1023) : Nat)

/-- x as a fixed-point integer. An FP32 value is exact. -/
def Exact.fx : Exact → Int
  | .fin neg m e _ => signed neg (if 0 ≤ e + 512 then m * 2 ^ (e + 512).toNat else 0)
  | _ => 0

/-- A fixed-point integer as a value that is not exact. -/
def ofFx (y : Int) : Exact := .fin (y < 0) y.natAbs (-512) true

/-- The logistic function, which is nowhere zero and nowhere one. -/
def fxSigmoid (x : Int) : Int :=
  if x < -(fxOne * 500) then 1 else if fxOne * 500 < x then fxOne - 1 else min (fxOne - 1) (max 1 (fxDiv fxOne (fxOne + fxExp (-x))))

/-- erf over the whole line; beyond 12 it lies within 2^−200 of ±1. -/
def fxErfAll (x : Int) : Int :=
  let a := if fxOne * 12 < x ∨ x < -(fxOne * 12) then fxOne - 1 else fxErf (if x < 0 then -x else x)
  if x < 0 then -a else a

/-- sin(πx). -/
def fxSinPi (x : Int) : Int :=
  let r := x % (2 * fxOne)
  if r < fxOne then fxSin (fxMul fxPi r) else -(fxSin (fxMul fxPi (r - fxOne)))

/-! ### True values and grids (Table 10-6) -/

/-- A value that is k × 2^−n for an integer k. -/
def Exact.isGrid (n : Nat) : Exact → Bool
  | .fin _ m e _ => if 0 ≤ e + n then true else m % 2 ^ (-(e + n)).toNat == 0
  | _ => false

/-- log2 of a power of two. -/
def Exact.log2? : Exact → Option Int
  | .fin _ m e _ => if m ≠ 0 ∧ m = 2 ^ Nat.log2 m then some (Nat.log2 m + e) else none
  | _ => none

/-- m × 2^e with 1 ≤ m < 2, for a non-zero value: e. -/
def Exact.expOf : Exact → Int
  | .fin _ m e _ => (bitLen m : Int) - 1 + e
  | _ => 0

/-- The value scaled by 2^n. -/
def Exact.scale (n : Int) : Exact → Exact
  | .fin s m e k => .fin s m (e + n) k
  | x => x

/-- The true value of built-in function fid at a finite x within its domain. -/
def sfnTrue (fid : Nat) (x : Exact) : Exact :=
  let v := x.fx
  match fid with
  | 0 => if v < -(fxOne * 400) then ofFx 1 else if fxOne * 400 < v then .fin false 1 400 false
         else if x.isGrid 0 then .fin false 1 (v / fxOne) false else ofFx (fxExp (fxMul v fxLn2))
  | 1 => match x.log2? with
    | some k => Exact.ofInt k
    | none =>
      let m := (Exact.scale (-x.expOf) x).fx
      ofFx (x.expOf * fxOne + fxDiv (fxAtanh2 (fxDiv (m - fxOne) (m + fxOne))) fxLn2)
  | 2 => ((Exact.ofInt 1).div x).1
  | 3 => ((Exact.ofInt 1).div x).1.sqrt.1
  | 4 => x.sqrt.1
  | 5 => if v < -(fxOne * 300) then ofFx 1 else if fxOne * 300 < v then .fin false 1 400 false
         else if v = 0 then Exact.ofInt 1 else ofFx (fxExp v)
  | 6 => if fxOne * 64 < v then ofFx (fxOne - 1) else if v < -(fxOne * 64) then ofFx (1 - fxOne)
         else ofFx (fxDiv (fxExp (2 * v) - fxOne) (fxExp (2 * v) + fxOne))
  | 7 => ofFx (fxSigmoid v)
  | 8 => ofFx (fxMul v (fxOne + fxErfAll (fxMul v fxHalfRoot)) / 2)
  | 9 => ofFx (fxMul v (fxSigmoid v))
  | 10 => ofFx (fxErfAll v)
  | 11 => ofFx (fxSinPi v)
  | _ => ofFx (fxSinPi (v + fxOne / 2))

/-- The true value is exactly zero. -/
def sfnZero (fid : Nat) (x : Exact) : Bool :=
  match fid with
  | 6 | 8 | 9 | 10 => x.isZero
  | 11 => x.isGrid 0
  | 12 => x.isGrid 1 && !x.isGrid 0
  | 1 => x.log2? == some 0
  | _ => false

/-- A grid point of Table 10-6. -/
def sfnGrid (fid : Nat) (x : Exact) : Bool :=
  match fid with
  | 0 => x.isGrid 0
  | 1 | 2 => x.log2?.isSome
  | 3 => match x.log2? with | some k => k % 2 == 0 | none => false
  | 4 => true
  | 5 => x.isZero
  | 11 | 12 => x.isGrid 4
  | _ => x.isGrid 4 && decide (-(8 * fxOne) ≤ x.fx) && decide (x.fx < 8 * fxOne)

/-- The FP32 magnitude codes within the bound of Table 10-6 of a value whose truncation is code k: 1 ulp, or 2 ulps for FIDs 6 to
12. -/
def sfnCodes (fid k : Nat) : List Nat :=
  if fid ≤ 5 then [k, k + 1]
  else (if k = 0 then [] else [k - 1]) ++ [k, k + 1] ++ (if (k + 1) % 2 ^ 23 = 0 && 2 ^ 23 < k + 1 then [] else [k + 2])

/-- Canonical NaN of FP32 (R15). -/
def fp32Nan : Nat := 0x7FC00000
def fp32Inf : Nat := 0x7F800000
def fp32Neg : Nat := 0x80000000
def fp32One : Nat := 0x3F800000

/-- R225: a built-in at a finite x within its domain, with input bits xb. OF and UF of exp2 and rcp are those of their last scaling,
which the spec gives. The sign of a zero true value is free, but for gelu at +0.0, which gives
+0.0 (Table 11-3). -/
def sfnFinite (fid : Nat) (xb : BitVec 32) (x : Exact) : Nat × Flags :=
  let f := Ety.fp32.fmt
  let pick := Config.sfnPick fid xb
  if sfnZero fid x then (if pick % 2 = 0 ∨ (fid = 8 ∧ xb = 0) then 0 else fp32Neg, fNone)
  else
    let y := sfnTrue fid x
    let near := roundFloat f .rne false false y
    let sgn := if y.isNeg then fp32Neg else 0
    let open_ := Config.sfnFlags fid xb
    if sfnGrid fid x then (near.1, if fid = 0 ∨ fid = 2 then near.2 &&& (fOF ||| fUF) else fNone)
    else if near.1 % fp32Neg = 0 then (sgn, if fid = 0 ∨ fid = 2 then fUF else open_ &&& (fOF ||| fUF))
    else
      let cut := (roundFloat f .rtz false false y).1 % fp32Neg
      let codes := if decide (128 ≤ y.expOf) then [fp32Inf] else sfnCodes fid cut
      let c := nthD cut codes (pick % codes.length)
      let fl := if c = fp32Inf then (if fid = 0 ∨ fid = 2 then fOF else fOF ||| (open_ &&& fUF))
        else if (fid = 0 ∨ fid = 2) ∧ 2 ^ 23 < c then fNone
        else if fid = 0 ∨ fid = 2 then open_ &&& fUF
        else open_ &&& (fOF ||| fUF)
      (sgn + c, fl)

/-- Table 10-6: a built-in function at an infinite, zero or out-of-domain input; none elsewhere. -/
def sfnSpecial (fid : Nat) (x : Exact) : Option (Nat × Flags) :=
  let s := if x.isNeg then fp32Neg else 0
  if x.isInf then
    some (match fid with
      | 0 | 5 => (if x.isNeg then 0 else fp32Inf, fNone)
      | 1 | 3 => if x.isNeg then (fp32Nan, fNV) else ((Config.sfnInf fid).toNat, fNone)
      | 2 => (s, fNone)
      | 4 => if x.isNeg then (fp32Nan, fNV) else (fp32Inf, fNone)
      | 6 | 10 => (s + fp32One, fNone)
      | 7 => (if x.isNeg then 0 else fp32One, fNone)
      | 8 | 9 => (if x.isNeg then fp32Neg else fp32Inf, fNone)
      | _ => (fp32Nan, fNV))
  else if x.isZero then
    match fid with
    | 1 => some (fp32Neg + fp32Inf, fDZ)
    | 2 | 3 => some (s + fp32Inf, fDZ)
    | 4 => some (s, fNone)
    | _ => none
  else if x.isNeg then
    match fid with
    | 1 | 3 | 4 => some (fp32Nan, fNV)
    | _ => none
  else none

/-- R225: built-in function fid at input bits xb, which hold x. -/
def sfnBuiltin (fid : Nat) (xb : BitVec 32) (x : Exact) : Nat × Flags :=
  if 12 < fid then (fp32Nan, fNV)
  else if x.isNan then (fp32Nan, fNone)
  else match sfnSpecial fid x with
    | some r => r
    | none => sfnFinite fid xb x

/-! ### Loaded programs (R224) -/

/-- The state of a micro-program; bad holds once a SPLITE has met ±0 or ±∞. -/
structure MicroSt where
  t   : Exact
  r   : Exact
  n   : Int
  j   : Nat
  sg  : Bool
  lo  : Bool
  hi  : Bool
  bad : Bool
  fl  : Flags

/-- RNE to FP32 (R224). -/
def rne32 (x : Exact) : Exact × Flags :=
  let r := roundFloat Ety.fp32.fmt .rne false false x
  (Ety.fp32.fmt.decode r.1, r.2)

/-- Table entry w; entries from 192 on read as +0.0. -/
def microTab (tab : List (BitVec 32)) (w : Nat) : Exact :=
  if 192 ≤ w then Exact.zero false else Ety.fp32.fmt.decode (nthD 0 tab w).toNat

/-- floor of a finite value. -/
def Exact.floor : Exact → Int
  | .fin neg m e _ =>
    if 0 ≤ e then signed neg (m * 2 ^ e.toNat) else signed neg m / (2 ^ (-e).toNat : Nat)
  | _ => 0

/-- A finite value rounded to an integer, ties to even. -/
def Exact.nearInt : Exact → Int
  | .fin neg m e st => signed neg (roundMag .rne neg m e st 0).1
  | _ => 0

/-- An integer clamped to a range. -/
def clampInt (lo hi v : Int) : Int := if v < lo then lo else if hi < v then hi else v

/-- The sign of an FP32 value; a NaN has the sign of the canonical one. -/
def Exact.sign (x : Exact) : Bool := x.isNeg

/-- SPLITI's integer: ±1,024 for an infinity; for a NaN, which the spec leaves open, a free value in the range. -/
def microInt (xb : BitVec 32) (t : Exact) : Int :=
  if t.isNan then (Config.sfnPick 32 xb % 2049 : Nat) - 1024
  else if t.isInf then (if t.isNeg then -1024 else 1024)
  else clampInt (-1024) 1024 t.nearInt

/-- INDEX's j: the end of the range for an infinity; for a NaN a free value in the range. -/
def microIdx (xb : BitVec 32) (u : Exact) : Nat :=
  if u.isNan then Config.sfnPick 33 xb % 64
  else if u.isInf then (if u.isNeg then 0 else 63)
  else (clampInt 0 63 u.floor).toNat

/-- The value of an integer minus, exactly. -/
def subInt (x : Exact) (n : Int) : Exact := (x.add .rne (Exact.ofInt (-n))).1

/-- x < y and x ≥ y on values; false with a NaN. -/
def exactLt (x y : Exact) : Bool := x.cmp y == some .lt
def exactGe (x y : Exact) : Bool := match x.cmp y with | some .lt => false | some _ => true | none => false

/-- One step of Table 10-5 of a program with table tab, on input bits xb, which hold x. -/
def microStep (tab : List (BitVec 32)) (xb : BitVec 32) (x : Exact) (m : MicroSt) (w : BitVec 32) : MicroSt :=
  let a := getBits w 20 8
  let k := getBits w 16 4
  let t := microTab tab
  let scaled := fun (n : Int) =>
    let r := rne32 (m.r.scale n)
    { m with r := r.1, fl := m.fl ||| (r.2 &&& (fOF ||| fUF)) }
  match getBits w 28 4 with
  | 1 =>
    let n := microInt xb m.t
    { m with n := n, t := (rne32 (subInt m.t n)).1 }
  | 2 =>
    if m.t.isZero || m.t.isInf then { m with bad := true }
    else if m.t.isNan then { m with sg := m.t.sign, n := microInt xb m.t }
    else
      let e := m.t.expOf
      { m with sg := m.t.sign, n := e, t := subInt (m.t.abs.scale (-e)) 1 }
  | 3 => { m with sg := m.t.sign, t := m.t.abs }
  | 4 =>
    let lo := exactLt m.t (t a)
    let hi := exactGe m.t (t (a + 1))
    { m with lo := lo, hi := hi, t := if lo || hi then t a else m.t }
  | 5 =>
    let u := ((m.t.add .rne (t a).neg).1).scale k
    let j := microIdx xb u
    { m with j := j, t := (rne32 (subInt u j)).1 }
  | 6 =>
    let p := rne32 ((t (a + 3 * m.j + 2)).fma .rne m.t (t (a + 3 * m.j + 1))).1
    { m with r := (rne32 (p.1.fma .rne m.t (t (a + 3 * m.j))).1).1 }
  | 7 => scaled m.n
  | 8 => scaled (-m.n)
  | 9 => { m with r := (rne32 (m.r.mul x).1).1 }
  | 10 => if m.sg then { m with r := m.r.neg } else m
  | 11 =>
    let m1 := if m.lo then { m with r := (rne32 ((t a).fma .rne x (t (a + 1))).1).1 } else m
    if m.hi then { m1 with r := (rne32 ((t (a + 2)).fma .rne x (t (a + 3))).1).1 } else m1
  | 12 => { m with r := (rne32 (m.r.add .rne (Exact.ofInt m.n)).1).1 }
  | _ => m

/-- R224: a loaded program on input bits xb, which hold x. -/
def microRun (steps tab : List (BitVec 32)) (xb : BitVec 32) (x : Exact) : Nat × Flags :=
  if x.isNan then (fp32Nan, fNone)
  else
    let m := steps.foldl (fun m w => if m.bad then m else microStep tab xb x m w) ⟨x, Exact.zero false, 0, 0, false, false, false, false, fNone⟩
    if m.bad then (fp32Nan, m.fl ||| fNV) else ((roundFloat Ety.fp32.fmt .rne false false m.r).1, m.fl)

/-- R226: a step word is well-formed: a listed OP, A at most 191, and no bit in a field its step does not use. -/
def microWordOk (w : BitVec 32) : Bool :=
  let op := getBits w 28 4
  let a := getBits w 20 8
  let k := getBits w 16 4
  decide (1 ≤ op ∧ op ≤ 12) && decide (a ≤ 191) && getBits w 0 16 == 0 &&
  ((op == 4 || op == 5 || op == 6 || op == 11) || a == 0) && (op == 5 || k == 0)

end Sys2Proof.Machine
end

