-- ==== Sys2Proof/Machine/Tie.lean ====
section
/-! DEFINITION. Machine/Tie.lean: the allocation of a vector tag with its landing slot (02 R41), SFN and SFLOAD (10 R222 to R227; 22
R431, R432). -/

namespace Sys2Proof.Machine

/-- The landing slot that a vector producer of tag t takes: the one its own tag holds, else the lowest free one (R41). -/
def Ctx.slotFor (c : Ctx) (t : Nat) : Nat :=
  if (c.getTag t).holdsSlot then (c.getTag t).slot else c.freeSlot.getD 0

/-- A vector tag in a state, with its landing slot's contents. -/
def Ctx.putV (c : Ctx) (t : Nat) (d : BitVec 6) (n : Nat) (l : LSlot) (st : TagState) (sfn : Bool) (flags : Flags) : Ctx :=
  (c.setSlot n l).setTag t
    { st := st, used := true, dst := d, vec := true, slot := n, latch := 0, sfn := sfn, flags := flags }

/-- Allocation of a vector tag with a complete result, after its earlier use (R41, R80). -/
def Ctx.allocV (c : Ctx) (t : Nat) (d : BitVec 6) (l : LSlot) (sfn : Bool) (flags : Flags) : Ctx :=
  let c1 := c.retag t
  c1.putV t d (c1.slotFor t) l .pending sfn flags

/-- R224, R225: Evaluate FID on an exact input. -/
def Ctx.sfnEval (c : Ctx) (fid : Nat) (x : Exact) : Nat × Flags :=
  let xb := BitVec.ofNat 32 (roundFloat Ety.fp32.fmt .rne false false x).1
  if fid < 16 then sfnBuiltin fid xb x
  else match (c.regs.tie[fid - 16]?).getD none with
    | some p => microRun p.steps p.tab xb x
    | none => (fp32Nan, fNV)

/-- R223: the element result of SFN. -/
def Ctx.sfnElem (c : Ctx) (b : FmtS) (t : Ety) (i : Nat) : Nat × Flags :=
  let y := c.sfnEval b.fid.toNat ((c.getV b.va.toNat).read (b.ftzi == 1) i)
  let r := roundTo t (Rounding.ofRM b.rm) false (b.ftzo == 1) (some (clampBound c.regs.csr.clampb)) (Ety.fp32.fmt.decode y.1)
  (r.1, y.2 ||| r.2)

/-- Positions below n that are active, or all of them when masked-off ones are zeroed. -/
def landPos (m : BitVec 8192) (mz : Bool) (n : Nat) : BitVec 8192 := if mz then maskBelow n (BitVec.allOnes 8192) else maskBelow n m

/-- R223: SFN. -/
def sfnCtx (h : Hdr) (b : FmtS) (c : Ctx) : WR Ctx :=
  let t := (c.getV b.va.toNat).ty
  if c.noSlot h.ta.toNat then .trap c .tagFault (BitVec.ofNat 64 (h.ta.toNat + 256)) 0
  else if !t.isFloat || t.width == 8 then .trapW c .type_
  else if c.capacity t < c.vl || c.vstart != 0 then .trapW c .vlRange
  else
    let m := c.getM b.mask.toNat
    let c1 := c.afterAlloc h.ta.toNat
    let r := (List.range c.vl).foldl (fun (a : BitVec 65536 × Flags) i =>
      if m.getLsbD i then
        let q := c1.sfnElem b t i
        (setBits a.1 (i * t.width) t.width q.1, a.2 ||| q.2)
      else a) (0, fNone)
    .done (c.allocV h.ta.toNat b.vd ⟨t, r.1, 0, landPos m (b.mz == 1) c.vl, 0⟩ true r.2)

/-- R222: SFN. -/
def execSfn (h : Hdr) (b : FmtS) (s : State) : Host.Outcome State Fault Refusal :=
  runWord (issueS 0xC6 h b [b.vd, b.va] .vprod) (onCtx (sfnCtx h b)) s

/-- R226: the element at which a program is malformed, in the order R226 lists; none when it is well-formed. -/
def sfloadBad (v : VReg) (vl vstart : Nat) : Option Nat :=
  let e0 := v.elem 32 0
  let nsteps := e0 % 32
  let ntab := e0 / 2 ^ 16 % 256
  if vl ≠ 1 + nsteps + ntab ∨ vstart ≠ 0 ∨ e0 ≠ nsteps + ntab * 2 ^ 16 ∨ nsteps = 0 ∨ 16 < nsteps ∨ 192 < ntab then some 0
  else (countFrom 1 nsteps).find? fun i => !microWordOk (BitVec.ofNat 32 (v.elem 32 i))

/-- The program that a register holds (R226). -/
def sfloadProg (v : VReg) : TieProg :=
  let e0 := v.elem 32 0
  let word := fun i => BitVec.ofNat 32 (v.elem 32 i)
  ⟨(countFrom 1 (e0 % 32)).map word, (countFrom (1 + e0 % 32) (e0 / 2 ^ 16 % 256)).map word⟩

/-- Every SFN still in the TIE lands. -/
def Ctx.landSfn (c : Ctx) : Ctx := (List.range 16).foldl (fun c t => if (c.getTag t).sfn then c.land t else c) c

/-- R226, R431: SFLOAD. -/
def sfloadCtx (b : FmtS) (c : Ctx) : WR Ctx :=
  let v := c.getV b.va.toNat
  if c.heldMeets b.va.toNat 1 then .trapW c .arrayHeld
  else if v.ty != .i32 then .trapW c .type_
  else match sfloadBad v c.vl c.vstart with
    | some i => .trap c .vlRange (BitVec.ofNat 64 i) 0
    | none => .done (c.landSfn.upd fun r => { r with tie := r.tie.setIfInBounds (b.fid.toNat - 16) (some (sfloadProg v)) })

/-- R431: SFLOAD. -/
def execSfload (h : Hdr) (b : FmtS) (s : State) : Host.Outcome State Fault Refusal :=
  runWord (issueS 0xC7 h b [b.va] .other) (onCtx (sfloadCtx b)) s

end Sys2Proof.Machine
end

