-- ==== Sys2Proof/Machine/MemVector.lean ====
section
/-! DEFINITION. Machine/MemVector.lean: the vector loads and stores (23 R455 to R457; 24 R470 to R472), bindings (23 R445, R446; 24 R475)
and the stream words VLDB and VST.s with s0 (23 R458, R459; 24 R473). A word that waits or stops at element e has VSTART = e. -/

namespace Sys2Proof.Machine

/-! ### One element -/

/-- What one element, or one block of a stream, did. -/
inductive ElemDid where
  | got (s : State) (bs : List Byte)
  | out (w : WR State)
  | late (s : State) (r : Req) (cause : Cause)

/-- The machine with VSTART at e. -/
def State.atElem (s : State) (e : Nat) : State := s.updCtx fun c => c.setVstart e

/-- The outcome of the parts of element e. -/
def elemOf (e : Nat) : Did → ElemDid
  | .got s bs => .got s bs
  | .wait s => .out (.stall (s.atElem e))
  | .bad s r cause stamp => if r.late cause then .late (s.waitAt .none_) r cause else .out (badWord (s.atElem e) r cause stamp)

/-- Element e: w bytes at a window offset of a register (R247); a load's go to a tag, from a place of its slot on. -/
def State.elemAccess (s0 : State) (e : Nat) (n : RegNo) (off : Int) (w align : Nat) (m : AccMode) (k : AccKind) (tag : Nat) (base : OutDst)
    (data : List Byte) : ElemDid :=
  match s0.heard e with
  | some d => elemOf e d
  | none =>
    let s := s0.extTurn e
    match s.access s.ctx n off w m.need align k with
    | .error x => .out (stopWord (s.atElem e) x)
    | .ok (win, en, l) => elemOf e (s.doTagged tag (placeParts base (s.parts m win en l e data) 0))

/-- Validity and rights of a register, checked once at issue (R247). -/
def capCheck (c : Ctx) (n : RegNo) (need : BitVec 4) (off : Int) : Option Trap :=
  let r := c.getC n
  if !r.valid then some (memTrap .capInvalid (capBuf r.val) n (winOff r.val off))
  else if need &&& ~~~(capRights r.val) ≠ 0 then some (memTrap .capRights (capBuf r.val) n (winOff r.val off))
  else none

/-! ### Landing (R41, R115) -/

/-- The word's own tag is partial: the load resumes. -/
def Ctx.resumes (c : Ctx) (t : Nat) : Bool := (c.getTag t).isPartial

/-- The tag and slot of a load at its first element: allocated, or resumed. -/
def Ctx.landStart (c : Ctx) (t : Nat) (d : RegNo) (ty : Ety) : Ctx :=
  if c.resumes t then c
  else
    let c1 := c.retag t
    c1.putV t d (c1.slotFor t) ⟨ty, 0, 0, 0, 0⟩ (.partly (BitVec.ofNat 32 c.regs.pc)) false 0

/-- A change of the slot that a tag holds. -/
def Ctx.updLand (c : Ctx) (t : Nat) (f : LSlot → LSlot) : Ctx :=
  let n := (c.getTag t).slot
  c.setSlot n (f (c.getSlot n))

/-- Element i in the slot. -/
def LSlot.put (l : LSlot) (w i x : Nat) : LSlot := { l with data := setBits l.data (i * w) w x, pos := setBits l.pos i 1 1 }

/-- The load has read its last element: its tag is pending and VSTART is 0. -/
def Ctx.landDone (c : Ctx) (t : Nat) (d : RegNo) (ty : Ety) : Ctx :=
  let c1 := c.landStart t d ty
  (c1.setTag t { c1.getTag t with st := .pending }).setVstart 0

/-! ### VLD, VLD.s, VLDX (R456) -/

/-- The window offset of element i (Table 23-8): the base, and the stride in bytes. -/
def vecOff (c : Ctx) (b : FmtM) (form w i : Nat) : Int :=
  if form = 0 then b.off.toInt + (i * w : Nat)
  else if form = 1 then b.off.toInt + i * (c.getS b.x).toInt
  else (c.getS b.x).toInt * 2 ^ getBits b.off 16 3 + (i * w : Nat)

/-- The elements of a load, in ascending order. -/
def vloadLoop (h : Hdr) (b : FmtM) (form : Nat) (ty : Ety) : List Nat → State → WR State
  | [], s => .done (s.updCtx fun c => c.landDone h.ta.toNat b.d ty)
  | i :: l, s =>
    if !(s.ctx.getM b.mask.toNat).getLsbD i then vloadLoop h b form ty l s
    else
      let w := ty.width / 8
      match s.elemAccess i b.c (vecOff (s.ctx.afterAlloc h.ta.toNat) b form w i) w w AccMode.read.ofVec .read
        h.ta.toNat (.slot (i * ty.width)) [] with
      | .out x => x
      | .late s1 p cause => badWord (s1.atElem i) p cause 0
      | .got s1 bs =>
        vloadLoop h b form ty l
          (s1.updCtx fun c => (c.landStart h.ta.toNat b.d ty).updLand h.ta.toNat fun x => x.put ty.width i (numOf bs))

/-- R456. -/
def vloadBody (h : Hdr) (b : FmtM) (form : Nat) (s : State) : WR State :=
  let c := s.ctx
  let t := (c.getV b.d.toNat).ty
  if c.noSlot h.ta.toNat then .trap s .tagFault (BitVec.ofNat 64 (h.ta.toNat + 256)) 0
  else if !t.isPlain then .trapW s .type_
  else if c.capacity t < c.vl then .trapW s .vlRange
  else match capCheck c b.c rRead (vecOff c b form (t.width / 8) c.vstart) with
    | some x => trapOf s x
    | none => vloadLoop h b form t (countFrom c.vstart (c.vl - c.vstart)) s

/-- R455: VLD. -/
def execVld (h : Hdr) (b : FmtM) (s : State) : Host.Outcome State Fault Refusal :=
  runWord (issueMV 0x60 h b [] .vprod) (vloadBody h b 0) s

/-- R455: VLD.s. -/
def execVldS (h : Hdr) (b : FmtM) (s : State) : Host.Outcome State Fault Refusal :=
  runWord (issueMV 0x61 h b [b.x] .vprod) (vloadBody h b 1) s

/-- R455: VLDX. -/
def execVldx (h : Hdr) (b : FmtM) (s : State) : Host.Outcome State Fault Refusal :=
  runWord (issueMV 0x65 h b [b.x] .vprod) (vloadBody h b 2) s

/-! ### VST, VST.s, VSTX (R471) -/

/-- The elements of a store, in ascending order. -/
def vstoreLoop (b : FmtM) (form : Nat) (v : VReg) : List Nat → State → WR State
  | [], s => .done (s.atElem 0)
  | i :: l, s =>
    if !(s.ctx.getM b.mask.toNat).getLsbD i then vstoreLoop b form v l s
    else
      let w := v.ty.width / 8
      match s.elemAccess i b.c (vecOff s.ctx b form w i) w w (AccMode.write (b.bel == 1)).ofVec .write 0 .none_ (bytesOf w (v.elem v.ty.width i)) with
      | .out x => x
      | .late s1 p cause =>
        if b.bel = 1 then badWord (s1.atElem i) p cause 0 else vstoreLoop b form v l (s1.deferReq p cause)
      | .got s1 _ => vstoreLoop b form v l s1

/-- R471. -/
def vstoreBody (b : FmtM) (form : Nat) (s : State) : WR State :=
  let c := s.ctx
  let v := c.getV b.d.toNat
  if !v.ty.isPlain then .trapW s .type_
  else if c.capacity v.ty < c.vl then .trapW s .vlRange
  else if c.heldMeets b.d.toNat 1 then .trapW s .arrayHeld
  else match capCheck c b.c rWrite (vecOff c b form (v.ty.width / 8) c.vstart) with
    | some x => trapOf s x
    | none => vstoreLoop b form v (countFrom c.vstart (c.vl - c.vstart)) s

/-- R470: VST. -/
def execVst (h : Hdr) (b : FmtM) (s : State) : Host.Outcome State Fault Refusal :=
  runWord (issueMV 0x63 h b [] .vstore) (vstoreBody b 0) s

/-- R470: VST.s. -/
def execVstS (h : Hdr) (b : FmtM) (s : State) : Host.Outcome State Fault Refusal :=
  runWord (issueMV 0x64 h b [b.x] .vstore) (vstoreBody b 1) s

/-- R470: VSTX. -/
def execVstx (h : Hdr) (b : FmtM) (s : State) : Host.Outcome State Fault Refusal :=
  runWord (issueMV 0x66 h b [b.x] .vstore) (vstoreBody b 2) s

/-! ### Binding records (Table 23-4) -/

abbrev Binding := BitVec 512

def Binding.payc (r : Binding) : RegNo := (r.extractLsb' 60 4).setWidth 6
def Binding.scalc (r : Binding) : RegNo := (r.extractLsb' 56 4).setWidth 6
def Binding.tag (r : Binding) : Nat := getBits r 52 4
def Binding.bound (r : Binding) : BitVec 32 := r.extractLsb' 0 32
def Binding.pos (r : Binding) : Nat := getBits r 64 48
def Binding.spos (r : Binding) : Nat := getBits r 128 48

/-- RSV bits zero and TYPE one of 1 to 11. -/
def Binding.ok (r : Binding) : Bool :=
  getBits r 32 20 == 0 && getBits r 112 16 == 0 && getBits r 176 16 == 0 && getBits r 192 320 == 0 && 1 ≤ r.tag && r.tag ≤ 11

/-- The record that VBIND writes (R446). -/
def Binding.fresh (payc scalc : RegNo) (ty : Nat) (bound : BitVec 32) : Binding :=
  setBits (setBits (setBits (setBits (0 : BitVec 512) 60 4 payc.toNat) 56 4 scalc.toNat) 52 4 ty) 0 32 bound.toNat

/-- The record of a stream word: where it lies and its bytes; TYPE outside scratch, once its window has passed CheckCap (R446); a wait for a
copy (R219), or for an earlier access of the context to those bytes (R116). -/
def withRecord (n : RegNo) (off : Int) (need : BitVec 4) (k : AccKind) (store : Bool) (s : State)
    (f : Nat → Binding → WR State) : WR State :=
  match checkCap s.ctx n off 64 need 64 with
  | .error t => trapOf s t
  | .ok w =>
  if (s.entryFor (.member s.ctx.launch.uid) w.buf).ty ≠ .scratch then .trapW s .type_
  else match s.translate s.ctx w 64 need k with
  | .error x => stopWord s x
  | .ok (_, l) =>
    let a := l.headD 0
    if s.ctx.copyWait (scratchOff a) 64 store || s.ctx.blocks ⟨a, 64, true, store, true, false, false⟩ then .stall (if s.ctx.wait = .none_ then s.waitAt (.busy 0 []) else s)
    else f a (BitVec.ofNat 512 (numOf (memBytes s.mem a 64)))

/-- A plain store of the context to its own scratchpad. -/
def State.scratchStore (s : State) (a : Nat) (bs : List Byte) : State := (s.apply a bs KeyTag.zero).dirtyScratch a bs.length

/-- R446. VBIND and VUNBIND name no vector register. DEDUCED (log 67): they raise no NO_VSTATE, which their causes (R446, R475) do not list. -/
def vbindBody (b : FmtY) (s : State) : WR State :=
  withRecord b.a b.imm.toNat rWrite .write true s fun a _ =>
    let bound := if b.b = 0 then 0x7F800000 else (s.ctx.getS b.b).extractLsb' 0 32
    .done (s.scratchStore a (bytesOf 64 (Binding.fresh b.d b.e (getBits b.fn 0 4) bound).toNat))

/-- R446: VBIND. -/
def execVbind (h : Hdr) (b : FmtY) (s : State) : Host.Outcome State Fault Refusal :=
  runWord (issueY 0x67 h b [b.b] 0) (vbindBody b) s

/-- R475. -/
def vunbindBody (b : FmtY) (s : State) : WR State :=
  withRecord b.a b.imm.toNat (rRead ||| rWrite) .write true s fun a r =>
    .done ((s.scratchStore a (bytesOf 8 0)).updCtx fun c => c.setS b.d (BitVec.ofNat 64 r.spos))

/-- R475: VUNBIND. -/
def execVunbind (h : Hdr) (b : FmtY) (s : State) : Host.Outcome State Fault Refusal :=
  runWord (issueY 0x68 h b [] b.d) (vunbindBody b) s

/-! ### SE payload (R58) -/

/-- Bytes of a block's payload. -/
def seBytes (t : Ety) : Nat := 2 * (t.seBits + 1)

/-- The payload of 16 byte slots: sign lowest, then the magnitude. -/
def sePack (t : Ety) (slots : List Nat) : Nat :=
  (List.range 16).foldl (fun a i =>
    let x := nthD 0 slots i
    a + (x / 128 % 2 + x % 2 ^ t.seBits * 2) * 2 ^ (i * (t.seBits + 1))) 0

/-- The byte slot of element i of a payload. -/
def seUnpack (t : Ety) (pay i : Nat) : Nat :=
  let x := pay / 2 ^ (i * (t.seBits + 1)) % 2 ^ (t.seBits + 1)
  x % 2 * 128 + x / 2

/-- Blocks that hold n elements. -/
def blocksOf (n : Nat) : Nat := (n + 15) / 16

/-- The position after n elements of a stream type. -/
def advancePos (t : Ety) (pos n : Nat) : Nat := (pos + if t.isSE then 16 * blocksOf n else n) % 2 ^ 48

/-! ### VLDB (R458) -/

/-- Both parts of block blk of a stream, for step e of the word: payload and scale word. A load's go to the block of step e in its tag's slot
(R105), with tag ≠ 0. -/
def State.blockAccess (s0 : State) (e : Nat) (r : Binding) (t : Ety) (blk : Nat) (m : AccMode) (k : AccKind) (pay : List Byte)
    (ms : AccMode) (tag : Nat) : ElemDid :=
  match s0.heard e with
  | some d => elemOf e d
  | none =>
    let s := s0.extTurn e
    match s.access s.ctx r.payc (blk * seBytes t : Nat) (seBytes t) m.need 1 k with
    | .error x => .out (stopWord (s.atElem e) x)
    | .ok (w1, e1, l1) =>
      match s.access s.ctx r.scalc (blk / 3 * 8 : Nat) 8 m.need 8 k with
      | .error x => .out (stopWord (s.atElem e) x)
      | .ok (w2, e2, l2) =>
        let p1 := s.parts m w1 e1 l1 e pay
        let p2 := s.parts ms w2 e2 l2 e []
        elemOf e (if tag = 0 then s.doAccess (p1 ++ p2)
          else s.doTagged tag (placeParts (.pay t (e / 16) 0) p1 0 ++ placeParts (.scale (e / 16) (20 * (blk % 3)) 0) p2 0))

/-- Block j of a register's stream: 16 byte slots and a scale in the landing slot. -/
def LSlot.putBlock (l : LSlot) (t : Ety) (j pay scale : Nat) : LSlot :=
  let l1 := (List.range 16).foldl (fun l i => l.put 8 (16 * j + i) (seUnpack t pay i)) l
  { l1 with scales := setBits l1.scales (20 * j) 20 scale, blks := setBits l1.blks j 1 1 }

/-- The end of VLDB: the landing, and POS of the record. -/
def vldbEnd (h : Hdr) (b : FmtM) (t : Ety) (a : Nat) (r : Binding) (s : State) : WR State :=
  let s1 := s.updCtx fun c => c.landDone h.ta.toNat b.d t
  .done (if s.ctx.vl = 0 then s1 else s1.scratchStore (a + 8) (bytesOf 8 (advancePos t r.pos s.ctx.vl)))

/-- Elements, or blocks, of a stream load in ascending order. -/
def vldbLoop (h : Hdr) (b : FmtM) (t : Ety) (a : Nat) (r : Binding) : List Nat → State → WR State
  | [], s => vldbEnd h b t a r s
  | i :: l, s =>
    let x := if t.isSE then s.blockAccess (16 * i) r t (r.pos / 16 + i) AccMode.read.ofVec .read [] AccMode.read.ofVec h.ta.toNat
      else s.elemAccess i r.payc (((r.pos + i) * (t.width / 8) : Nat) : Int) (t.width / 8) 1 AccMode.read.ofVec .read h.ta.toNat
        (.slot (i * t.width)) []
    match x with
    | .out w => w
    | .late s1 p cause => badWord (s1.atElem (if t.isSE then 16 * i else i)) p cause 0
    | .got s1 bs =>
      vldbLoop h b t a r l (s1.updCtx fun c => (c.landStart h.ta.toNat b.d t).updLand h.ta.toNat fun x =>
        if t.isSE then
          x.putBlock t i (numOf (bs.take (seBytes t))) (getBits (BitVec.ofNat 64 (numOf (bs.drop (seBytes t)))) (20 * ((r.pos / 16 + i) % 3)) 20)
        else x.put t.width i (numOf bs))

/-- The steps of a stream word from VSTART to VL. -/
def streamSteps (t : Ety) (vstart vl : Nat) : List Nat :=
  if vl ≤ vstart then [] else if t.isSE then countFrom (vstart / 16) (blocksOf vl - vstart / 16) else countFrom vstart (vl - vstart)

/-- The registers of a stream checked at issue. -/
def streamCaps (c : Ctx) (r : Binding) (t : Ety) (need : BitVec 4) : Option Trap :=
  match capCheck c r.payc need 0 with
  | some x => some x
  | none => if t.isSE then capCheck c r.scalc need 0 else none

/-- R458. -/
def vldbBody (h : Hdr) (b : FmtM) (s : State) : WR State :=
  if s.ctx.noSlot h.ta.toNat then .trap s .tagFault (BitVec.ofNat 64 (h.ta.toNat + 256)) 0
  else
    withRecord b.c b.off.toInt rRead .read false s fun a r =>
      let t := Ety.ofTag r.tag
      if !r.ok then .trapW s .type_
      else if s.ctx.capacity t < s.ctx.vl then .trapW s .vlRange
      else match streamCaps s.ctx r t rRead with
        | some x => trapOf s x
        | none =>
          if s.ctx.wait = .none_ ∧ s.ctx.vl ≠ 0 ∧ s.ctx.copyWait (scratchOff a) 64 true then .stall (s.waitAt (.busy 0 []))
          else vldbLoop h b t a r (streamSteps t s.ctx.vstart s.ctx.vl) s

/-- R458: VLDB. -/
def execVldb (h : Hdr) (b : FmtM) (s : State) : Host.Outcome State Fault Refusal :=
  runWord (issueMV 0x62 h b [] .vprod) (vldbBody h b) s

/-! ### The stream store (R473) -/

/-- The merge of a scale into its scale word, bits 63:60 zero. -/
def scaleMerge (bel : Bool) (blk : Nat) (scale : BitVec 20) : AccMode :=
  let pos := 20 * (blk % 3)
  { opc := 3, plain := true, bel := bel, far := false, aop := 14, opnd := BitVec.ofNat 64 (scale.toNat * 2 ^ pos),
    cmp := BitVec.ofNat 64 (2 ^ 60 - 1 - (2 ^ 20 - 1) * 2 ^ pos), need := rWrite, acq := none,
    rel := none, vec := true }

/-- A body of format V that sets nothing but its fields at zero: no flush, no saturation. -/
def FmtV.plain : FmtV := ⟨0, 0, 0, 0, 0, 0, 0, 0, 0, 0, 0, 0⟩

/-- Block b of the register as the stream's type (R57, R59). -/
def streamBlock (v : VReg) (t : Ety) (bound : BitVec 32) (vl j : Nat) : SeBlock × Flags :=
  if v.ty == t then (⟨v.scale j, (List.range 16).map fun i => v.elem 8 (16 * j + i)⟩, fNone)
  else cvtBlock v.ty t v vl (clampBound bound) [] j

/-- The flags that the stream store at the PC has gathered before VSTART, where it goes on there (R113). -/
def Ctx.streamFlags (c : Ctx) : Flags :=
  match tabFind c.regs.pc c.regs.streams with
  | some (e, f) => if e = c.vstart then f else 0
  | none => 0

/-- The stream store at the PC stops at step e with the flags that it has gathered. -/
def Ctx.keepFlags (e : Nat) (f : Flags) (c : Ctx) : Ctx := c.upd fun r => { r with streams := tabPut r.pc (e, f) r.streams }

/-- It retires: its flags join VFLAGS (R68, R473). -/
def Ctx.endStream (f : Flags) (c : Ctx) : Ctx := (c.upd fun r => { r with streams := tabDel r.pc r.streams }).orFlags f

/-- Elements, or blocks, of a stream store in ascending order; fs are the flags of the word's set so far (R97). -/
def streamLoop (b : FmtM) (v : VReg) (t : Ety) (a : Nat) (r : Binding) : List Nat → Flags → State → WR State
  | [], fs, s =>
    let s1 := (s.atElem 0).updCtx (Ctx.endStream fs)
    .done (if s.ctx.vl = 0 then s1 else s1.scratchStore (a + 16) (bytesOf 8 (advancePos t r.spos s.ctx.vl)))
  | i :: l, fs, s0 =>
    let e := if t.isSE then 16 * i else i
    let s := s0.updCtx (Ctx.keepFlags e fs)
    let blk := r.spos / 16 + i
    let k := streamBlock v t r.bound s.ctx.vl i
    let y := cvtLane FmtV.plain v.ty t v (clampBound r.bound) .rne i
    let bel := b.bel == 1
    let x := if t.isSE then
        s.blockAccess e r t blk (AccMode.write bel).ofVec .write (bytesOf (seBytes t) (sePack t k.1.slots)) (scaleMerge bel blk k.1.scale) 0
      else s.elemAccess e r.payc (((r.spos + i) * (t.width / 8) : Nat) : Int) (t.width / 8) 1 (AccMode.write bel).ofVec .write 0 .none_
        (bytesOf (t.width / 8) y.1)
    let fl := if t.isSE then k.2 else y.2
    match x with
    | .out w => w
    | .late s1 p cause =>
      if bel then badWord (s1.atElem e) p cause 0 else streamLoop b v t a r l (fs ||| fl) (s1.deferReq p cause)
    | .got s1 _ => streamLoop b v t a r l (fs ||| fl) s1

/-- R473. -/
def streamBody (b : FmtM) (s : State) : WR State :=
  let c := s.ctx
  let v := c.getV b.d.toNat
  if c.heldMeets b.d.toNat 1 then .trapW s .arrayHeld
  else
    withRecord b.c b.off.toInt (rRead ||| rWrite) .write true s fun a r =>
      let t := Ety.ofTag r.tag
      if !r.ok || v.ty == .invalid then .trapW s .type_
      else if c.capacity v.ty < c.vl then .trapW s .vlRange
      else if t.isSE && r.spos % 16 != 0 then .trapW s .type_
      else match streamCaps c r t rWrite with
        | some x => trapOf s x
        | none =>
          streamLoop b v t a r (streamSteps t c.vstart c.vl) c.streamFlags s

/-- R473: VST.s with X = 0. -/
def execVstSStream (h : Hdr) (b : FmtM) (s : State) : Host.Outcome State Fault Refusal :=
  runWord (issueMV 0x64 h b [] .vstore) (streamBody b) s

end Sys2Proof.Machine
end

