-- ==== Sys2Proof/Machine/Sync.lean ====
section
/-! DEFINITION. Machine/Sync.lean: FENCE, REGION, MONITOR, WAITM, LOCQ, CWB and PREF (21 R388, R390, R401; 22 R412, R413, R424, R425;
24 R476; 08 R172, R173; 09 R201). -/

namespace Sys2Proof.Machine

/-! ### FENCE and REGION -/

/-- R117, Table 6-1: stores of the context, of a class that bits 0 to 3 of a FENCE name first, are not yet visible at its scope: free stores on
their way to a home at .nbr or wider, and at any scope those that have no local point for others (R181). DEDUCED (log 68): R183 rule 2
asks for the local point alone here, and R117 for the scope; the FENCE waits, which both admit. -/
def State.fenceWaits (s : State) (fn : BitVec 10) (scope : Nat) : Bool :=
  let named := fun (v : Bool) => if v then fn.getLsbD 2 || fn.getLsbD 3 else fn.getLsbD 0 || fn.getLsbD 1
  s.reqs.any (fun r => r.slot == s.cur && r.ch == 0 && r.uid == s.ctx.launch.uid && r.opc == 2 && !r.bel && named r.vec &&
    (decide (3 ≤ scope) || r.noCopy)) ||
  (decide (3 ≤ scope) && s.ctx.out.any fun x => match x with | .acc a => a.part.req.opc == 2 && named a.part.req.vec | .fence _ _ => false)

/-- R117, R148: the orders of a FENCE against accesses that are still to be performed, after the adjustment of R150; an acquire acts at once
(R147), and a FENCE that orders loads leaves no older line in the level-one data cache (R149; log 73). -/
def State.fenceOrder (s : State) (fn : BitVec 10) (scope : Nat) (acq : Bool) : State :=
  let s1 := if acq || fenceLoads (fn.extractLsb' 0 7) then s.acquire scope else s
  if s.ctx.out.isEmpty || s.reachesNone scope then s1
  else s1.updCtx fun c => { c with out := c.out ++ [.fence (fn.extractLsb' 0 7) scope] }

/-- R390. -/
def fenceBody (b : FmtY) (s : State) : WR State :=
  let rel := b.fn.getLsbD 5 || b.fn.getLsbD 6
  let acq := b.fn.getLsbD 4 || b.fn.getLsbD 6
  let scope := b.scope.toNat
  let tail : State → WR State := fun s =>
    if s.fenceWaits b.fn scope then .stall (s.waitAt (.busy 0 [])) else endRegion (s.fenceOrder b.fn scope acq)
  let body : State → WR State := if rel then releaseThen scope tail else tail
  if decide (2 ≤ scope) || rel then deliverThen body s else body s

/-- R390: FENCE. -/
def execFence (h : Hdr) (b : FmtY) (s : State) : Host.Outcome State Fault Refusal :=
  runWord (issueY 0x1A h b [] 0) (unlessWrapping (fenceBody b)) s

/-- R425. -/
def regionBody (b : FmtY) : State → WR State :=
  endRegionThen fun s => .done (s.updCtx fun c => c.setS b.d (c.regs.csr.regionno.setWidth 64))

/-- R425: REGION. -/
def execRegion (h : Hdr) (b : FmtY) (s : State) : Host.Outcome State Fault Refusal :=
  runWord (issueY 0x19 h b [] b.d) (regionBody b) s

/-! ### Monitors (R172) -/

/-- The monitor table that an armed sector stands in: the slice of its home; none for a scratchpad sector. -/
def monSlice (sec : Nat) : Option (Nat × Nat) :=
  if locKind (sec * 32) = .scratch then none else some (homeDie (sec * 32), homeSlice (sec * 32))

/-- The slots with entries in the monitor table of a sector, with the ticks of their arming. -/
def State.monPeers (s : State) (sec : Nat) : List (Nat × Nat) :=
  s.slots.filterMap fun p =>
    match p.2.mon.armed with
    | some x => if p.1 ≠ s.cur ∧ (monSlice x).isSome ∧ monSlice x = monSlice sec then some (p.1, p.2.mon.since) else none
    | none => none

/-- R172: a table of 16 entries that takes another one evicts its oldest. DESIGN CHOICE (log 67): of entries armed in the same tick, the one
of the lowest slot. -/
def State.monMakeRoom (s : State) (sec : Nat) : State :=
  let l := s.monPeers sec
  if l.length < 16 then s
  else match l.find? (fun p => l.all fun q => decide (p.2 ≤ q.2)) with
    | some p => s.updSlot p.1 fun c => { c with mon := { c.mon with armed := none, evicted := true } }
    | none => s

/-- R412: it orders nothing, so that a store of the context that is still to be performed counts as a write. -/
def monitorBody (b : FmtY) (s : State) : WR State :=
  match s.access s.ctx b.a b.imm.toNat 1 rRead 1 .arm with
  | .error x => stopWord s x
  | .ok (w, _, l) =>
    match s.homeBar s.ctx w 1 rRead .arm l with
    | some d => trapOf (s.countRefusal d s.ctx.launch.part w.buf) (memTrap .permRemote w.buf w.creg w.off)
    | none =>
    let a := l.headD 0
    let n := coreKey s.cur
    let s1 := s.setCore n { s.core n with l1d := tabDel (lineOf a) (s.core n).l1d }
    .done ((s1.monMakeRoom (sectorOf a)).updCtx fun c => { c with mon := ⟨some (sectorOf a), false, false, false, s.tick⟩ })

/-- R412: MONITOR. -/
def execMonitor (h : Hdr) (b : FmtY) (s : State) : Host.Outcome State Fault Refusal :=
  runWord (issueY 0x1B h b [] 0) (monitorBody b) s

/-- The reason that a monitor gives (Table 8-7, in the precedence of R173), beside the timeout and a spurious return. -/
def Monitor.reason (m : Monitor) : Option Nat :=
  if m.written then some 0 else if m.moved then some 3 else if m.evicted || m.armed.isNone then some 1 else none

/-- WAITM returns: s[D], and the monitor is disarmed. -/
def waitmEnd (b : FmtY) (code : Nat) (s : State) : WR State :=
  .done (s.updCtx fun c => { c.setS b.d (BitVec.ofNat 64 code) with mon := Monitor.zero, wait := .none_ })

/-- A deadline has passed. -/
def pastDeadline (d : Option Nat) (tick : Nat) : Bool := match d with | some t => decide (t ≤ tick) | none => false

/-- R476. -/
def waitmBody (b : FmtY) (s : State) : WR State :=
  let c := s.ctx
  match c.mon.reason with
  | some code => waitmEnd b code s
  | none =>
    match c.wait with
    | .waitmDone code d => waitmEnd b (if code = 4 ∧ pastDeadline d s.tick = true then 2 else code) s
    | .waitm (some d) => if d ≤ s.tick then waitmEnd b 2 s else .stall s
    | .waitm none => .stall s
    | _ => .stall (s.waitAt (.waitm (if c.getS b.b = 0 then none else some (s.tick + (c.getS b.b).toNat))))

/-- R476: WAITM. -/
def execWaitm (h : Hdr) (b : FmtY) (s : State) : Host.Outcome State Fault Refusal :=
  runWord (issueY 0x1C h b [b.b] b.d) (waitmBody b) s

/-- WAITM_TIMEOUT (R173): the timeout of a waiting WAITM has passed. -/
def execWaitmTimeout (k : Nat) (s : State) : Host.Outcome State Fault Refusal :=
  .next (s.updSlot k fun c =>
    match c.wait with
    | .waitm (some d) => if d ≤ s.tick then { c with wait := .waitmDone 2 (some d) } else c
    | _ => c)

/-- WAITM_WAKE (R173): a waiting WAITM returns; with code 4 where no other reason applies. -/
def execWaitmWake (k : Nat) (s : State) : Host.Outcome State Fault Refusal :=
  .next (s.updSlot k fun c => match c.wait with
    | .waitm d => { c with wait := .waitmDone 4 d }
    | _ => c)

/-! ### LOCQ (R201, R401) -/

/-- Table 9-8, for a location seen from a slot. DESIGN CHOICE (log 67): for a byte homed on a peer device, of which the table says nothing, DIE
0, STACK 15 and the distance to die 0, through which a peer is reached. -/
def State.locqValue (s : State) (k a : Nat) (res : Bool) : Nat :=
  let d := slotDie k
  match locKind a with
  | .scratch => 15 * 16 + d + (if d < 4 then 0 else 2 ^ 20)
  | kind =>
    let home := homeDie a % 8
    let stack := if kind = .dram then paStack a else 15
    let slice := if kind = .host then 0 else homeSlice a
    let copy := if home = d then tabFind (lineOf a) s.homeLines |>.isSome else tabFind (lineOf a) (s.die d).copies |>.isSome
    home + stack * 16 + slice * 2 ^ 8 + dieDist d home * 2 ^ 16 + (if home < 4 then 0 else 2 ^ 20) + (if res && copy then 2 ^ 24 else 0)

/-- R201, R401: RES is 0 for a page that is not resident. -/
def locqBody (b : FmtY) (s : State) : WR State :=
  match s.access s.ctx b.a b.imm.toNat 1 0 1 .query with
  | .error x => stopWord s x
  | .ok (w, en, l) =>
    let res := s.place (.member s.ctx.launch.uid) en w.buf s.ctx.launch.uid s.ctx.scrBytes w.off false != .swap
    .done (s.updCtx fun c => c.setS b.d (BitVec.ofNat 64 (s.locqValue s.cur (l.headD 0) res)))

/-- R401: LOCQ. -/
def execLocq (h : Hdr) (b : FmtY) (s : State) : Host.Outcome State Fault Refusal :=
  runWord (issueY 0x17 h b [] b.d) (locqBody b) s

/-! ### CWB (R388) -/

/-- The write of a line's dirty data to DRAM, from its slice or the memory-side cache, where it has any. DESIGN CHOICE (log 75): it is a
write of the whole line, which the base die writes on to DRAM; R388 names no packet. key, buf and off are those of the CWB, for a line that its
slice does not hold. -/
def State.cleanSend (s : State) (line : Nat) (key : BitVec 7) (buf : BitVec 20) (off : Nat) : State :=
  let who : BdWho := .clean line s.cur s.ctx.launch.uid
  let here := (tabFind line s.homeLines).isSome
  if tabFind line s.homeLines = some true ∨ s.leaving line = true ∨ tabFind line (s.stack (paStack (line * 128))).msc = some true then
    let t := s.bdSend (if here then s.lineReq line who else
      { bdRequest 1 (line * 128) 3 key buf off who with data := memBytes s.mem (line * 128) 128, bad := s.baseBad line })
    if here then { t with homeLines := tabPut line false t.homeLines } else t
  else s

/-- The requests of a CWB: the write of the line's dirty data, and with drop the drop of the line, which leaves every cache (R265). A line of host
memory goes to the host. -/
def State.cwbSend (s : State) (line : Nat) (drop : Bool) (key : BitVec 7) (buf : BitVec 20) (off : Nat) : State :=
  let dram := locKind (line * 128) = .dram
  let s1 := if dram then s.cleanSend line key buf off else s.lineClean line
  if drop then
    let s2 := s1.lineDrop line false
    let s3 := if dram then s2.bdSend (bdRequest 4 (line * 128) 3 key buf off (.drop line s.cur s.ctx.launch.uid)) else s2
    { s3 with cores := s3.cores.map fun x => (x.1, { x.2 with l1d := tabDel line x.2.l1d }) }
  else s1

/-- A request of a CWB for a line has no reply yet. -/
def State.cwbBusy (s : State) (line : Nat) : Bool :=
  (s.stack (paStack (line * 128))).queue.any fun r => r.brings == some line || match r.who with | .drop l _ _ => l == line | _ => false

/-- Stores and atomics of the focused context to a line that have no global point yet. -/
def State.storesTo (s : State) (line : Nat) : Bool :=
  s.ctx.out.any (fun x => match x with | .acc a => a.part.req.opc != 1 && lineOf a.part.req.loc == line | .fence _ _ => false) ||
  s.reqs.any fun r => r.slot == s.cur && r.ch == 0 && r.opc != 1 && lineOf r.loc == line

/-- R388, from the line on: it waits for stores of the context and for an open transaction on the line (R266), and then for its requests. -/
def cwbLine (b : FmtY) (w : Win) (en : Entry) (a : Nat) (s : State) : WR State :=
  let line := lineOf a
  if s.storesTo line || (s.openTxn line).isSome then .stall (s.waitAt (.busy 0 []))
  else if en.ty ≠ .global ∧ en.ty ≠ .host then .done s
  else
    let t := s.cwbSend line (b.fn.getLsbD 0) (BitVec.ofNat 7 en.key) w.buf (w.off - a % 128)
    if locKind a = .dram ∧ t.cwbBusy line = true then .stall (t.waitAt (.cwb line none)) else .done t

/-- R388. -/
def cwbBody (b : FmtY) (s : State) : WR State :=
  match checkCap s.ctx b.a b.imm.toNat 1 0 1 with
  | .error t => trapOf s t
  | .ok w =>
    match s.ctx.wait with
    | .cwb _ (some cause) => trapOf (s.waitAt .none_) (memTrap cause w.buf w.creg w.off)
    | .cwb line none => if s.cwbBusy line then .stall s else .done s
    | _ =>
    if capRights (s.ctx.getC b.a).val &&& (rRead ||| rWrite) = 0 then trapOf s (memTrap .capRights w.buf w.creg w.off)
    else match s.translate s.ctx w 1 0 .maintain with
      | .error x => stopWord s x
      | .ok (en, l) => cwbLine b w en (l.headD 0) s

/-- R388: CWB. -/
def execCwb (h : Hdr) (b : FmtY) (s : State) : Host.Outcome State Fault Refusal :=
  runWord (issueY 0x5A h b [] 0) (cwbBody b) s

/-! ### PREF (R424) -/

/-- The line brought nearer: from the home L2 at once, from its stack, or from another die. -/
def State.prefetch (s : State) (p : Part) (level1 : Bool) : State :=
  let r := p.req
  let line := lineOf r.loc
  let fill := fun (s : State) (bs : List Byte) => if level1 && !r.chk then s.fillL1 (coreKey s.cur) line bs else s
  if r.dst = r.src then
    if (s.openTxn line).isSome || s.scrubPending r.loc then s
    else if (tabFind line s.homeLines).isSome then (if s.lineBad line then s else fill s (s.dieBytes (line * 128) 128))
    else if locKind r.loc = .dram then
      let key : BitVec 7 := BitVec.ofNat 7 (s.entry r.buf).key
      s.bdSend (bdRequest 0 (line * 128) 3 key r.buf (r.off.toNat - r.loc % 128)
        (.prefetch r.src (if level1 && !r.chk then some (coreKey s.cur) else none) r.vf))
    else
      let s1 := s.homeFill r.loc r.vf r.key r.buf r.off.toNat
      fill s1 (s1.dieBytes (line * 128) 128)
  -- a plain read that makes no race stamp
  else if r.noCopy || (s.inFlight r.src line).isSome || s.tooMany s.cur 0 then s
  else match tabFind line (s.die r.src).copies with
    | some bs => fill s bs
    | none =>
      let q := s.numberReq { r with fill := true, chk := false, limit := s.ctx.regs.csr.acktimeout.toNat * 850, e := if level1 && !r.chk then 1 else 0 }
      q.2.sendReq q.1

/-- R424. -/
def prefBody (b : FmtM) (s : State) : WR State :=
  match s.access s.ctx b.c b.off.toInt 1 rRead 1 .read with
  | .error _ => .done s
  | .ok (w, en, l) =>
    if en.ty = .global ∨ en.ty = .host then
      match s.parts AccMode.read w en l 0 [] with
      | p :: _ => .done (s.prefetch p (b.d == 1))
      | [] => .done s
    else .done s

/-- R424: PREF. -/
def execPref (h : Hdr) (b : FmtM) (s : State) : Host.Outcome State Fault Refusal :=
  runWord (issueM 0x5B h b []) (prefBody b) s

end Sys2Proof.Machine
end

