-- ==== Sys2Proof/Machine/Dispatch.lean ====
section
/-! DEFINITION. Machine/Dispatch.lean: one arm for every instruction and event. -/

namespace Sys2Proof.Machine

def exec (i : Instr) (s : State) : Host.Outcome State Fault Refusal :=
  match i with
  | .nop h b => Sys2Proof.Machine.execNop h b s
  | .halt h b => Sys2Proof.Machine.execHalt h b s
  | .jmp h b => Sys2Proof.Machine.execJmp h b s
  | .jmpR h b => Sys2Proof.Machine.execJmpR h b s
  | .call h b => Sys2Proof.Machine.execCall h b s
  | .callR h b => Sys2Proof.Machine.execCallR h b s
  | .ret h b => Sys2Proof.Machine.execRet h b s
  | .br h b => Sys2Proof.Machine.execBr h b s
  | .brI h b => Sys2Proof.Machine.execBrI h b s
  | .brz h b => Sys2Proof.Machine.execBrz h b s
  | .brnz h b => Sys2Proof.Machine.execBrnz h b s
  | .loop h b => Sys2Proof.Machine.execLoop h b s
  | .loopI h b => Sys2Proof.Machine.execLoopI h b s
  | .sloop h b => Sys2Proof.Machine.execSloop h b s
  | .trap h b => Sys2Proof.Machine.execTrap h b s
  | .tret h b => Sys2Proof.Machine.execTret h b s
  | .brk h b => Sys2Proof.Machine.execBrk h b s
  | .yield h b => Sys2Proof.Machine.execYield h b s
  | .csrr h b => Sys2Proof.Machine.execCsrr h b s
  | .csrw h b => Sys2Proof.Machine.execCsrw h b s
  | .csrs h b => Sys2Proof.Machine.execCsrs h b s
  | .csrc h b => Sys2Proof.Machine.execCsrc h b s
  | .locq h b => Sys2Proof.Machine.execLocq h b s
  | .launch h b => Sys2Proof.Machine.execLaunch h b s
  | .region h b => Sys2Proof.Machine.execRegion h b s
  | .fence h b => Sys2Proof.Machine.execFence h b s
  | .monitor h b => Sys2Proof.Machine.execMonitor h b s
  | .waitm h b => Sys2Proof.Machine.execWaitm h b s
  | .pause h b => Sys2Proof.Machine.execPause h b s
  | .add h b => Sys2Proof.Machine.execAdd h b s
  | .addI h b => Sys2Proof.Machine.execAddI h b s
  | .sub h b => Sys2Proof.Machine.execSub h b s
  | .mul h b => Sys2Proof.Machine.execMul h b s
  | .mulI h b => Sys2Proof.Machine.execMulI h b s
  | .mulh h b => Sys2Proof.Machine.execMulh h b s
  | .div h b => Sys2Proof.Machine.execDiv h b s
  | .rem h b => Sys2Proof.Machine.execRem h b s
  | .and h b => Sys2Proof.Machine.execAnd h b s
  | .andI h b => Sys2Proof.Machine.execAndI h b s
  | .or h b => Sys2Proof.Machine.execOr h b s
  | .orI h b => Sys2Proof.Machine.execOrI h b s
  | .xor h b => Sys2Proof.Machine.execXor h b s
  | .xorI h b => Sys2Proof.Machine.execXorI h b s
  | .shl h b => Sys2Proof.Machine.execShl h b s
  | .shlI h b => Sys2Proof.Machine.execShlI h b s
  | .shr h b => Sys2Proof.Machine.execShr h b s
  | .shrI h b => Sys2Proof.Machine.execShrI h b s
  | .sar h b => Sys2Proof.Machine.execSar h b s
  | .sarI h b => Sys2Proof.Machine.execSarI h b s
  | .cmp h b => Sys2Proof.Machine.execCmp h b s
  | .cmpI h b => Sys2Proof.Machine.execCmpI h b s
  | .sel h b => Sys2Proof.Machine.execSel h b s
  | .li h b => Sys2Proof.Machine.execLi h b s
  | .lih h b => Sys2Proof.Machine.execLih h b s
  | .clz h b => Sys2Proof.Machine.execClz h b s
  | .popc h b => Sys2Proof.Machine.execPopc h b s
  | .min h b => Sys2Proof.Machine.execMin h b s
  | .max h b => Sys2Proof.Machine.execMax h b s
  | .rotl h b => Sys2Proof.Machine.execRotl h b s
  | .rotr h b => Sys2Proof.Machine.execRotr h b s
  | .ldB h b => Sys2Proof.Machine.execLdB h b s
  | .ldH h b => Sys2Proof.Machine.execLdH h b s
  | .ldW h b => Sys2Proof.Machine.execLdW h b s
  | .ldD h b => Sys2Proof.Machine.execLdD h b s
  | .stB h b => Sys2Proof.Machine.execStB h b s
  | .stH h b => Sys2Proof.Machine.execStH h b s
  | .stW h b => Sys2Proof.Machine.execStW h b s
  | .stD h b => Sys2Proof.Machine.execStD h b s
  | .ldBx h b => Sys2Proof.Machine.execLdBx h b s
  | .ldHx h b => Sys2Proof.Machine.execLdHx h b s
  | .ldWx h b => Sys2Proof.Machine.execLdWx h b s
  | .ldDx h b => Sys2Proof.Machine.execLdDx h b s
  | .stBx h b => Sys2Proof.Machine.execStBx h b s
  | .stHx h b => Sys2Proof.Machine.execStHx h b s
  | .stWx h b => Sys2Proof.Machine.execStWx h b s
  | .stDx h b => Sys2Proof.Machine.execStDx h b s
  | .amoW h b => Sys2Proof.Machine.execAmoW h b s
  | .amoD h b => Sys2Proof.Machine.execAmoD h b s
  | .casW h b => Sys2Proof.Machine.execCasW h b s
  | .casD h b => Sys2Proof.Machine.execCasD h b s
  | .ldcap h b => Sys2Proof.Machine.execLdcap h b s
  | .cderive h b => Sys2Proof.Machine.execCderive h b s
  | .cadd h b => Sys2Proof.Machine.execCadd h b s
  | .caddI h b => Sys2Proof.Machine.execCaddI h b s
  | .crestrict h b => Sys2Proof.Machine.execCrestrict h b s
  | .cread h b => Sys2Proof.Machine.execCread h b s
  | .cwb h b => Sys2Proof.Machine.execCwb h b s
  | .pref h b => Sys2Proof.Machine.execPref h b s
  | .vld h b => Sys2Proof.Machine.execVld h b s
  | .vldS h b => Sys2Proof.Machine.execVldS h b s
  | .vldb h b => Sys2Proof.Machine.execVldb h b s
  | .vst h b => Sys2Proof.Machine.execVst h b s
  | .vstS h b => Sys2Proof.Machine.execVstS h b s
  | .vstSStream h b => Sys2Proof.Machine.execVstSStream h b s
  | .vldx h b => Sys2Proof.Machine.execVldx h b s
  | .vstx h b => Sys2Proof.Machine.execVstx h b s
  | .vbind h b => Sys2Proof.Machine.execVbind h b s
  | .vunbind h b => Sys2Proof.Machine.execVunbind h b s
  | .copy h b => Sys2Proof.Machine.execCopy h b s
  | .copyq h b => Sys2Proof.Machine.execCopyq h b s
  | .barinit h b => Sys2Proof.Machine.execBarinit h b s
  | .barrive h b => Sys2Proof.Machine.execBarrive h b s
  | .barwait h b => Sys2Proof.Machine.execBarwait h b s
  | .barsync h b => Sys2Proof.Machine.execBarsync h b s
  | .barquery h b => Sys2Proof.Machine.execBarquery h b s
  | .hbar h b => Sys2Proof.Machine.execHbar h b s
  | .vadd h b => Sys2Proof.Machine.execVadd h b s
  | .vaddVs h b => Sys2Proof.Machine.execVaddVs h b s
  | .vsub h b => Sys2Proof.Machine.execVsub h b s
  | .vsubVs h b => Sys2Proof.Machine.execVsubVs h b s
  | .vmul h b => Sys2Proof.Machine.execVmul h b s
  | .vmulVs h b => Sys2Proof.Machine.execVmulVs h b s
  | .vfma h b => Sys2Proof.Machine.execVfma h b s
  | .vfmaVs h b => Sys2Proof.Machine.execVfmaVs h b s
  | .vfms h b => Sys2Proof.Machine.execVfms h b s
  | .vfmsVs h b => Sys2Proof.Machine.execVfmsVs h b s
  | .vfnma h b => Sys2Proof.Machine.execVfnma h b s
  | .vfnmaVs h b => Sys2Proof.Machine.execVfnmaVs h b s
  | .vdiv h b => Sys2Proof.Machine.execVdiv h b s
  | .vdivVs h b => Sys2Proof.Machine.execVdivVs h b s
  | .vmin h b => Sys2Proof.Machine.execVmin h b s
  | .vminVs h b => Sys2Proof.Machine.execVminVs h b s
  | .vmax h b => Sys2Proof.Machine.execVmax h b s
  | .vmaxVs h b => Sys2Proof.Machine.execVmaxVs h b s
  | .vand h b => Sys2Proof.Machine.execVand h b s
  | .vandVs h b => Sys2Proof.Machine.execVandVs h b s
  | .vor h b => Sys2Proof.Machine.execVor h b s
  | .vorVs h b => Sys2Proof.Machine.execVorVs h b s
  | .vxor h b => Sys2Proof.Machine.execVxor h b s
  | .vxorVs h b => Sys2Proof.Machine.execVxorVs h b s
  | .vshl h b => Sys2Proof.Machine.execVshl h b s
  | .vshlVs h b => Sys2Proof.Machine.execVshlVs h b s
  | .vshr h b => Sys2Proof.Machine.execVshr h b s
  | .vshrVs h b => Sys2Proof.Machine.execVshrVs h b s
  | .vshra h b => Sys2Proof.Machine.execVshra h b s
  | .vshraVs h b => Sys2Proof.Machine.execVshraVs h b s
  | .vmulh h b => Sys2Proof.Machine.execVmulh h b s
  | .vmulhVs h b => Sys2Proof.Machine.execVmulhVs h b s
  | .vcmp h b => Sys2Proof.Machine.execVcmp h b s
  | .vcmpVs h b => Sys2Proof.Machine.execVcmpVs h b s
  | .vclamp h b => Sys2Proof.Machine.execVclamp h b s
  | .vclampVs h b => Sys2Proof.Machine.execVclampVs h b s
  | .vsel h b => Sys2Proof.Machine.execVsel h b s
  | .vabs h b => Sys2Proof.Machine.execVabs h b s
  | .vneg h b => Sys2Proof.Machine.execVneg h b s
  | .vsqrt h b => Sys2Proof.Machine.execVsqrt h b s
  | .vcvt h b => Sys2Proof.Machine.execVcvt h b s
  | .vcvtSr h b => Sys2Proof.Machine.execVcvtSr h b s
  | .vsplat h b => Sys2Proof.Machine.execVsplat h b s
  | .vred h b => Sys2Proof.Machine.execVred h b s
  | .vscan h b => Sys2Proof.Machine.execVscan h b s
  | .vslide h b => Sys2Proof.Machine.execVslide h b s
  | .vperm h b => Sys2Proof.Machine.execVperm h b s
  | .vget h b => Sys2Proof.Machine.execVget h b s
  | .vput h b => Sys2Proof.Machine.execVput h b s
  | .viota h b => Sys2Proof.Machine.execViota h b s
  | .vdot h b => Sys2Proof.Machine.execVdot h b s
  | .mop h b => Sys2Proof.Machine.execMop h b s
  | .mpop h b => Sys2Proof.Machine.execMpop h b s
  | .vfirst h b => Sys2Proof.Machine.execVfirst h b s
  | .vsetshape h b => Sys2Proof.Machine.execVsetshape h b s
  | .vsetl h b => Sys2Proof.Machine.execVsetl h b s
  | .vsetlI h b => Sys2Proof.Machine.execVsetlI h b s
  | .vtag h b => Sys2Proof.Machine.execVtag h b s
  | .vclz h b => Sys2Proof.Machine.execVclz h b s
  | .vpopc h b => Sys2Proof.Machine.execVpopc h b s
  | .vcompress h b => Sys2Proof.Machine.execVcompress h b s
  | .vexpand h b => Sys2Proof.Machine.execVexpand h b s
  | .modeVec h b => Sys2Proof.Machine.execModeVec h b s
  | .modeWs h b => Sys2Proof.Machine.execModeWs h b s
  | .modeRs h b => Sys2Proof.Machine.execModeRs h b s
  | .mma h b => Sys2Proof.Machine.execMma h b s
  | .mwld h b => Sys2Proof.Machine.execMwld h b s
  | .mdrain h b => Sys2Proof.Machine.execMdrain h b s
  | .mzero h b => Sys2Proof.Machine.execMzero h b s
  | .rope h b => Sys2Proof.Machine.execRope h b s
  | .sfn h b => Sys2Proof.Machine.execSfn h b s
  | .sfload h b => Sys2Proof.Machine.execSfload h b s
  | .mstat h b => Sys2Proof.Machine.execMstat h b s
  | .illegalOp w => Sys2Proof.Machine.execIllegalOp w s
  | .emulWindow w => Sys2Proof.Machine.execEmulWindow w s
  | .undefOp w => Sys2Proof.Machine.execUndefOp w s
  | .tagArrival k t => Sys2Proof.Machine.execTagArrival k t s
  | .drainComplete k => Sys2Proof.Machine.execDrainComplete k s
  | .arrayPowerGrant die => Sys2Proof.Machine.execArrayPowerGrant die s
  | .arrayPowerDown die core => Sys2Proof.Machine.execArrayPowerDown die core s
  | .mmaFinish k => Sys2Proof.Machine.execMmaFinish k s
  | .ropeTimeout k => Sys2Proof.Machine.execRopeTimeout k s
  | .poolMove k => Sys2Proof.Machine.execPoolMove k s
  | .l1dLineExpiry die core line => Sys2Proof.Machine.execL1dLineExpiry die core line s
  | .ackTimeout r => Sys2Proof.Machine.execAckTimeout r s
  | .linkRead p => Sys2Proof.Machine.execLinkRead p s
  | .linkWrite p => Sys2Proof.Machine.execLinkWrite p s
  | .linkAtomic p => Sys2Proof.Machine.execLinkAtomic p s
  | .linkInvalidate p => Sys2Proof.Machine.execLinkInvalidate p s
  | .linkBarrierArrival p => Sys2Proof.Machine.execLinkBarrierArrival p s
  | .linkBarrierRelease p => Sys2Proof.Machine.execLinkBarrierRelease p s
  | .linkReadData p => Sys2Proof.Machine.execLinkReadData p s
  | .linkWriteAck p => Sys2Proof.Machine.execLinkWriteAck p s
  | .linkAtomicResult p => Sys2Proof.Machine.execLinkAtomicResult p s
  | .linkInvalidationAck p => Sys2Proof.Machine.execLinkInvalidationAck p s
  | .linkRefusal p => Sys2Proof.Machine.execLinkRefusal p s
  | .bdRead st n => Sys2Proof.Machine.execBdRead st n s
  | .bdWrite st n => Sys2Proof.Machine.execBdWrite st n s
  | .bdMaskedWrite st n => Sys2Proof.Machine.execBdMaskedWrite st n s
  | .bdAtomic st n => Sys2Proof.Machine.execBdAtomic st n s
  | .bdDrop st n => Sys2Proof.Machine.execBdDrop st n s
  | .bdTileRead st n => Sys2Proof.Machine.execBdTileRead st n s
  | .bdDiagnosticRead st n => Sys2Proof.Machine.execBdDiagnosticRead st n s
  | .bdReply st n => Sys2Proof.Machine.execBdReply st n s
  | .mpTimeout st n => Sys2Proof.Machine.execMpTimeout st n s
  | .backoffEnd st pch bank => Sys2Proof.Machine.execBackoffEnd st pch bank s
  | .refresh st pch => Sys2Proof.Machine.execRefresh st pch s
  | .scrubGranule st => Sys2Proof.Machine.execScrubGranule st s
  | .ceStartGrant die => Sys2Proof.Machine.execCeStartGrant die s
  | .copySector k ch => Sys2Proof.Machine.execCopySector k ch s
  | .barrierPitch n => Sys2Proof.Machine.execBarrierPitch n s
  | .waitmTimeout k => Sys2Proof.Machine.execWaitmTimeout k s
  | .waitmWake k => Sys2Proof.Machine.execWaitmWake k s
  | .regionWrapResume k => Sys2Proof.Machine.execRegionWrapResume k s
  | .watchdog k => Sys2Proof.Machine.execWatchdog k s
  | .sqtailWrite vf q v => Sys2Proof.Machine.execSqtailWrite vf q v s
  | .sqNode vf q => Sys2Proof.Machine.execSqNode vf q s
  | .sqMbox vf q => Sys2Proof.Machine.execSqMbox vf q s
  | .nodeReady vf node => Sys2Proof.Machine.execNodeReady vf node s
  | .bind k uid => Sys2Proof.Machine.execBind k uid s
  | .dispatch k => Sys2Proof.Machine.execDispatch k s
  | .save k reason => Sys2Proof.Machine.execSave k reason s
  | .saveComplete k => Sys2Proof.Machine.execSaveComplete k s
  | .free k => Sys2Proof.Machine.execFree k s
  | .quantumExpiry uid => Sys2Proof.Machine.execQuantumExpiry uid s
  | .pageInComplete buf off => Sys2Proof.Machine.execPageInComplete buf off s
  | .extinvBuf v => Sys2Proof.Machine.execExtinvBuf v s
  | .extinvAll v => Sys2Proof.Machine.execExtinvAll v s
  | .extinvComplete => Sys2Proof.Machine.execExtinvComplete s
  | .keyLoad v => Sys2Proof.Machine.execKeyLoad v s
  | .keyLoadComplete => Sys2Proof.Machine.execKeyLoadComplete s
  | .keyErase v => Sys2Proof.Machine.execKeyErase v s
  | .waysplitWrite die v => Sys2Proof.Machine.execWaysplitWrite die v s
  | .vfpartWrite vf v => Sys2Proof.Machine.execVfpartWrite vf v s
  | .partharnWrite v => Sys2Proof.Machine.execPartharnWrite v s
  | .partitionModeChange preempt maps => Sys2Proof.Machine.execPartitionModeChange preempt maps s
  | .vfReset vf => Sys2Proof.Machine.execVfReset vf s
  | .stopInterface vf => Sys2Proof.Machine.execStopInterface vf s
  | .tdispChangeRequest vf ownSession change => Sys2Proof.Machine.execTdispChangeRequest vf ownSession change s
  | .challenge slot => Sys2Proof.Machine.execChallenge slot s
  | .getMeasurements slot => Sys2Proof.Machine.execGetMeasurements slot s
  | .recoverableFault u => Sys2Proof.Machine.execRecoverableFault u s
  | .freezeArm v => Sys2Proof.Machine.execFreezeArm v s
  | .freeze => Sys2Proof.Machine.execFreeze s
  | .debugHalt k => Sys2Proof.Machine.execDebugHalt k s
  | .debugResume k => Sys2Proof.Machine.execDebugResume k s
  | .throttleStep die => Sys2Proof.Machine.execThrottleStep die s
  | .throttleRaise die => Sys2Proof.Machine.execThrottleRaise die s
  | .coldReset => Sys2Proof.Machine.execColdReset s
  | .warmReset => Sys2Proof.Machine.execWarmReset s
  | .registerWrite r v => Sys2Proof.Machine.execRegisterWrite r v s
  | .lockInterface vf => Sys2Proof.Machine.execLockInterface vf s
  | .startInterface vf => Sys2Proof.Machine.execStartInterface vf s
  | .keyExchange vf => Sys2Proof.Machine.execKeyExchange vf s
  | .ideStreamKeying vf => Sys2Proof.Machine.execIdeStreamKeying vf s
  | .linkStop die link vc => Sys2Proof.Machine.execLinkStop die link vc s
  | .linkGo die link vc => Sys2Proof.Machine.execLinkGo die link vc s
  | .dirtyLineWriteBack line => Sys2Proof.Machine.execDirtyLineWriteBack line s
  | .tableEntryChange pa data => Sys2Proof.Machine.execTableEntryChange pa data s

end Sys2Proof.Machine
end

