-- ==== Sys2Proof/Machine/Policy.lean ====
section
/-! DEFINITION. Machine/Policy.lean: which move comes next, the passing of time, and what a step runs at the PC. With an empty agenda the
events that are due come first, in a fixed order, and then the slots take turns. -/

namespace Sys2Proof.Machine

/-! ### Events that are due -/

/-- The event by which a packet at position p arrives. -/
def Pkt.event (p : Nat) : Pkt → Instr
  | .read _ => .linkRead p
  | .write _ => .linkWrite p
  | .atomic _ => .linkAtomic p
  | .inval _ => .linkInvalidate p
  | .barArrival _ => .linkBarrierArrival p
  | .barRelease _ => .linkBarrierRelease p
  | .readData _ _ => .linkReadData p
  | .writeAck _ => .linkWriteAck p
  | .atomicResult _ _ => .linkAtomicResult p
  | .invalAck _ => .linkInvalidationAck p
  | .refusal _ _ _ => .linkRefusal p

/-- A packet can arrive now: no sender on its way is stopped, the line of a request has no open transaction but its own, and an
invalidation is not held. -/
def State.canArrive (s : State) (x : Pkt) : Bool :=
  !s.pathStopped x &&
  (match x with
   | .read r | .write r | .atomic r =>
     (match s.openTxn (lineOf r.loc) with | some t => t.req.requester == r.requester && t.req.seq == r.seq && r.opc != 1 | none => true)
   | .inval r => !s.holdsInv r.dst (lineOf r.loc)
   | _ => true)

/-- A list with its positions. -/
def numbered {α : Type} (l : List α) : List (Nat × α) := (List.range l.length).zip l

def State.dueLink (s : State) : Option Instr := ((numbered s.net).find? fun x => s.canArrive x.2).map fun x => x.2.event x.1

/-- A receiver that told its sender to stop and has drained (R190). -/
def State.dueGo (s : State) : Option Instr :=
  (s.rx.find? fun x => decide (flitSum x.2 ≤ 16)).map fun x => .linkGo (x.1 / 16) (x.1 / 4 % 4) (x.1 % 4)

/-- A request whose timer has run out (R193). -/
def State.dueTimeout (s : State) : Option Instr :=
  (s.reqs.find? fun r => r.src != r.dst && decide (r.sent + r.limit ≤ s.tick)).map fun r => .ackTimeout r.id

/-- The event by which a base die performs a request. -/
def bdEvent (kind st i : Nat) : Instr :=
  match kind with
  | 0 => .bdRead st i | 1 => .bdWrite st i | 2 => .bdMaskedWrite st i | 3 => .bdAtomic st i | 4 => .bdDrop st i
  | 5 => .bdTileRead st i | _ => .bdDiagnosticRead st i

def State.dueBase (s : State) : Option Instr :=
  (List.range 12).findSome? fun st =>
    (numbered (s.stack st).queue).findSome? fun x =>
      if x.2.reply.isSome then some (.bdReply st x.1)
      else if x.2.tag.isNone then none
      else if !s.bdBusy x.2 && !x.2.lost then some (bdEvent x.2.kind st x.1)
      else if x.2.sent + 1700 ≤ s.tick then some (.mpTimeout st x.1) else none

/-- Channel ch of slot k can move its next sector. -/
def State.sectorDue (s : State) (k ch : Nat) : Bool :=
  match s.activeCopy k ch with
  | none => false
  | some p => p.started && !p.failed && p.paused.isNone && decide (p.sect < p.sectors) && !s.copyAsked k ch

def State.dueCopy (s : State) : Option Instr :=
  match (List.range 8).find? fun d => (s.die d).ceQueue != [] && s.ceFree d &&
      (s.die d).ceQueue.any fun n => match s.activeCopy (n / 4) (n % 4) with
        | some p => !(s.slot (n / 4)).copyBlocked p | none => true with
  | some d => some (.ceStartGrant d)
  | none => s.slots.findSome? fun x => (List.range 4).findSome? fun ch => if s.sectorDue x.1 ch then some (.copySector x.1 ch) else none

def State.dueWindow (s : State) : Option Instr :=
  ((numbered s.windows).find? fun x => x.2.started && decide (x.2.last + pitchGap x.2.lo x.2.hi x.2.next ≤ s.tick)).map
    fun x => .barrierPitch x.1

/-- The lowest pending tag of a context whose result is complete. -/
def Ctx.pendingTag (c : Ctx) : Option Nat := (countFrom 1 15).find? fun t => (c.getTag t).isPending && !c.tagBusy t

/-- What is due at one slot. -/
def Ctx.due (tick k : Nat) (c : Ctx) : Option Instr :=
  if c.wdDue then some (.watchdog k)
  else if c.wait = .regionWrap false then some (.regionWrapResume k)
  else if (match c.wait with | .rope _ _ t => decide (t + 4096 ≤ tick) | _ => false) then some (.ropeTimeout k)
  else if c.moving then some (.poolMove k)
  else if c.regs.arr.draining.isSome then some (.drainComplete k)
  else if c.regs.arr.mmaFlags.isSome then some (.mmaFinish k)
  else if c.bind.st = .save then c.pendingTag.map fun t => .tagArrival k t
  else none

def State.dueSlot (s : State) : Option Instr := s.slots.findSome? fun x => x.2.due s.tick x.1

def State.dueDie (s : State) : Option Instr :=
  ((List.range 8).find? fun d => s.arrFree d && ((s.die d).ceGrant != s.tick || s.tick == 0)).map fun d => .arrayPowerGrant d

def State.dueScrub (s : State) : Option Instr := ((List.range 12).find? fun k => (s.stack k).scrub != []).map fun k => .scrubGranule k

/-- A mode change under way can go on. -/
def State.modeDue (s : State) : Option Instr :=
  match s.modeChg with
  | none => none
  | some m =>
    let l := s.affectedSlots
    let go := if l = [] then !s.reqs.any fun r => s.affected (slotDie r.slot) (slotCluster r.slot)
      else m.preempt && l.any fun x => x.2.bind.st == .run
    if go then some (.partitionModeChange m.preempt m.maps) else none

def State.duePackage (s : State) : Option Instr :=
  if s.pkg.keyBusy.isSome then some .keyLoadComplete
  else if s.pkg.extBusy && !s.extWaits then some .extinvComplete
  else match s.vfs.find? fun x => x.2.reset.isSome && !s.resetWaits x.1 with
    | some x => some (.vfReset x.1)
    | none => s.modeDue

/-- What is due of a bind record (Table 15-4). -/
def State.dueRecord (s : State) (k : Nat) (c : Ctx) : Option Instr :=
  match c.bind.st with
  | .bind =>
    let power := match (s.core (coreKey k)).power with | .requested _ => true | _ => false
    if !s.mayDispatch k || (!s.arrayReady k && power) then none else some (.dispatch k)
  | .save => if s.ropeRunning k != [] || s.saveReady k then some (.saveComplete k) else none
  | .saved => some (.free k)
  | .halted => some (.free k)
  | .faulted => if c.storing then none else some (.free k)
  | _ => none

def State.dueQueue (s : State) : Option Instr :=
  s.queues.findSome? fun x => (s.sqEntry (x.1 / 4) (x.1 % 4)).map fun e =>
    if mboxEntryOk e then .sqMbox (x.1 / 4) (x.1 % 4) else .sqNode (x.1 / 4) (x.1 % 4)

def State.dueNode (s : State) : Option Instr :=
  s.nodes.findSome? fun n =>
    if n.order.isSome && !n.made then
      match s.prepare n with
      | .wait _ _ => none
      | _ => some (.nodeReady n.vf n.node)
    else none

def State.dueSched (s : State) : Option Instr :=
  match s.slots.findSome? fun x => s.dueRecord x.1 x.2 with
  | some e => some e
  | none => match s.dueQueue with
    | some e => some e
    | none => match s.dueNode with
      | some e => some e
      | none => match s.nextBind with
        | some x => some (.bind x.1 x.2.1)
        | none => match s.nextVictim with
          | some x => some (.save x.1 .preemption)
          | none => if s.trained then (s.ready.find? fun x => (s.quantumVictim x).isSome).map fun x => .quantumExpiry x.1 else none

/-- A page that a context, a copy channel or a header waits for. -/
def State.duePage (s : State) : Option Instr :=
  match s.members.findSome? fun x => x.2.waiting with
  | some w => some (.pageInComplete w.1 w.2)
  | none => match s.slots.findSome? fun x => x.2.copies.findSome? fun p => p.paused with
    | some w => some (.pageInComplete w.1.toNat w.2)
    | none => s.nodes.findSome? fun n =>
      if n.order.isSome && !n.made then
        match s.prepare n with
        | .wait b o => some (.pageInComplete b o)
        | _ => none
      else none

/-- The first event that is due. -/
def State.dueEvent (s : State) : Option Instr :=
  [State.dueSlot, State.dueLink, State.dueGo, State.dueTimeout, State.dueBase, State.dueWindow, State.dueCopy, State.dueDie, State.dueScrub,
    State.duePackage, State.dueSched, State.duePage].findSome? fun f => f s

/-! ### Moves -/

/-- The next slot after k, in slot order and around, whose context may issue. -/
def State.nextRunning (s : State) (k : Nat) : Option Nat :=
  let ready := (s.slots.filter fun p => p.2.runs).map (·.1)
  match ready.find? (fun j => decide (k < j)) with
  | some j => some j
  | none => ready.head?

/-- A deferred access that can be performed. -/
def State.duePerform (s : State) : Option Move :=
  s.slots.findSome? fun x => if x.2.out.isEmpty then none else (s.outDue x.1).map fun i => .perform x.1 i

/-- The next move with the agenda that remains: a freeze whose tick has come (R348); else its head; else a deferred access; else an event that is
due; else the next slot that may issue; else the focused slot. -/
def State.pickMove (s : State) : Move × List Move :=
  if s.freezeDue then (.event .freeze, s.agenda)
  else match s.agenda with
  | m :: l => (m, l)
  | [] =>
    match (if s.pkg.frozen then none else s.duePerform) with
    | some m => (m, [])
    | none =>
      match (if s.pkg.frozen then none else s.dueEvent) with
      | some e => (.event e, [])
      | none =>
        match s.nextRunning s.cur with
        | some j => (.issue j, [])
        | none => (.issue s.cur, [])

/-- An event that a frozen package still meets (R348): a reset. -/
def isReset : Instr → Bool
  | .coldReset => true
  | .warmReset => true
  | _ => false

/-- A move happens: an event of the agenda is a device event that is well-formed, and a frozen package makes no move but a reset. -/
def State.allows (s : State) (m : Move) : Bool :=
  match m with
  | .issue _ => !s.pkg.frozen
  | .cellError _ => !s.pkg.frozen
  | .cellFixed _ => !s.pkg.frozen
  | .mscError _ => !s.pkg.frozen
  | .mscFixed _ => !s.pkg.frozen
  | .tileError _ _ _ => !s.pkg.frozen
  | .defer _ => !s.pkg.frozen
  | .perform _ _ => !s.pkg.frozen
  | .dropPkt _ => !s.pkg.frozen
  | .foreign _ _ => !s.pkg.frozen
  | .dropBd _ _ => !s.pkg.frozen
  | .event e => !e.isWord && e.wf && (!s.pkg.frozen || isReset e)

/-- WDLEFT after some ticks (Table 15-6). -/
def Ctx.countDown (n : Nat) (c : Ctx) : Ctx :=
  if c.wdCounts && c.bind.wdleft != BitVec.allOnes 64 then
    { c with bind := { c.bind with wdleft := BitVec.ofNat 64 (c.bind.wdleft.toNat - n) } }
  else c

/-- What a step's end leaves in a context: a count of the watchdog, and the tick of a fault (R300). -/
def Ctx.passTime (tick n : Nat) (c : Ctx) : Ctx :=
  if c.bind.st = .faulted && c.faultAt.isNone then { c with faultAt := some tick } else c.countDown n

/-- The ticks that a step lets pass: a free amount (R3), but none beyond the tick of an armed freeze (R348). -/
def State.ticksNow (s : State) : Nat :=
  let n := Config.tickStep s.draws
  if s.pkg.freezeArm ∧ s.tick < s.pkg.freezeFrom then min n (s.pkg.freezeFrom - s.tick) else n

/-- Time passes, but not in a frozen package (R348). -/
def State.advance (s : State) : State :=
  if s.pkg.frozen then s
  else
    let n := s.ticksNow
    { s.mapSlots fun _ c => c.passTime s.tick n with tick := s.tick + n, draws := s.draws + 1, late := false }

/-- What stands at the PC of the focused context: a stop of the fetch, a poisoned byte at an offset, a line that cannot be read yet, an
instruction, or a word that is no legal instruction. A context whose watchdog has run out meets WATCHDOG there (R298). -/
inductive AtPc where
  | stop (x : Stop)
  | poison (off : Nat)
  | held
  | instr (i : Instr)
  | illegal (w : IWord)
  deriving DecidableEq, Repr

/-- A line of DRAM that a fetch must read waits: for a transaction on it, for an earlier write at its memory port (R261), or for its bank
(R269, R270). -/
def State.codeHeld (s : State) (a : Nat) : Bool :=
  let r := bdRequest 0 (lineOf a * 128) 3 0 0 0 .none_
  !s.lineHere a && ((s.openTxn (lineOf a)).isSome || r.blockedBy (s.stack (paStack a)).queue || s.bdBusy r)

/-- The fetch of the word at the PC waits for a line. -/
def State.fetchHeld (s : State) : Bool :=
  !(s.fetchHit.isSome || s.ctx.launch.native.isSome) &&
  match s.fetchPlace s.ctx with
  | .ok (_, off, l) => (fetchLines off l).any fun x => s.codeHeld x.1
  | .error _ => false

/-- Fetch and decoding at the PC. -/
def State.atPc (s : State) : AtPc :=
  if s.ctx.wdDue then .instr (.watchdog s.cur)
  else match s.fetchPoison with
  | some off => .poison off
  | none => if s.fetchHeld then .held else match s.fetch with
  | .error x => .stop x
  | .ok w => match decodeWord w with
    | .ok i => .instr i
    | .error _ => .illegal w

/-- A fetch that its home or its own memory port refuses is counted there (R240, R301, R345). -/
def State.fetchRefused (s : State) : State :=
  let c := s.ctx
  let off := capBase c.launch.code + c.launch.nativeOff + 10 * c.regs.pc
  let w : Win := ⟨capBuf c.launch.code, off, capS c.launch.code, 0⟩
  match s.fetchPlace c, s.translate c w 10 rExec .exec with
  | .error (.trap t), .ok (_, l) =>
    if t.cause = .permRemote then
      (match s.homeBar c w 10 rExec .exec l with | some d => s.countRefusal d c.launch.part w.buf | none => s)
    else s
  | .error (.trap t), .error _ =>
    if t.cause = .capInvalid ∧ s.notOwned w.buf = true then s.countRefusal (slotDie s.cur) c.launch.part w.buf else s
  | _, _ => s

/-- A fetch that meets a poisoned byte ends the task at its word (R346). -/
def State.fetchBad (s : State) (off : Nat) : State :=
  if s.ctx.wait ≠ .none_ then s else s.updCtx fun c => c.taskFault .none_ (mInfo0 off) (mInfo1 (capBuf c.launch.code) 0)

/-- A fetch that stops: the trap is precise, with nothing of a word begun; a page on swap starts a save. A word that has begun
keeps waiting. -/
def State.fetchStop (s : State) (x : Stop) : State :=
  if s.ctx.wait ≠ .none_ then s
  else match x with
    | .trap t => s.fetchRefused.updCtx fun c => c.takeTrap t.cause t.i0 t.i1
    | .swap buf off => s.updCtx fun c => c.startSwap buf off

end Sys2Proof.Machine
end

