-- ==== Sys2Proof/Machine/Step.lean ====
section
/-! DEFINITION. Machine/Step.lean: one step of the machine. -/

namespace Sys2Proof.Machine

/-- The outcome with time passed. -/
def afterStep : Host.Outcome State Fault Refusal → Host.Outcome State Fault Refusal
  | .next s => .next s.advance
  | .fault f => .fault f
  | .refused r => .refused r

/-- Slot k issues the word at its PC, whose fetch has filled the instruction cache (R320). -/
def issueSlot (k : Nat) (s0 : State) : Host.Outcome State Fault Refusal :=
  let s := s0.focus k
  if !s.ctx.runs then .next s
  else match s.atPc with
    | .stop x => .next (s.fetchStop x)
    | .poison off => .next (s.fetchBad off)
    | .held => .next s
    | .instr i => exec i s.fillCode
    | .illegal w => illegalEncoding w s.fillCode

/-- One move, if it may happen. -/
def runMove (m : Move) (s : State) : Host.Outcome State Fault Refusal :=
  if !s.allows m then .next s
  else match m with
  | .issue k => issueSlot k s
  | .event e => exec e s
  | .cellError k => .next (s.cellError k)
  | .cellFixed k => .next (s.cellFixed k)
  | .mscError k => .next (s.mscError k false)
  | .mscFixed k => .next (s.mscError k true)
  | .tileError st i fixed => .next (s.tileError st i fixed)
  | .defer k => issueSlot k { s with late := true }
  | .perform k i => .next (s.perform k i)
  | .dropPkt i => .next (s.dropPkt i)
  | .foreign d h => .next (s.foreign d h)
  | .dropBd st i => .next (s.dropBd st i)

/-- One step: the next move of the agenda or of the policy, and the passing of time. -/
def step (s : State) : Host.Outcome State Fault Refusal :=
  let p := s.pickMove
  afterStep (runMove p.1 { s with agenda := p.2 })

/-- The machine whose next step fetches and runs the word w: the word where the next fetch reads, and the focused slot's issue as
the next move. -/
def State.withFetchWord (s : State) (nbits w : Nat) : State :=
  let s1 := s.putNext (BitVec.ofNat 80 (w % 2 ^ nbits))
  { s1 with agenda := .issue s1.cur :: s1.agenda }

end Sys2Proof.Machine
end

