-- ==== Sys2Proof/Safety.lean ====
section
/-! DEFINITION. Safety.lean: what counts as a safe step, the invariant of memory, and the terms in which claims speak of a word: how it
starts (04 R80, R84; Table 7-1), and what its retirement, its taken transfer and its trap leave (06 R105, R106, R109). -/

namespace Sys2Proof.Machine

/-- A step is safe when it gives a next state: it neither faults nor refuses. -/
def Safe (o : Host.Outcome State Fault Refusal) : Prop := ∃ t, o = .next t

/-- Memory stands in its canonical form. -/
def State.MemOk (s : State) : Prop := Memory.wf s.mem = true

/-- Every byte of memory reads in t as it reads in s. -/
def SameBytes (s t : State) : Prop := ∀ a, memGet t.mem a = memGet s.mem a

/-- The bytes of s but those at n locations from a. -/
def SameBytesBut (a n : Nat) (s t : State) : Prop := ∀ x, x < a ∨ a + n ≤ x → memGet t.mem x = memGet s.mem x

/-- An instruction or event gives a next state, of which P holds. -/
def Ends (i : Instr) (s : State) (P : State → Prop) : Prop := ∃ t, exec i s = .next t ∧ P t

/-- Every slot but k is in t as it is in s. -/
def SlotsBut (k : Nat) (s t : State) : Prop := ∀ j, j ≠ k → t.slot j = s.slot j

/-- In t slot k holds c; every other slot and every byte of memory is as in s. -/
def SlotIs (k : Nat) (c : Ctx) (s t : State) : Prop := t.slot k = c ∧ SlotsBut k s t ∧ SameBytes s t

/-- Every slot and every byte of memory is in t as it is in s. -/
def Quiet (s t : State) : Prop := (∀ k, t.slot k = s.slot k) ∧ SameBytes s t

/-- Packet x, at position p, can arrive (R190): no router and no ingress on its way bars its PART (R193, R345), and FAULTINJ counts no packet of its
kind (R198). -/
def Arrives (s : State) (p : Nat) (x : Pkt) : Prop :=
  s.net[p]? = some x ∧ s.pathStopped x = false ∧ s.barredAt x = none ∧ s.inject x.parts.1 x.arriveKind = (false, s)

/-- A request from another die meets its home with nothing in its way: no open transaction, no refusal, an unchecked buffer, a sound DRAM
line that is in its home slice. -/
def AtHome (s : State) (r : Req) : Prop :=
  s.openTxn (lineOf r.loc) = none ∧ s.homeRefuses r = false ∧ r.chk = false ∧ r.far = false ∧ r.src ≠ r.dst ∧ locKind r.loc = .dram ∧
  0 < r.size ∧ r.loc % 128 + r.size ≤ 128 ∧ (tabFind (lineOf r.loc) s.homeLines).isSome = true ∧ s.scrubPending r.loc = false ∧
  (∀ x, lineOf x = lineOf r.loc → s.poisoned x = false)

/-- Request r is outstanding. -/
def State.holds (s : State) (r : Req) : Prop := s.reqs.find? (·.id == r.id) = some r

/-- The word of slot r.slot waits at its step for the answer to r, which it issued as q, with the bytes acc of earlier parts. -/
def Awaits (s : State) (r q : Req) (acc : List Byte) : Prop :=
  s.holds r ∧ r.ch = 0 ∧ r.blk = true ∧ (s.slot r.slot).launch.uid = r.uid ∧ (s.slot r.slot).wait = .remote r.e acc q ∧ q.id = r.id

/-- Packet r of a die's own (R194), with the operation code opc, comes to another die for the first time. -/
def FirstCtl (s : State) (r : Req) (opc : Nat) : Prop := r.opc = opc ∧ r.ch = 6 ∧ r.src ≠ r.dst ∧ r.dst < 8 ∧ s.dup r = none

/-- The word of slot r.slot goes on with what it waited for. -/
def Hears (r : Req) (w : Wait) (s t : State) : Prop :=
  SlotIs r.slot { s.slot r.slot with wait := w } s t ∧ t.reqs = s.reqs.filter fun q => q.id != r.id

/-- The word of an issue record stands at the PC of a context that runs and has not begun it; it passes R84's checks; the results of its tags
have come, those that it consumes commit, and a drain that it waits for has ended (R125), which leaves the context c; and Table 7-1 lets its
class go on. -/
def Starts (w : Issue) (s : State) (c : Ctx) : Prop :=
  s.ctx.runs = true ∧ s.ctx.wait = .none_ ∧ issueCheck w s.ctx = none ∧ s.ctx.waitsTags w.hdr = false ∧
  (∃ c0 c1, s.ctx.consume w.hdr.tc0.toNat = .ok c0 ∧ c0.consume w.hdr.tc1.toNat = .ok c1 ∧ c = c1.awaitDrains (w.touches s.ctx)) ∧
  classCheck w.cls c.regs.arr.mode (s.slot (slotMate s.cur)).regs.arr.mode = .allow

/-- The machine once a word whose untagged destination is d has retired in sequence, from the context that holds the word's effects. -/
def State.retired (s : State) (d : RegNo) (c : Ctx) : State := { s with ctx := (c.retire d).endTest 5 c.regs.pc }

/-- The machine once a word has retired with a taken transfer to t, which pops the loop entries of R110 where pop holds. -/
def State.jumped (s : State) (d : RegNo) (t : Nat) (pop : Bool) (c : Ctx) : State :=
  { s with ctx := (if pop then (c.retire d).popFor t else c.retire d).upd fun r => { r with pc := t } }

/-- The machine once the word at the PC has raised a cause. -/
def State.trapped (s : State) (cause : Cause) (i0 i1 : Word) (c : Ctx) : State := { s with ctx := c.takeTrap cause i0 i1 }

/-- Of the machine, only the focused context differs. -/
def OnlyCtx (s t : State) : Prop := t = { s with ctx := t.ctx }

/-- Of the machine, only the focused context and the extent caches of the cores differ (R245, R249). -/
def OnlyCtxExt (s t : State) : Prop :=
  t = { s with ctx := t.ctx, cores := t.cores } ∧ ∀ k, t.core k = { s.core k with ext := (t.core k).ext }

/-- The numbers given so far to requests, to homes and to base dies, lie below the next one. -/
def State.Numbered (s : State) : Prop :=
  0 < s.nextReq ∧ (∀ r ∈ s.reqs, r.id < s.nextReq) ∧ ∀ k, ∀ r ∈ (s.stack k).queue, r.num < s.nextReq

/-- A transfer word completes where its target is a word of the code, with a further effect on the context, and raises CAP_BOUNDS with
the target as INFO0 before any effect where it is not (R73). -/
def CompletesJ (mk : Hdr → FmtJ → Instr) (w : Hdr → FmtJ → Issue) (pop : Bool) (target : FmtJ → Ctx → Int) (eff : Ctx → Ctx) : Prop :=
  ∀ h b s c, Starts (w h b) s c →
    (∀ t : Nat, target b c = t → t < c.launch.nativeLen → exec (mk h b) s = .next (s.jumped (w h b).dst t pop (eff c))) ∧
    (target b c < 0 ∨ (c.launch.nativeLen : Int) ≤ target b c →
      exec (mk h b) s = .next (s.trapped .capBounds (BitVec.ofInt 64 (target b c)) 0 c))

/-- A conditional transfer completes: taken to PC + sext(OFF32) where its condition holds, and else in sequence. -/
def CompletesBr (mk : Hdr → FmtJ → Instr) (w : Hdr → FmtJ → Issue) (cond : FmtJ → Ctx → Prop) : Prop :=
  ∀ h b s c, Starts (w h b) s c →
    (∀ t : Nat, cond b c → (c.regs.pc : Int) + b.off.toInt = t → t < c.launch.nativeLen →
      exec (mk h b) s = .next (s.jumped 0 t true c)) ∧
    (cond b c → (c.regs.pc : Int) + b.off.toInt < 0 ∨ (c.launch.nativeLen : Int) ≤ c.regs.pc + b.off.toInt →
      exec (mk h b) s = .next (s.trapped .capBounds (BitVec.ofInt 64 (c.regs.pc + b.off.toInt)) 0 c)) ∧
    (¬ cond b c → exec (mk h b) s = .next (s.retired 0 c))

/-- A word form of format A completes: from every state in which it starts, it retires with s[D] = f. -/
def CompletesA (mk : Hdr → FmtA → Instr) (op : BitVec 8) (f : FmtA → Ctx → Word) : Prop :=
  ∀ h b s c, Starts (issueA op h b) s c → exec (mk h b) s = .next (s.retired b.d (c.setS b.d (f b c)))

/-- A word form of format B completes. -/
def CompletesB (mk : Hdr → FmtB → Instr) (op : BitVec 8) (f : FmtB → Ctx → Word) : Prop :=
  ∀ h b s c, Starts (issueB op h b) s c → exec (mk h b) s = .next (s.retired b.d (c.setS b.d (f b c)))

/-- Capability v gives nothing that u does not: its buffer, no byte outside u's window, no right and no derive bit more, the same S bit. -/
def Within (v u : BitVec 128) : Prop :=
  capBuf v = capBuf u ∧ (∀ x, capBase v ≤ x → x < capBase v + capLen v → capBase u ≤ x ∧ x < capBase u + capLen u) ∧
  capRights v &&& ~~~(capRights u) = 0 ∧ (capD v = true → capD u = true) ∧ capS v = capS u

/-- Every window that the context's capability table or its valid capability registers give ends within 2^48 bytes (R32). -/
def CapsOk (c : Ctx) : Prop :=
  (∀ v ∈ c.launch.captab, capBase v + capLen v ≤ 2 ^ 48) ∧
  ∀ n : RegNo, (c.getC n).valid = true → capBase (c.getC n).val + capLen (c.getC n).val ≤ 2 ^ 48

/-- s[A] and s[B] as arguments of a function. -/
def two (g : Word → Word → Word) (b : FmtA) (c : Ctx) : Word := g (c.getS b.a) (c.getS b.b)

/-- s[A] and sext(IMM32) as arguments of a function. -/
def twoI (g : Word → Word → Word) (b : FmtB) (c : Ctx) : Word := g (c.getS b.a) (b.imm.signExtend 64)

/-- The header and the destination D of the words that compute one s register from others. -/
def scalarDst : Instr → Option (Hdr × RegNo)
  | .add h b => some (h, b.d) | .sub h b => some (h, b.d) | .mul h b => some (h, b.d) | .mulh h b => some (h, b.d)
  | .div h b => some (h, b.d) | .rem h b => some (h, b.d) | .and h b => some (h, b.d) | .or h b => some (h, b.d)
  | .xor h b => some (h, b.d) | .shl h b => some (h, b.d) | .shr h b => some (h, b.d) | .sar h b => some (h, b.d)
  | .min h b => some (h, b.d) | .max h b => some (h, b.d) | .rotl h b => some (h, b.d) | .rotr h b => some (h, b.d)
  | .cmp h b => some (h, b.d) | .sel h b => some (h, b.d) | .clz h b => some (h, b.d) | .popc h b => some (h, b.d)
  | .addI h b => some (h, b.d) | .mulI h b => some (h, b.d) | .andI h b => some (h, b.d) | .orI h b => some (h, b.d)
  | .xorI h b => some (h, b.d) | .shlI h b => some (h, b.d) | .shrI h b => some (h, b.d) | .sarI h b => some (h, b.d)
  | .cmpI h b => some (h, b.d) | .li h b => some (h, b.d) | .lih h b => some (h, b.d)
  | _ => none

/-! ### Memory -/

/-- An access of a word that starts, from the context c, passes both stages (R98, R239) at the n consecutive locations from a, within
one line, and no copy of the context holds it back (R219), nor any earlier access (R148). -/
def Reaches (s : State) (c : Ctx) (cap : RegNo) (off : Int) (n : Nat) (need : BitVec 4) (align : Nat) (k : AccKind) (store chk : Bool)
    (a : Nat) : Prop :=
  ∃ w en, ({ s with ctx := c }).access c cap off n need align k = .ok (w, en, countFrom a n) ∧ en.ty ≠ .diagnostic ∧ a % 128 + n ≤ 128 ∧
    c.out = [] ∧ (locKind a = .scratch → c.copyWait (scratchOff a) n store = false) ∧ (chk = false → en.chk = false)

/-- No translation of a register's buffer is in the core's extent cache, as none of a scratch buffer is (R245). -/
def NoExtent (s : State) (c : Ctx) (cap : RegNo) : Prop :=
  ∀ x ∈ (s.core (coreKey s.cur)).ext, x.buf ≠ capBuf (c.getC cap).val

/-- It lies in the context's own scratchpad. -/
def ScratchAccess (s : State) (c : Ctx) (cap : RegNo) (off : Int) (n : Nat) (need : BitVec 4) (align : Nat) (k : AccKind) (store : Bool)
    (a : Nat) : Prop :=
  Reaches s c cap off n need align k store true a ∧ locKind a = .scratch ∧ NoExtent s c cap

/-- The same of an unchecked buffer. -/
def ScratchPlain (s : State) (c : Ctx) (cap : RegNo) (off : Int) (n : Nat) (need : BitVec 4) (align : Nat) (k : AccKind) (store : Bool)
    (a : Nat) : Prop :=
  Reaches s c cap off n need align k store false a ∧ locKind a = .scratch ∧ NoExtent s c cap

/-- No store or atomic of another die to those n bytes is under way, nor a wide release of the issuing die (R183). -/
def NoBars (s : State) (a n : Nat) : Prop := ∀ r : Req, r.src = slotDie s.cur → r.loc = a → r.size = n → s.storeBars r = false

/-- It lies in DRAM, in a line that is in its home slice on the issuing die, of an unchecked buffer, with no other holder of the line and no
store to it under way, and it need not be performed late (R105). -/
def HomeAccess (s : State) (c : Ctx) (cap : RegNo) (off : Int) (n : Nat) (need : BitVec 4) (align : Nat) (k : AccKind) (store : Bool)
    (a : Nat) : Prop :=
  Reaches s c cap off n need align k store false a ∧ locKind a = .dram ∧ homeDie a = slotDie s.cur ∧ s.openTxn (lineOf a) = none ∧
  (tabFind (lineOf a) s.homeLines).isSome = true ∧ tabGet 0 s.presence (lineOf a) = 0 ∧ (s.core (coreKey s.cur)).l1d = [] ∧
  s.scrubPending a = false ∧ s.poisoned a = false ∧ s.poisoned (a + n - 1) = false ∧ s.late = false ∧
  s.Numbered ∧ NoBars s a n

/-- Of the context c a word has left all but the PC and the loop stack, VL and STRIP (the loop end test), RETIRED, REGIONNO, VFLAGS, the
dirty bits of its frame, its monitor, and its tag ta. -/
def CtxKept (ta : Nat) (c t : Ctx) : Prop :=
  t.bind = c.bind ∧ t.launch = c.launch ∧ t.wait = .none_ ∧ t.out = c.out ∧ (∀ r, t.getS r = c.getS r) ∧ (∀ r, t.getC r = c.getC r) ∧
  (∀ n, t.getM n = c.getM n) ∧ (∀ n, t.getV n = c.getV n) ∧ (∀ n, n ≠ ta → t.getTag n = c.getTag n) ∧ t.regs.shape = c.regs.shape ∧
  t.regs.arr = c.regs.arr ∧ t.regs.chans = c.regs.chans ∧ t.regs.deferred = c.regs.deferred ∧ t.regs.handler = c.regs.handler ∧
  t.regs.aside = c.regs.aside ∧ t.regs.csr = { c.regs.csr with
    vl := t.vl, strip := t.regs.csr.strip, vflags := t.regs.csr.vflags, retired := c.regs.csr.retired + 1, regionno := t.regs.csr.regionno }

/-- What an ordered access asks beside: a region number to go on to; for a release, no deferred fault, and earlier stores done. -/
def OrderOk (s : State) (c : Ctx) (b : FmtM) (load : Bool) : Prop :=
  (b.ord ≠ 0 → c.regs.csr.regionno ≠ 0xFFFF) ∧
  (load = false → b.ord = 3 → c.deliverTags.regs.deferred = none ∧ ({ s with ctx := c }).released b.scope.toNat = true)

/-- The region number after an access (R157). -/
def regionAfter (c : Ctx) (b : FmtM) : BitVec 16 := if b.ord = 0 then c.regs.csr.regionno else c.regs.csr.regionno + 1

/-- A load of n bytes completes: TA is pending with the bytes, zero-extended, for s[D]; memory is as it was (R396). -/
def LoadCompletes (mk : Hdr → FmtM → Instr) (op : BitVec 8) (n : Nat) (idx : Bool) : Prop :=
  ∀ h b s c a, Starts (issueM op h b (if idx then [b.x] else [])) s c → OrderOk s c b true → h.ta ≠ 0 →
    (ScratchAccess s c b.c (offM c b idx) n rRead (if b.ord = 0 then 1 else n) .read false a ∨
     HomeAccess s c b.c (offM c b idx) n rRead (if b.ord = 0 then 1 else n) .read false a) →
    Ends (mk h b) s fun t =>
      t.ctx.getTag h.ta.toNat = ⟨.pending, true, b.d, false, 0, BitVec.ofNat 64 (numOf (memBytes s.mem a n)), false, 0⟩ ∧
      SameBytes s t ∧ CtxKept h.ta.toNat (c.retag h.ta.toNat) t.ctx ∧ t.ctx.regs.csr.regionno = regionAfter c b ∧
      ∀ j, j ≠ s.cur → t.slot j = s.slot j

/-- A store of n bytes completes: the bytes hold the low bits of s[D], and every other byte reads as before (R437). -/
def StoreCompletes (mk : Hdr → FmtM → Instr) (op : BitVec 8) (n : Nat) (idx : Bool) : Prop :=
  ∀ h b s c a, Starts (issueM op h b (if idx then [b.d, b.x] else [b.d])) s c → OrderOk s c b false →
    (ScratchAccess s c b.c (offM c b idx) n rWrite (if b.ord = 0 then 1 else n) .write true a ∨
     HomeAccess s c b.c (offM c b idx) n rWrite (if b.ord = 0 then 1 else n) .write true a) →
    Ends (mk h b) s fun t =>
      numOf (memBytes t.mem a n) = (c.getS b.d).toNat % 2 ^ (8 * n) ∧ SameBytesBut a n s t ∧ CtxKept 0 c t.ctx ∧
      t.ctx.regs.csr.regionno = regionAfter c b

/-- An atomic access of n bytes completes, with the value that is written for an old value (none where it writes nothing), which reads its
operands once the earlier use of TA has been committed (R80): TA is pending with the old value (R356, R376). -/
def AtomicCompletes (mk : Hdr → FmtM → Instr) (op : BitVec 8) (n : Nat) (reads : FmtM → List RegNo)
    (maxAop : Nat) (f : FmtM → Ctx → Nat → Option Nat) : Prop :=
  ∀ h b s c a, b.aop.toNat ≤ maxAop → Starts (issueM op h b (reads b)) s c → OrderOk s c b false → h.ta ≠ 0 →
    (ScratchAccess s c b.c b.off.toInt n (rRead ||| rWrite ||| rSync) n .atomic true a ∨
     (HomeAccess s c b.c b.off.toInt n (rRead ||| rWrite ||| rSync) n .atomic true a ∧ b.far = 0)) →
    Ends (mk h b) s fun t => let old := numOf (memBytes s.mem a n)
      (match f b (c.afterAlloc h.ta.toNat) old with
       | some v => numOf (memBytes t.mem a n) = v ∧ SameBytesBut a n s t
       | none => SameBytes s t) ∧
      t.ctx.getTag h.ta.toNat = ⟨.pending, true, b.d, false, 0, BitVec.ofNat 64 old, false, 0⟩ ∧
      CtxKept h.ta.toNat (c.retag h.ta.toNat) t.ctx ∧ t.ctx.regs.csr.regionno = regionAfter c b

/-- AOP of Table 4-5: the value that AMO writes, on w-bit numbers. -/
def amoValue (w aop old op : Nat) : Nat :=
  let sgn := fun x : Nat => (BitVec.ofNat w x).toInt
  if aop = 0 then (old + op) % 2 ^ w else if aop = 1 then old &&& op else if aop = 2 then old ||| op else if aop = 3 then old ^^^ op
  else if aop = 4 then (if sgn old ≤ sgn op then old else op) else if aop = 5 then (if sgn old ≤ sgn op then op else old)
  else if aop = 6 then min old op else if aop = 7 then max old op else if aop = 8 then op
  else (fadd32 (BitVec.ofNat 32 old) (BitVec.ofNat 32 op)).toNat

/-- A vector load completes where every active element from VSTART to VL − 1 lies in the scratchpad: TA is pending, its landing slot holds
those elements and marks their positions, VSTART is 0; memory and v[VD] are as they were (R41, R115, R456). -/
def VLoadCompletes (mk : Hdr → FmtM → Instr) (op : BitVec 8) (reads : FmtM → List RegNo) (off : FmtM → Ctx → Nat → Nat → Int) : Prop :=
  ∀ h b s c (adr : Nat → Nat), Starts (issueMV op h b (reads b) .vprod) s c →
    let t := (c.getV b.d.toNat).ty; let w := t.width / 8
    let act := fun i => c.vstart ≤ i ∧ i < c.vl ∧ (c.getM b.mask.toNat).getLsbD i = true
    h.ta ≠ 0 → c.noSlot h.ta.toNat = false → (c.getTag h.ta.toNat).slot < 4 → t.isPlain = true → c.vl ≤ c.capacity t →
    (c.getC b.c).valid = true → rRead &&& ~~~(capRights (c.getC b.c).val) = 0 → c.out = [] →
    (∀ i, act i → ScratchAccess s c b.c (off b (c.afterAlloc h.ta.toNat) w i) w rRead w .read false (adr i)) →
    let u := c.landStart h.ta.toNat b.d t
    Ends (mk h b) s fun r =>
      r.ctx.getTag h.ta.toNat = { u.getTag h.ta.toNat with st := .pending } ∧ (u.getTag h.ta.toNat).dst = (if c.resumes h.ta.toNat then
        (c.getTag h.ta.toNat).dst else b.d) ∧
      (let l := r.ctx.getSlot (u.getTag h.ta.toNat).slot; let l0 := u.getSlot (u.getTag h.ta.toNat).slot
       (∀ i, act i → getBits l.data (i * t.width) t.width = numOf (memBytes s.mem (adr i) w) ∧ l.pos.getLsbD i = true) ∧
       (∀ i, i < 8192 → ¬ act i → getBits l.data (i * t.width) t.width = getBits l0.data (i * t.width) t.width ∧
         l.pos.getLsbD i = l0.pos.getLsbD i)) ∧
      (c.resumes h.ta.toNat = false → u.getSlot (u.getTag h.ta.toNat).slot = ⟨t, 0, 0, 0, 0⟩) ∧
      r.ctx.vstart = 0 ∧ SameBytes s r ∧ OnlyCtxExt s r ∧ (∀ n, r.ctx.getS n = u.getS n) ∧ (∀ n, r.ctx.getV n = u.getV n) ∧
      (∀ n, n ≠ h.ta.toNat → r.ctx.getTag n = u.getTag n)

/-- A vector store completes where every active element lies in the scratchpad: an element whose bytes no other active element shares
stands there, every byte outside the elements reads as before, and VSTART is 0 (R471). -/
def VStoreCompletes (mk : Hdr → FmtM → Instr) (op : BitVec 8) (reads : FmtM → List RegNo) (off : FmtM → Ctx → Nat → Nat → Int) : Prop :=
  ∀ h b s c (adr : Nat → Nat), Starts (issueMV op h b (reads b) .vstore) s c →
    let v := c.getV b.d.toNat; let w := v.ty.width / 8
    let act := fun i => c.vstart ≤ i ∧ i < c.vl ∧ (c.getM b.mask.toNat).getLsbD i = true
    v.ty.isPlain = true → c.vl ≤ c.capacity v.ty → c.heldMeets b.d.toNat 1 = false →
    (c.getC b.c).valid = true → rWrite &&& ~~~(capRights (c.getC b.c).val) = 0 →
    (∀ i, act i → ScratchAccess s c b.c (off b c w i) w rWrite w .write true (adr i)) →
    Ends (mk h b) s fun r =>
      (∀ i, act i → (∀ j, act j → j ≠ i → adr j + w ≤ adr i ∨ adr i + w ≤ adr j) →
        numOf (memBytes r.mem (adr i) w) = v.elem v.ty.width i) ∧
      (∀ x, (∀ i, act i → x < adr i ∨ adr i + w ≤ x) → memGet r.mem x = memGet s.mem x) ∧
      r.ctx.vstart = 0 ∧ (∀ n, r.ctx.getS n = c.getS n) ∧ (∀ n, r.ctx.getV n = c.getV n) ∧ (∀ n, r.ctx.getTag n = c.getTag n)

/-- The binding record at the 64 scratchpad bytes from a, that a stream word names and no copy holds back (R445). -/
def RecordAt (s : State) (c : Ctx) (cap : RegNo) (off : Int) (need : BitVec 4) (k : AccKind) (store : Bool) (a : Nat) : Prop :=
  (∃ w en, ({ s with ctx := c }).access c cap off 64 need 64 k = .ok (w, en, countFrom a 64) ∧ en.ty = .scratch ∧
    (({ s with ctx := c }).entryFor (.member c.launch.uid) w.buf).ty = .scratch) ∧
  locKind a = .scratch ∧ a % 64 = 0 ∧ c.copyWait (scratchOff a) 64 store = false ∧
  c.blocks ⟨a, 64, true, store, true, false, false⟩ = false

/-- A record whose RSV bits are zero, by its fields (Table 23-4). -/
def recordNat (payc scalc tag bound pos spos : Nat) : Nat :=
  payc * 2 ^ 60 + scalc * 2 ^ 56 + tag * 2 ^ 52 + bound + pos * 2 ^ 64 + spos * 2 ^ 128

/-- A capability register is valid and has the rights of an access. -/
def CapReady (c : Ctx) (n : Nat) (need : BitVec 4) : Prop :=
  (c.getC (BitVec.ofNat 6 n)).valid = true ∧ need &&& ~~~(capRights (c.getC (BitVec.ofNat 6 n)).val) = 0

/-! ### Barriers -/

/-- A barrier word's window passes R361 and the check of the object's home (R240), and names the object at loc; no earlier access of the
context that is still to be performed comes before the word's own, an acquire or a release (R116, R148). -/
def ObjectAt (s : State) (c : Ctx) (b : FmtY) (loc : Nat) (acq rel : Bool) : Prop :=
  (∃ w en, ({ s with ctx := c }).access c b.a b.imm.toNat 16 rSync 16 .sync = .ok (w, en, countFrom loc 16) ∧
    (en.ty = .scratch ∨ en.ty = .dieScratch) ∧ ({ s with ctx := c }).homeBar c w 16 rSync .sync [loc] = none) ∧
  (locKind loc = .scratch ∨ locKind loc = .dieScratch) ∧ (let alone := ({ s with ctx := c }).reachesNone b.scope.toNat
    c.blocks (objInfo loc (acq && !alone) (rel && !alone)) = false)

/-- No deferred fault is to be delivered, and the stores that a release at a scope waits for are done (R147, R197). -/
def Released (s : State) (c : Ctx) (scope : BitVec 3) : Prop :=
  c.deliverTags.regs.deferred = none ∧ ({ s with ctx := c }).released scope.toNat = true

/-- No copy fault of the context names the object (R216). -/
def NoCopyFault (c : Ctx) (loc : Nat) : Prop := ∀ ch f, ch < 4 → (c.chan ch).fault = some f → f.bar ≠ loc

/-- The word at the PC has begun and waits. -/
def Waits (s : State) (w : Wait) : Prop := s.ctx.runs = true ∧ s.ctx.wait = w

/-! ### Vector words -/

/-- An exact integer result as an element of w bits: clamped with SAT, and else modulo 2^w (R55). -/
def intElem (w : Nat) (sat : Bool) (r : Int) : Nat :=
  ((if sat then max (-(2 : Int) ^ (w - 1)) (min ((2 : Int) ^ (w - 1) - 1) r) else r) % (2 : Int) ^ w).toNat

/-- A two-operand vector word completes: where VA's tag is admitted, VB's is the same (a register form), and VL elements fit, the elements
from VSTART to VL − 1 are written: an integer one as int of its width, SAT and the two signed values, a float one as fl of the two exact
values, rounded (R97, R98, R443). -/
def CompletesV2 (mk : Hdr → FmtV → Instr) (op : BitVec 8) (vs : Bool) (ok : Ety → Bool) (fl : Rounding → Exact → Exact → Exact × Flags)
    (int : Nat → Bool → Int → Int → Nat) : Prop :=
  ∀ h b s c, Starts (issueV op h b (if vs then [b.vb] else []) 0 (if vs then [b.vd, b.va] else [b.vd, b.va, b.vb]) .lane) s c →
    let t := (c.getV b.va.toNat).ty
    ok t = true → (vs = false → (c.getV b.vb.toNat).ty = t) → c.vl ≤ c.capacity t →
    exec (mk h b) s = .next (s.retired 0 (c.laneWrite b t fun i =>
      let x := laneX b c t i
      let y := laneY vs b c t i
      if t.isInt then (int t.width (b.sat == 1) (sintOf t.width x) (sintOf t.width y), 0)
      else laneRound b t (fl (Rounding.ofRM b.rm) (laneF b t x) (laneF b t y))))

/-- A vector word on bits alone completes. -/
def CompletesVBits (mk : Hdr → FmtV → Instr) (op : BitVec 8) (vs : Bool) (f : Nat → Nat → Nat) : Prop :=
  ∀ h b s c, Starts (issueV op h b (if vs then [b.vb] else []) 0 (if vs then [b.vd, b.va] else [b.vd, b.va, b.vb]) .lane) s c →
    let t := (c.getV b.va.toNat).ty
    t.isPlain = true → (vs = false → (c.getV b.vb.toNat).ty = t) → c.vl ≤ c.capacity t →
    exec (mk h b) s = .next (s.retired 0 (c.laneWrite b t fun i => (f (laneX b c t i) (laneY vs b c t i), 0)))

/-- A fused vector word completes (R452). -/
def CompletesV3 (mk : Hdr → FmtV → Instr) (op : BitVec 8) (vs : Bool) (fl : Rounding → Exact → Exact → Exact → Exact × Flags)
    (int : Int → Int → Int → Int) : Prop :=
  ∀ h b s c, Starts (issueV op h b (if vs then [b.vb] else []) 0 (if vs then [b.vd, b.va, b.vc] else [b.vd, b.va, b.vb, b.vc]) .lane) s c →
    let t := (c.getV b.va.toNat).ty
    t.isPlain = true → (vs = false → (c.getV b.vb.toNat).ty = t) → (c.getV b.vc.toNat).ty = t → c.vl ≤ c.capacity t →
    exec (mk h b) s = .next (s.retired 0 (c.laneWrite b t fun i =>
      let x := laneX b c t i
      let y := laneY vs b c t i
      let z := laneZ b c t i
      if t.isInt then (intElem t.width (b.sat == 1) (int (sintOf t.width x) (sintOf t.width y) (sintOf t.width z)), 0)
      else laneRound b t (fl (Rounding.ofRM b.rm) (laneF b t x) (laneF b t y) (laneF b t z))))

/-- A one-operand vector word completes. -/
def CompletesV1 (mk : Hdr → FmtV → Instr) (op : BitVec 8) (ok : Ety → Bool) (f : FmtV → Ety → Nat → Nat × Flags) : Prop :=
  ∀ h b s c, Starts (issueV op h b [] 0 [b.vd, b.va] .lane) s c → let t := (c.getV b.va.toNat).ty
    ok t = true → c.vl ≤ c.capacity t → exec (mk h b) s = .next (s.retired 0 (c.laneWrite b t fun i => f b t (laneX b c t i)))

/-- A word that writes v[VD] and may raise flags leaves every other register of the context as it was. -/
def OnlyV (n : Nat) (c t : Ctx) : Prop :=
  t = { c with regs := { c.regs with
    v := t.regs.v, dirty := t.regs.dirty, csr := { c.regs.csr with vstart := t.vstart, vflags := t.regs.csr.vflags } } } ∧
  ∀ m, m ≠ n → t.getV m = c.getV m

end Sys2Proof.Machine
end

