-- ==== Sys2Proof/Certificates/Slice0/Obligations.lean ====
section
/-! DEFINITION. Certificates/Slice0/Obligations.lean: the statements about the model, in the order of OBLIGATIONS.json. Terms that several
of them share stand in Safety.lean. -/

open Sys2Proof Sys2Proof.Machine

/-! ### Words and their bits (04) -/

/-- Words written out in the reference entries decode to the instructions that they stand for. -/
def Obligations.WordsDecode : Prop :=
  decodeWord 0x20402030828000000000 = .ok (.add ⟨2, 0, 1, 0⟩ ⟨6, 4, 5, 0, 0, 0⟩) ∧
  decodeWord 0x2D0000188000FFFFFFFF = .ok (.xorI ⟨0, 0, 0, 0⟩ ⟨3, 4, 0, 0, 0xFFFFFFFF⟩) ∧
  decodeWord 0x470000486000B8000040 = .ok (.stD ⟨0, 0, 0, 0⟩ ⟨9, 3, 0, 0, 2, 3, 1, 0, 0, 0, 0x40⟩) ∧
  decodeWord 0xB3000018210000300000 = .ok (.mop ⟨0, 0, 0, 0⟩ ⟨3, 1, 2, 0, 0, 0, 0, 0, 0, 0, 3, 0⟩) ∧
  decodeWord 0x00000000000000000000 = .ok (.illegalOp 0) ∧
  decodeWord 0x430000486000B8000040 = .error .illegalEnc

/-- Decoding undoes encoding, for every well-formed word and every value of its operands, and leaves the bytes after it. -/
def Obligations.DecodeEncode : Prop :=
  ∀ (i : Instr) (w : IWord) (l : List Byte), i.isWord = true → i.wf = true → encode i = some w →
    decodeWord w = .ok i ∧ decode (bytesOfWord w ++ l) = .ok (i, l)

/-- Encoding undoes decoding: a word that decodes is the one encoding of a well-formed word form, so no bit of it is ignored. -/
def Obligations.EncodeDecode : Prop :=
  ∀ (w : IWord) (i : Instr), decodeWord w = .ok i → i.isWord = true ∧ i.wf = true ∧ encode i = some w

/-- Every 80-bit value meets one fate of Table 4-14 or is an assigned word: an unassigned opcode decides by itself, and only an assigned
one can be ILLEGAL_ENC. -/
def Obligations.FatesOfWords : Prop :=
  ∀ (w : IWord), let op := (w.extractLsb' 72 8).toNat
    ((op = 0x00 ∨ 0xF0 ≤ op) → decodeWord w = .ok (.illegalOp w)) ∧
    ((0xE0 ≤ op ∧ op ≤ 0xEF) → decodeWord w = .ok (.emulWindow w)) ∧
    ((op = 0x1E ∨ op = 0x1F ∨ op = 0x3F ∨ (0x5C ≤ op ∧ op ≤ 0x5F) ∨ (0x71 ≤ op ∧ op ≤ 0x7F) ∨ op = 0xBE ∨ op = 0xBF ∨
      (0xC9 ≤ op ∧ op ≤ 0xDF)) → decodeWord w = .ok (.undefOp w)) ∧
    (decodeWord w = .error .illegalEnc → ∃ i, parseAssigned w = some i ∧ i.wf = false)

/-! ### The machine as a whole -/

/-- What cold reset leaves, where the spec gives the value (Tables 2-5a to 2-7, 12-1, 13-4, 15-8, 15-10, 19-5). -/
def Obligations.ResetValues : Prop :=
  let s := State.reset
  s.ctx.bind.st = .free ∧ s.others = [] ∧ s.mem = [] ∧ s.pkg.btcount = 0 ∧ s.pkg.quantum = 8500000 ∧ s.pkg.watts = 3200 ∧
  s.pkg.vfEn = 0 ∧ s.pkg.frozen = false ∧
  (∀ d, d < 8 → (s.die d).waysplit = 0 ∧ (s.die d).step16 = 16 ∧
    ∀ v, v < 64 → (s.die d).l2waymask[v]? = some 0xFFFF) ∧
  Csrs.zero.clampb = 0x7F7FFFFF ∧ Csrs.zero.acktimeout = 8 ∧ Csrs.zero.vl = 0 ∧ Csrs.zero.vflags = 0

/-- Reset memory has the canonical form, and no request is outstanding. -/
def Obligations.ResetMemOk : Prop := State.reset.MemOk ∧ State.reset.Numbered

/-- Every step keeps memory in its canonical form, from any state, and the numbers of the requests to homes and to base dies below the next one. -/
def Obligations.StepKeepsMemOk : Prop :=
  (∀ s t : State, s.MemOk → step s = .next t → t.MemOk) ∧ ∀ s t : State, s.Numbered → step s = .next t → t.Numbered

/-- When the agenda's head lets slot k issue, a step of a machine that is not frozen fetches and decodes the word at the PC of slot k and is
exec of it, once the fetch has filled the core's instruction cache (R320), which changes of a slot no more than its monitor (R172), and nothing at
all where the cache holds the word's line and the next one; and then time passes, which changes neither memory nor any register. The fetch meets
no poisoned byte (R346) and waits for no line. -/
def Obligations.StepRunsDecoded : Prop :=
  ∀ (s : State) (k : Nat) (l : List Move) (w : IWord) (i : Instr) (t : State),
    s.pkg.frozen = false → s.freezeDue = false → s.agenda = .issue k :: l →
    let u := ({ s with agenda := l }).focus k
    u.ctx.runs = true → u.ctx.wdDue = false → u.fetchPoison = none → u.fetchHeld = false → u.fetch = .ok w → decodeWord w = .ok i →
    exec i u.fillCode = .next t → let n := u.ctx.regs.pc / 16 + 1
    step s = .next t.advance ∧ (∀ j, u.fillCode.slot j = { u.slot j with mon := (u.fillCode.slot j).mon }) ∧
    (u.fetchHit.isSome = true → (∃ x, u.codeLine n = some x ∧ u.lineStays n x = true) ∨ (u.codeLine n = none ∧ u.readLine n = none) →
      u.fillCode = u) ∧
    t.advance.mem = t.mem ∧ t.advance.pkg = t.pkg ∧ ∀ j, (t.advance.slot j).regs = (t.slot j).regs

/-- No instruction word, whatever it does, writes a register of the package, of a queue or of a die that only Basecamp writes, or POOLB0-2 of a
core. PARTLOG, ROWSTAT and the STATE of a bind record are not among them: the machine itself changes those. -/
def Obligations.WordsKeepPrivileged : Prop :=
  ∀ (i : Instr) (s t : State), i.isWord = true → exec i s = .next t →
    t.pkg = s.pkg ∧ t.queues = s.queues ∧
    (∀ d, (t.die d).pitchcfg = (s.die d).pitchcfg ∧ (t.die d).waysplit = (s.die d).waysplit ∧ (t.die d).partmap = (s.die d).partmap ∧
      (t.die d).l2waymask = (s.die d).l2waymask ∧ (t.die d).rowact = (s.die d).rowact ∧ (t.die d).trainstat = (s.die d).trainstat) ∧
    ∀ k, (t.core k).poolb0 = (s.core k).poolb0 ∧ (t.core k).poolb1 = (s.core k).poolb1 ∧ (t.core k).poolb2 = (s.core k).poolb2

/-- s0 reads as zero and discards every write; m0 reads as all ones; any other register returns what was written and no other register
changes. A word that names m0 as a destination is not well-formed. -/
def Obligations.HardWiredRegisters : Prop :=
  ∀ (c : Ctx) (v : Word) (x : BitVec 8192),
    c.getS 0 = 0 ∧ c.setS 0 v = c ∧ c.getM 0 = BitVec.allOnes 8192 ∧
    (∀ n : RegNo, n ≠ 0 → n.toNat < 32 → (c.setS n v).getS n = v ∧ ∀ r, r ≠ n → (c.setS n v).getS r = c.getS r) ∧
    (∀ n, 0 < n → n < 8 → (c.setM n x).getM n = x ∧ ∀ r, r ≠ n → (c.setM n x).getM r = c.getM r) ∧
    (∀ h b, (Instr.vcmp h b).wf = true → b.vd ≠ 0) ∧ (∀ h b, (Instr.vcmpVs h b).wf = true → b.vd ≠ 0) ∧
    (∀ h b, (Instr.mop h b).wf = true → b.vd ≠ 0)

/-! ### Issue, retirement and traps (04, 06, 16) -/

/-- A retirement leaves everything of the context but the PC, the loop stack, VL and STRIP, RETIRED and the producer history. -/
def Obligations.RetirementFrame : Prop :=
  ∀ (s : State) (d : RegNo) (c : Ctx), let t := s.retired d c
    OnlyCtx s t ∧ t.ctx = { c with regs := t.ctx.regs, hist := t.ctx.hist, wait := .none_ } ∧
    t.ctx.hist = ((if d = 0 then none else some d) :: c.hist).take 7 ∧
    t.ctx.regs.csr.retired = c.regs.csr.retired + 1 ∧
    t.ctx.regs = { c.regs with
      pc := t.ctx.regs.pc, loops := t.ctx.regs.loops,
      csr := { c.regs.csr with vl := t.ctx.vl, strip := t.ctx.regs.csr.strip, retired := t.ctx.regs.csr.retired } } ∧
    (c.regs.loops.all (fun e => !e.sloop) = true → t.ctx.vl = c.vl ∧ t.ctx.regs.csr.strip = c.regs.csr.strip)

/-- R109: a word that retires without a taken transfer makes the end test at its PC; and that test, one iteration at a time. -/
def Obligations.LoopEndTest : Prop :=
  (∀ (w : Issue) (s : State), Host.Outcome.next (s.retired w.dst s.ctx) = finish w (.done s) ∧
    s.retired w.dst s.ctx = { s with ctx := (s.ctx.retire w.dst).endTest 5 s.ctx.regs.pc }) ∧
  ∀ (c : Ctx) (pc : Nat), c.regs.loops.length ≤ 4 → let t := c.endTest 5 pc
    ((∀ e l, c.regs.loops = e :: l → e.fin ≠ pc) → t = c.upd fun r => { r with pc := pc + 1 }) ∧
    (∀ e l, c.regs.loops = e :: l → e.fin = pc → e.sloop = false → 0 < e.rem - 1 →
      t = c.upd fun r => { r with loops := { e with rem := e.rem - 1 } :: l, pc := e.start }) ∧
    (∀ e l, c.regs.loops = e :: l → e.fin = pc → e.sloop = true → 0 < e.rem - e.len →
      t = (c.upd fun r => { r with
          loops := { e with rem := e.rem - e.len, len := min (e.rem - e.len) e.vlmax, strip := e.strip + 1 } :: l, pc := e.start }).updCsr
        fun r => { r with vl := min (e.rem - e.len) e.vlmax, strip := BitVec.ofNat 64 (e.strip + 1) }) ∧
    (∀ e l, c.regs.loops = e :: l → e.fin = pc → (if e.sloop then e.rem - e.len else e.rem - 1) = 0 →
      let p := c.upd fun r => { r with loops := l }
      ((∀ x, x ∈ l → x.sloop = false) → t = p.endTest 5 pc) ∧
      (∀ a x b, l = a ++ x :: b → (∀ y, y ∈ a → y.sloop = false) → x.sloop = true →
        t = (p.updCsr fun r => { r with vl := x.len, strip := BitVec.ofNat 64 x.strip }).endTest 5 pc))

/-- R77: a word whose PD is below the distance of the nearest writer of a register that it reads raises PD_FAULT; it reads, commits and
allocates nothing. PD at least the distance of the nearest writer of each raises none. -/
def Obligations.ProducerDistance : Prop :=
  ∀ (w : Issue) (body : State → WR State) (s : State), s.ctx.runs = true → s.ctx.wait = .none_ → tagCheck s.ctx w.hdr = none →
    ((∃ r, r ∈ w.reads ∧ r ≠ 0 ∧ ∃ i, i < 7 ∧ s.ctx.hist[i]? = some (some r) ∧ (∀ j, j < i → s.ctx.hist[j]? ≠ some (some r)) ∧
        w.hdr.pd.toNat < i + 1) →
      ∃ i0, runWord w body s = .next (s.trapped .pdFault i0 0 s.ctx)) ∧
    ((∀ r, r ∈ w.reads → r ≠ 0 → ∀ i, i < 7 → s.ctx.hist[i]? = some (some r) → (∀ j, j < i → s.ctx.hist[j]? ≠ some (some r)) →
        i + 1 ≤ w.hdr.pd.toNat) →
      ∀ x, issueCheck w s.ctx = some x → x.1 = .noVstate ∨ x.1 = .type_)

/-- Taking a trap (R315): the handler that takes it, what the delivery writes, and what it leaves; or the task fault. The mark of a BARSYNC or HBAR
that waits is set aside with the loop stack (R366). That a task fault writes the four trap registers too is the model's reading (log 21). -/
def Obligations.TrapDelivery : Prop :=
  ∀ (c : Ctx) (cause : Cause) (i0 i1 : Word), c.regs.handler = .none_ → let t := c.takeTrap cause i0 i1
    let emul := cause = .undefOp ∨ cause = .emulWindow
    let goes := fun (h : Handler) (w : BitVec 32) =>
      t.regs = { c.regs with
        csr := { c.regs.csr with
          trapcause := BitVec.ofNat 8 cause.code, trappc := BitVec.ofNat 32 c.regs.pc, trapinfo0 := i0, trapinfo1 := i1 },
        aside := c.regs.loops, loops := [], handler := h, pc := w.toNat, asideP := (c.regs.barsyncP, c.regs.hbarP), barsyncP := none,
        hbarP := none } ∧ t.hist = [] ∧ t.bind = c.bind ∧ t.mon = c.mon
    let faults := t.bind.st = .faulted ∧ t.faultRec = some (cause, c.regs.pc, i0) ∧ t.regs = { c.regs with csr := { c.regs.csr with
      trapcause := BitVec.ofNat 8 cause.code, trappc := BitVec.ofNat 32 c.regs.pc, trapinfo0 := i0, trapinfo1 := i1 } }
    (∀ w, emul → c.launch.emulBase = some w → goes .emulation w) ∧
    (emul → c.launch.emulBase = none → faults) ∧
    (cause = .emulNested → faults) ∧
    (∀ w, ¬ emul → cause ≠ .emulNested → c.launch.trapBase = some w → c.launch.policy.getLsbD cause.code = true → goes .trap w) ∧
    (¬ emul → cause ≠ .emulNested → c.launch.trapBase = none ∨ c.launch.policy.getLsbD cause.code = false → faults)

/-- R317: inside a handler every cause faults the task, and an unassigned opcode inside the emulation handler is EMUL_NESTED. The trap
registers are written by the model's reading (log 21). -/
def Obligations.NestedTraps : Prop :=
  ∀ (c : Ctx) (cause : Cause) (i0 i1 : Word), c.regs.handler ≠ .none_ → let t := c.takeTrap cause i0 i1
    let k := if c.regs.handler = .emulation ∧ (cause = .undefOp ∨ cause = .emulWindow) then .emulNested else cause
    t.bind.st = .faulted ∧ t.faultRec = some (k, c.regs.pc, i0) ∧ t.regs = { c.regs with csr := { c.regs.csr with
      trapcause := BitVec.ofNat 8 k.code, trappc := BitVec.ofNat 32 c.regs.pc, trapinfo0 := i0, trapinfo1 := i1 } }

/-- R316: TRET. A BARSYNC or HBAR that it returns to has its mark again (R366). -/
def Obligations.TrapReturn : Prop :=
  (∀ h b, (Instr.tret h b).wf = true → b = ⟨0, 0, 0, 0, 0, 0, 0⟩) ∧
  ∀ h b s c, Starts (issueY 0x10 h b [] 0) s c →
    (c.regs.handler ≠ .none_ → Ends (.tret h b) s fun t =>
      OnlyCtx s t ∧ t.ctx.regs = { c.regs with
        pc := c.regs.csr.trappc.toNat, loops := c.regs.aside, aside := [], handler := .none_, asideP := (none, none),
        barsyncP := markAt c.regs.asideP.1 c.regs.csr.trappc.toNat, hbarP := markAt c.regs.asideP.2 c.regs.csr.trappc.toNat,
        csr := { c.regs.csr with retired := c.regs.csr.retired + 1 } } ∧
      (∀ r, writerDist t.ctx.hist r = 0) ∧
      (c.launch.nativeLen ≤ c.regs.csr.trappc.toNat →
        t.fetch = .error (.trap ⟨.capBounds, BitVec.ofNat 64 c.regs.csr.trappc.toNat, 0⟩))) ∧
    (c.regs.handler = .none_ →
      exec (.tret h b) s = .next (s.trapped .modeErr (wInfo0 (packY 0x10 h b)) (wInfo1 (packY 0x10 h b) .modeErr c.vstart) c))

/-! ### Scalar words (20, 21, 22) -/

/-- R352, R360, R389, R404, R417, R421, R426, R429, R433, R440, R477: the register forms, each with its result as arithmetic on
numbers. x and y are s[A] and s[B]. -/
def Obligations.ScalarRegisterWords : Prop :=
  CompletesA .add 0x20 (two fun x y => BitVec.ofNat 64 (x.toNat + y.toNat)) ∧
  CompletesA .sub 0x22 (two fun x y => BitVec.ofInt 64 (x.toInt - y.toInt)) ∧
  CompletesA .mul 0x23 (two fun x y => BitVec.ofNat 64 (x.toNat * y.toNat)) ∧
  CompletesA .mulh 0x25 (two fun x y => BitVec.ofInt 64 (x.toInt * y.toInt / 2 ^ 64)) ∧
  CompletesA .div 0x26 (two fun x y => if y = 0 then 0xFFFFFFFFFFFFFFFF else BitVec.ofInt 64 (x.toInt.tdiv y.toInt)) ∧
  CompletesA .rem 0x27 (two fun x y => if y = 0 then x else BitVec.ofInt 64 (x.toInt.tmod y.toInt)) ∧
  CompletesA .and 0x28 (two fun x y => x &&& y) ∧ CompletesA .or 0x2A (two fun x y => x ||| y) ∧
  CompletesA .xor 0x2C (two fun x y => x ^^^ y) ∧
  CompletesA .shl 0x2E (two fun x y => BitVec.ofNat 64 (x.toNat * 2 ^ (y.toNat % 64))) ∧
  CompletesA .shr 0x30 (two fun x y => BitVec.ofNat 64 (x.toNat / 2 ^ (y.toNat % 64))) ∧
  CompletesA .sar 0x32 (two fun x y => BitVec.ofInt 64 (x.toInt / 2 ^ (y.toNat % 64))) ∧
  CompletesA .min 0x3B (two fun x y => BitVec.ofInt 64 (min x.toInt y.toInt)) ∧
  CompletesA .max 0x3C (two fun x y => BitVec.ofInt 64 (max x.toInt y.toInt)) ∧
  CompletesA .rotl 0x3D (two fun x y => BitVec.ofNat 64
    (x.toNat * 2 ^ (y.toNat % 64) % 2 ^ 64 + x.toNat / 2 ^ (64 - y.toNat % 64))) ∧
  CompletesA .rotr 0x3E (two fun x y => BitVec.ofNat 64
    (x.toNat / 2 ^ (y.toNat % 64) + x.toNat * 2 ^ (64 - y.toNat % 64) % 2 ^ 64))

/-- R87 and the entries of ScalarRegisterWords: the immediate forms, and R400's LI and LIH. x is s[A], y is sext(IMM32). -/
def Obligations.ScalarImmediateWords : Prop :=
  CompletesB .addI 0x21 (twoI fun x y => BitVec.ofInt 64 (x.toInt + y.toInt)) ∧
  CompletesB .mulI 0x24 (twoI fun x y => BitVec.ofInt 64 (x.toInt * y.toInt)) ∧
  CompletesB .andI 0x29 (twoI fun x y => x &&& y) ∧ CompletesB .orI 0x2B (twoI fun x y => x ||| y) ∧
  CompletesB .xorI 0x2D (twoI fun x y => x ^^^ y) ∧
  CompletesB .shlI 0x2F (fun b c => BitVec.ofNat 64 ((c.getS b.a).toNat * 2 ^ (b.imm.toNat % 64))) ∧
  CompletesB .shrI 0x31 (fun b c => BitVec.ofNat 64 ((c.getS b.a).toNat / 2 ^ (b.imm.toNat % 64))) ∧
  CompletesB .sarI 0x33 (fun b c => BitVec.ofInt 64 ((c.getS b.a).toInt / 2 ^ (b.imm.toNat % 64))) ∧
  (∀ h b s c, Starts (issueK 0x37 h b) s c →
    exec (.li h b) s = .next (s.retired b.d (c.setS b.d (BitVec.ofInt 64 b.imm.toInt)))) ∧
  (∀ h b s c, Starts (issueK 0x38 h b) s c →
    exec (.lih h b) s = .next (s.retired b.d (c.setS b.d
      (BitVec.ofNat 64 (b.imm.toNat % 2 ^ 16 * 2 ^ 48 + (c.getS b.d).toNat % 2 ^ 48)))))

/-- R370, R379, R380, R423: CMP and CMP.i with their six conditions, signed and unsigned; CLZ gives the number of zero bits above the highest
1, and POPC the number of 1 bits. -/
def Obligations.CompareAndCountWords : Prop :=
  (
    let holds := fun (cond : Nat) (x y : Word) =>
      (cond = 0 ∧ x.toNat = y.toNat) ∨ (cond = 1 ∧ x.toNat ≠ y.toNat) ∨ (cond = 2 ∧ x.toInt < y.toInt) ∨
      (cond = 3 ∧ y.toInt ≤ x.toInt) ∨ (cond = 4 ∧ x.toNat < y.toNat) ∨ (cond = 5 ∧ y.toNat ≤ x.toNat)
    (∀ h b s c, Starts (issueA 0x34 h b) s c → b.cond.toNat ≤ 5 → ∃ v : Word,
      exec (.cmp h b) s = .next (s.retired b.d (c.setS b.d v)) ∧
      (holds b.cond.toNat (c.getS b.a) (c.getS b.b) → v = 1) ∧ (¬ holds b.cond.toNat (c.getS b.a) (c.getS b.b) → v = 0)) ∧
    (∀ h b s c, Starts (issueB 0x35 h b) s c → b.cond.toNat ≤ 5 → ∃ v : Word,
      exec (.cmpI h b) s = .next (s.retired b.d (c.setS b.d v)) ∧
      (holds b.cond.toNat (c.getS b.a) (b.imm.signExtend 64) → v = 1) ∧
      (¬ holds b.cond.toNat (c.getS b.a) (b.imm.signExtend 64) → v = 0)) ∧
    (∀ h b, (Instr.cmp h b).wf = true → b.cond.toNat ≤ 5) ∧ (∀ h b, (Instr.cmpI h b).wf = true → b.cond.toNat ≤ 5)) ∧
  ((∀ h b s c, Starts (issueA 0x39 h b) s c → ∃ n : Nat, n ≤ 64 ∧
      exec (.clz h b) s = .next (s.retired b.d (c.setS b.d (BitVec.ofNat 64 n))) ∧
      (∀ i, 64 - n ≤ i → (c.getS b.a).getLsbD i = false) ∧ (n < 64 → (c.getS b.a).getLsbD (63 - n) = true)) ∧
    (∀ h b s c, Starts (issueA 0x3A h b) s c →
      exec (.popc h b) s = .next (s.retired b.d (c.setS b.d
        (BitVec.ofNat 64 ((List.range 64).filter fun i => (c.getS b.a).getLsbD i).length)))))

/-- R430: SEL: its form, its effect and the encoding of its example. -/
def Obligations.Select : Prop :=
  decodeWord 0x36000018828C00000000 = .ok (.sel ⟨0, 0, 0, 0⟩ ⟨3, 4, 5, 6, 0, 0⟩) ∧
  bytesOfWord 0x36000018828C00000000 = [0x00, 0x00, 0x00, 0x00, 0x8C, 0x82, 0x18, 0x00, 0x00, 0x36] ∧
  (∀ h b, (Instr.sel h b).wf = true → b.cond = 0) ∧
  (∀ h b, b.e ∈ (issueA 0x36 h b).reads) ∧
  ∀ h b s c, Starts (issueA 0x36 h b) s c →
    (c.getS b.e ≠ 0 → exec (.sel h b) s = .next (s.retired b.d (c.setS b.d (c.getS b.a)))) ∧
    (c.getS b.e = 0 → exec (.sel h b) s = .next (s.retired b.d (c.setS b.d (c.getS b.b))))

/-- R31, R76, R105: a scalar word that gives a next state leaves unchanged every s register but D and those that a consumed scalar tag
names; every capability and mask register; every vector register but those that a consumed vector tag names; the shape, the array, of which
a drain may end, the channels, the deferred-fault record, the monitor; and all of memory. Unless it raises a cause, it also leaves the bind
record, the handler and trap registers and every CSR but RETIRED, VL and STRIP (the loop end test) and VFLAGS (an SFN's flags that arrive).
A word that waits for the result of a tag changes nothing. -/
def Obligations.ScalarFrame : Prop :=
  ∀ (i : Instr) (h : Hdr) (d : RegNo) (s t : State), scalarDst i = some (h, d) → s.ctx.wait = .none_ → exec i s = .next t →
    let hit := fun (v : Bool) (n : Nat) => ∃ q, (q = h.tc0 ∨ q = h.tc1) ∧ q ≠ 0 ∧ (s.ctx.getTag q.toNat).vec = v ∧
      (s.ctx.getTag q.toNat).dst.toNat = n
    OnlyCtx s t ∧ SameBytes s t ∧ t.ctx.launch = s.ctx.launch ∧ t.ctx.mon = s.ctx.mon ∧
    (∀ r : RegNo, r ≠ d → ¬ hit false r.toNat → t.ctx.getS r = s.ctx.getS r) ∧
    (∀ r, t.ctx.getC r = s.ctx.getC r) ∧ (∀ n, t.ctx.getM n = s.ctx.getM n) ∧
    (∀ n, ¬ hit true n → t.ctx.getV n = s.ctx.getV n) ∧
    t.ctx.regs.shape = s.ctx.regs.shape ∧ t.ctx.regs.chans = s.ctx.regs.chans ∧
    t.ctx.regs.deferred = s.ctx.regs.deferred ∧
    t.ctx.regs.arr = { s.ctx.regs.arr with draining := t.ctx.regs.arr.draining } ∧
    (t.ctx.regs.arr.draining = s.ctx.regs.arr.draining ∨ t.ctx.regs.arr.draining = none) ∧
    ((t = s ∧ s.ctx.waitsTags h = true) ∨ (∃ cause i0 i1 c, t = s.trapped cause i0 i1 c) ∨
     (t.ctx.bind = s.ctx.bind ∧ t.ctx.regs.handler = s.ctx.regs.handler ∧ t.ctx.regs.aside = s.ctx.regs.aside ∧
      t.ctx.regs.csr = { s.ctx.regs.csr with
        vl := t.ctx.vl, strip := t.ctx.regs.csr.strip, vflags := t.ctx.regs.csr.vflags, retired := s.ctx.regs.csr.retired + 1 } ∧
      (s.ctx.regs.loops.all (fun e => !e.sloop) = true → t.ctx.vl = s.ctx.vl ∧ t.ctx.regs.csr.strip = s.ctx.regs.csr.strip) ∧
      ((∀ q, q = h.tc0 ∨ q = h.tc1 → q ≠ 0 → (s.ctx.getTag q.toNat).sfn = false) →
        t.ctx.regs.csr.vflags = s.ctx.regs.csr.vflags)))

/-! ### Transfers, loops and the other control words (04, 06, 20 to 22) -/

/-- R73, R370, R372, R374, R393, R427: the transfers: each that is taken goes to its target, or raises CAP_BOUNDS before it changes the
PC or s31; a conditional one whose condition fails goes on in sequence. A PC at the end of the code raises CAP_BOUNDS. -/
def Obligations.Transfers : Prop :=
  (
    let rel := fun (b : FmtJ) (c : Ctx) => (c.regs.pc : Int) + b.off.toInt
    let low := fun (r : RegNo) (c : Ctx) => (((c.getS r).toNat % 2 ^ 32 : Nat) : Int)
    let link := fun c : Ctx => c.setS 31 (BitVec.ofNat 64 (c.regs.pc + 1))
    CompletesJ .jmp (fun h b => issueJ 0x03 h b [] 0) true rel id ∧
    CompletesJ .jmpR (fun h b => issueJ 0x04 h b [b.a] 0) true (fun b c => low b.a c) id ∧
    CompletesJ .call (fun h b => issueJ 0x05 h b [] 31) false rel link ∧
    CompletesJ .callR (fun h b => issueJ 0x06 h b [b.a] 31) false (fun b c => low b.a c) link ∧
    CompletesJ .ret (fun h b => issueJ 0x07 h b [31] 0) false (fun _ c => low 31 c) id) ∧
  (
    let holds := fun (cond : Nat) (x y : Word) =>
      (cond = 0 ∧ x = y) ∨ (cond = 1 ∧ x ≠ y) ∨ (cond = 2 ∧ x.toInt < y.toInt) ∨ (cond = 3 ∧ y.toInt ≤ x.toInt) ∨
      (cond = 4 ∧ x.toNat < y.toNat) ∨ (5 ≤ cond ∧ y.toNat ≤ x.toNat)
    CompletesBr .br (fun h b => issueJ 0x08 h b [b.a, b.b] 0) (fun b c => holds b.cond.toNat (c.getS b.a) (c.getS b.b)) ∧
    CompletesBr .brI (fun h b => issueJ 0x09 h b [b.a] 0) (fun b c => holds b.cond.toNat (c.getS b.a) (b.imm10.signExtend 64)) ∧
    CompletesBr .brz (fun h b => issueJ 0x0A h b [b.a] 0) (fun b c => c.getS b.a = 0) ∧
    CompletesBr .brnz (fun h b => issueJ 0x0B h b [b.a] 0) (fun b c => c.getS b.a ≠ 0) ∧
    (∀ h b, (Instr.br h b).wf = true → b.cond.toNat ≤ 5) ∧ (∀ h b, (Instr.brI h b).wf = true → b.cond.toNat ≤ 5)) ∧
  (∀ s k, let u := s.focus k
    u.ctx.runs = true → u.ctx.wdDue = false → u.ctx.wait = .none_ → u.ctx.regs.pc = u.ctx.launch.nativeLen →
    issueSlot k s = .next (u.trapped .capBounds (BitVec.ofNat 64 u.ctx.regs.pc) 0 u.ctx))

/-- R110: a taken transfer that pops removes the entries from the top whose range excludes its target, up to the first whose range holds
it; VL and STRIP stay as they are until the next end test (R112, R393; log 20). -/
def Obligations.TransferPops : Prop :=
  ∀ (c : Ctx) (t : Nat) (out l : List LoopEnt), c.regs.loops = out ++ l →
    (∀ e, e ∈ out → t < e.start ∨ e.fin < t) → (∀ e x, l = e :: x → e.start ≤ t ∧ t ≤ e.fin) →
    c.popFor t = { c with regs := { c.regs with loops := l } } ∧ (out = [] → c.popFor t = c)

/-- R108: LOOP, LOOP.i and SLOOP: the entry that each pushes, the zero trip, and its causes in order. -/
def Obligations.LoopWords : Prop :=
  let entered := fun (i : Instr) (w : Issue) (fin : BitVec 16) (sloop : Bool) (n : Ctx → Nat) (vlmax : Ctx → Nat) =>
    ∀ s c, Starts w s c → (sloop = true → c.hasV = true) → let e := c.regs.pc + fin.toNat
      (c.launch.nativeLen ≤ e → exec i s = .next (s.trapped .capBounds (BitVec.ofNat 64 e) 0 c)) ∧
      (e < c.launch.nativeLen → (∃ x l, c.regs.loops = x :: l ∧ x.fin < e) →
        exec i s = .next (s.trapped .loopErr (wInfo0 w.word) (wInfo1 w.word .loopErr c.vstart) c)) ∧
      (e < c.launch.nativeLen → (∀ x l, c.regs.loops = x :: l → e ≤ x.fin) → n c = 0 →
        exec i s = .next (s.jumped 0 (e + 1) false (if sloop then c.setVl 0 else c))) ∧
      (e < c.launch.nativeLen → (∀ x l, c.regs.loops = x :: l → e ≤ x.fin) → 0 < n c → 4 ≤ c.regs.loops.length →
        exec i s = .next (s.trapped .loopErr (wInfo0 w.word) (wInfo1 w.word .loopErr c.vstart) c)) ∧
      (e < c.launch.nativeLen → (∀ x l, c.regs.loops = x :: l → e ≤ x.fin) → 0 < n c → c.regs.loops.length < 4 →
        let len := if sloop then min (n c) (vlmax c) else 0
        let ent : LoopEnt := ⟨sloop, c.regs.pc + 1, e, n c, vlmax c, len, 0⟩
        let c1 := c.upd fun r => { r with loops := ent :: r.loops }
        exec i s = .next (s.retired 0 (if sloop then c1.updCsr fun r => { r with vl := len, strip := 0 } else c1)))
  let width := fun b : FmtL => let ew := b.imm.toNat / 2 ^ 14; if ew = 0 then 32 else if ew = 1 then 16 else 8
  (∀ h b, entered (.loop h b) (issueL 0x0C h b) b.fin false (fun c => (c.getS b.a).toNat) (fun _ => 0)) ∧
  (∀ h b, entered (.loopI h b) (issueL 0x0D h b) b.fin false (fun _ => b.imm.toNat) (fun _ => 0)) ∧
  (∀ h b, entered (.sloop h b) (issueL 0x0E h b) b.fin true (fun c => (c.getS b.a).toNat) (fun c => c.len * 32 / width b)) ∧
  (∀ h b s c, Starts (issueL 0x0E h b) s c → c.hasV = false → let w := packL 0x0E h b
    exec (.sloop h b) s = .next (s.trapped .noVstate (wInfo0 w) (wInfo1 w .noVstate c.vstart) c))

/-- R371, R420, R422, R441: NOP only retires; PAUSE retires once IMM20 ticks have passed; TRAP and BRK raise their causes with IMM20. -/
def Obligations.PlainControlWords : Prop :=
  (∀ h b s c, Starts (issueY 0x01 h b [] 0) s c → exec (.nop h b) s = .next (s.retired 0 c)) ∧
  (∀ h b s c, Starts (issueY 0x1D h b [] 0) s c →
    (b.imm = 0 → exec (.pause h b) s = .next (s.retired 0 c)) ∧
    (b.imm ≠ 0 → exec (.pause h b) s = .next { s with ctx := { c with wait := .pause (s.tick + b.imm.toNat) } })) ∧
  (∀ h b s t, Waits s (.pause t) →
    (t ≤ s.tick → exec (.pause h b) s = .next (s.retired 0 s.ctx)) ∧ (s.tick < t → exec (.pause h b) s = .next s)) ∧
  (∀ h b s c, Starts (issueY 0x0F h b [] 0) s c →
    exec (.trap h b) s = .next (s.trapped .swTrap (BitVec.ofNat 64 b.imm.toNat) 0 c)) ∧
  (∀ h b s c, Starts (issueY 0x11 h b [] 0) s c →
    exec (.brk h b) s = .next (s.trapped .brk (BitVec.ofNat 64 b.imm.toNat) 0 c)) ∧
  (∀ w, (∃ h b, w = Instr.nop h b ∧ w.wf = true) → encode w = some 0x01000000000000000000)

/-- R96: a word of an unassigned opcode raises its cause as found: whatever its tags and distances, nothing commits. -/
def Obligations.UnassignedWords : Prop :=
  ∀ (w : IWord) (s : State), s.ctx.runs = true →
    exec (.illegalOp w) s = .next (s.trapped .illegalOp (w.extractLsb' 0 64) (BitVec.ofNat 64 (w.toNat / 2 ^ 64)) s.ctx) ∧
    exec (.emulWindow w) s = .next (s.trapped .emulWindow (w.extractLsb' 0 64) (BitVec.ofNat 64 (w.toNat / 2 ^ 64)) s.ctx) ∧
    exec (.undefOp w) s = .next (s.trapped .undefOp (w.extractLsb' 0 64) (BitVec.ofNat 64 (w.toNat / 2 ^ 64)) s.ctx)

/-! ### CSRs (02 R50, R51; 21 R386) -/

/-- Table 2-6: what a write leaves to be read: its RW fields under its write rule, while a read-only register and every other register read
as before; and the values of the registers that no field holds whole. A VL above 8,192 raises VL_RANGE and changes nothing. -/
def Obligations.CsrRegisters : Prop :=
  (∀ (s : State) (n : Nat) (w : Word),
      (n = 0 → 8192 < w.toNat → s.ctx.csrWrite n w = .trapW s.ctx .vlRange) ∧
      ((n = 0 → w.toNat ≤ 8192) → ∃ c, s.ctx.csrWrite n w = .done c ∧
        let t := { s with ctx := c }
        (∀ m, m ≠ n → t.csrRead m = s.csrRead m) ∧
        t.csrRead n =
          (if n = 0x000 ∨ (0x020 ≤ n ∧ n ≤ 0x02F) then w
           else if n = 0x002 then BitVec.ofNat 64 (w.toNat % 2 ^ 13)
           else if n = 0x004 then BitVec.ofNat 64 (w.toNat % 2 ^ 5)
           else if n = 0x005 ∨ n = 0x006 ∨ n = 0x051 then BitVec.ofNat 64 (w.toNat % 2 ^ 32)
           else if n = 0x071 then BitVec.ofNat 64 (max 2 (min 64 w.toNat))
           else if n = 0x072 ∧ s.ctx.regs.csr.harness = true then
             BitVec.ofNat 64 (if w.getLsbD 62 then w.toNat % 2 ^ 63 / 2 ^ 58 * 2 ^ 58 + w.toNat % 2 ^ 16
               else w.toNat / 2 ^ 58 * 2 ^ 58 + w.toNat % 2 ^ 16)
           else s.csrRead n))) ∧
  (∀ (s : State), let c := s.ctx; let rd := fun n => (s.csrRead n).toNat
      (c.hasV = true → rd 0x001 = c.len * 2 ^ 16 + c.count * 2 ^ 8 + c.regs.shape.toNat) ∧ (c.hasV = false → rd 0x001 = c.regs.shape.toNat) ∧
      (c.regs.loops.length ≤ 4 → rd 0x008 = c.regs.loops.length) ∧
      (c.regs.arr.mode < 4 →
        rd 0x010 = c.regs.arr.mode + (if c.regs.arr.draining.isSome then 4 else 0) + (if c.regs.arr.roped then 8 else 0)) ∧
      (∀ d n side, d < 4 → n < 192 → side < 2 → s.cur = 384 * d + 2 * n + side →
        rd 0x030 = d * 2 ^ 29 + n / 16 * 2 ^ 25 + n * 2 ^ 17 + side * 2 ^ 16 + s.cur) ∧
      (∀ d n side, d < 4 → n < 64 → side < 2 → s.cur = 1536 + 128 * d + 2 * n + side →
        rd 0x030 = (d + 4) * 2 ^ 29 + n / 16 * 2 ^ 25 + n * 2 ^ 17 + side * 2 ^ 16 + s.cur) ∧
      rd 0x031 = c.launch.node.toNat ∧ rd 0x032 = c.launch.inst.toNat ∧ rd 0x033 = c.launch.ninst.toNat ∧
      rd 0x040 = s.tick % 2 ^ 64 ∧ rd 0x041 = c.regs.csr.retired.toNat ∧
      rd 0x054 = (match c.launch.emulBase with | none => 0 | some w => 2 ^ 32 + w.toNat) ∧
      rd 0x055 = (match c.launch.trapBase with | none => 0 | some w => 2 ^ 32 + w.toNat))

/-- R386, R324: the four CSR words, after the flags that the register must meet have arrived. A mailbox read is a tagged producer. -/
def Obligations.CsrWords : Prop :=
  (∀ h b s c, Starts (issueY 0x13 h b [] b.d) s c → (b.imm.toNat < 0x020 ∨ 0x02F < b.imm.toNat) →
    let u := c.settleFlags b.imm.toNat
    exec (.csrr h b) s = .next (s.retired b.d (u.setS b.d (({ s with ctx := u }).csrRead b.imm.toNat)))) ∧
  (∀ h b s c, Starts (issueY 0x13 h b [] 0) s c → (0x020 ≤ b.imm.toNat ∧ b.imm.toNat ≤ 0x02F) →
    ∃ u, exec (.csrr h b) s = .next (s.retired 0 u) ∧
      (0 < h.ta.toNat → (u.getTag h.ta.toNat).st = .pending ∧ (u.getTag h.ta.toNat).dst = b.d ∧ (u.getTag h.ta.toNat).vec = false ∧
        (c.regs.csr.mbox[b.imm.toNat - 0x020]?) = some (u.getTag h.ta.toNat).latch)) ∧
  (∀ h b s c, let n := b.imm.toNat; let u := c.settleFlags n; let r := ({ s with ctx := u }).csrRead n
    (∀ v, Starts (issueY 0x14 h b [b.a] 0) s c → u.csrWrite n (u.getS b.a) = .done v →
      exec (.csrw h b) s = .next (s.retired 0 v)) ∧
    (Starts (issueY 0x14 h b [b.a] 0) s c → n = 0 → 8192 < (c.getS b.a).toNat → let w := packY 0x14 h b
      exec (.csrw h b) s = .next (s.trapped .vlRange (wInfo0 w) (wInfo1 w .vlRange c.vstart) c)) ∧
    (∀ v, Starts (issueY 0x15 h b [b.a] 0) s c → u.csrWrite n (r ||| u.getS b.a) = .done v →
      exec (.csrs h b) s = .next (s.retired 0 v)) ∧
    (∀ v, Starts (issueY 0x16 h b [b.a] 0) s c → u.csrWrite n (r &&& ~~~(u.getS b.a)) = .done v →
      exec (.csrc h b) s = .next (s.retired 0 v)) ∧
    (n ≠ 0x004 → u = c))

/-! ### Capabilities (02 R32 to R34) -/

/-- R373, R378, R384, R385, R399: the capability words: the value each leaves, field by field, and its causes. -/
def Obligations.CapabilityWords : Prop :=
  let capTo := fun (i : Instr) (s : State) (c : Ctx) (d : RegNo) (buf : BitVec 20) (rights : BitVec 4) (drv shr : Bool) (base len : Nat) =>
    ∃ v, exec i s = .next (s.retired 0 (c.setC d ⟨v, true⟩)) ∧ capBuf v = buf ∧ capRights v = rights ∧ capD v = drv ∧ capS v = shr ∧
      capBase v = base % 2 ^ 48 ∧ capLen v = len
  let raises := fun (i : Instr) (s : State) (c : Ctx) (cause : Cause) => ∃ i0 i1, exec i s = .next (s.trapped cause i0 i1 c)
  (∀ h b s c, Starts (issueY 0x54 h b [] 0) s c →
    (∀ v, c.launch.captab[b.imm.toNat]? = some v → exec (.ldcap h b) s = .next (s.retired 0 (c.setC b.d ⟨v, true⟩))) ∧
    (c.launch.captab.length ≤ b.imm.toNat → raises (.ldcap h b) s c .capBounds)) ∧
  (∀ h b s c, Starts (issueY 0x55 h b [b.b, b.e] 0) s c →
    let v := (c.getC b.a).val; let o := (c.getS b.b).toNat; let l := (c.getS b.e).toNat
    ((c.getC b.a).valid = false → raises (.cderive h b) s c .capInvalid) ∧
    ((c.getC b.a).valid = true → capD v = false → raises (.cderive h b) s c .capRights) ∧
    ((c.getC b.a).valid = true → capD v = true → capLen v < o + l → raises (.cderive h b) s c .capBounds) ∧
    ((c.getC b.a).valid = true → capD v = true → o + l ≤ capLen v →
      capTo (.cderive h b) s c b.d (capBuf v) (capRights v) (b.fn.getLsbD 0) (capS v) (capBase v + o) l)) ∧
  (∀ h b s c,
    let v := (c.getC b.a).val
    let moves := fun (i : Instr) (a : Nat) =>
      ((c.getC b.a).valid = false → raises i s c .capInvalid) ∧ ((c.getC b.a).valid = true → capLen v < a → raises i s c .capBounds) ∧
      ((c.getC b.a).valid = true → a ≤ capLen v →
        capTo i s c b.d (capBuf v) (capRights v) (capD v) (capS v) (capBase v + a) (capLen v - a))
    (Starts (issueY 0x56 h b [b.b] 0) s c → moves (.cadd h b) (c.getS b.b).toNat) ∧
    (Starts (issueY 0x57 h b [] 0) s c → moves (.caddI h b) b.imm.toNat)) ∧
  (∀ h b s c, Starts (issueY 0x58 h b [] 0) s c → let v := (c.getC b.a).val
    ((c.getC b.a).valid = false → raises (.crestrict h b) s c .capInvalid) ∧
    ((c.getC b.a).valid = true →
      capTo (.crestrict h b) s c b.d (capBuf v) (capRights v &&& b.fn.setWidth 4) (capD v && b.fn.getLsbD 4) (capS v) (capBase v)
        (capLen v))) ∧
  (∀ h b s c, Starts (issueY 0x59 h b [] b.d) s c → let v := (c.getC b.a).val
    (b.imm = 0 → exec (.cread h b) s = .next (s.retired b.d (c.setS b.d (BitVec.ofNat 64 (v.toNat % 2 ^ 64))))) ∧
    (b.imm = 1 → exec (.cread h b) s = .next (s.retired b.d (c.setS b.d (BitVec.ofNat 64 (v.toNat / 2 ^ 64))))) ∧
    (b.imm = 2 → exec (.cread h b) s = .next (s.retired b.d (c.setS b.d (if (c.getC b.a).valid then 1 else 0)))))

/-- R32, R33: no word makes a capability out of anything else or widens one: after any instruction word, every valid capability register of the
context is an entry of the capability table, or gives nothing that one that was valid did not give. The premise CapsOk, that windows end
within 2^48 bytes, is kept too. -/
def Obligations.CapabilitiesNeverWiden : Prop :=
  ∀ (i : Instr) (s t : State), i.isWord = true → exec i s = .next t → CapsOk s.ctx →
    CapsOk t.ctx ∧ ∀ n : RegNo, (t.ctx.getC n).valid = true →
      (t.ctx.getC n).val ∈ s.ctx.launch.captab ∨
      ∃ m : RegNo, (s.ctx.getC m).valid = true ∧ Within (t.ctx.getC n).val (s.ctx.getC m).val

/-! ### Memory (08, 12, 20 to 22) -/

/-- R395, R396, R436, R437: the eight forms of LD and of ST, where the bytes lie in the scratchpad or in a line at home on the die. -/
def Obligations.LoadAndStoreWords : Prop :=
  (LoadCompletes .ldB 0x40 1 false ∧ LoadCompletes .ldH 0x41 2 false ∧ LoadCompletes .ldW 0x42 4 false ∧ LoadCompletes .ldD 0x43 8 false ∧
    LoadCompletes .ldBx 0x48 1 true ∧ LoadCompletes .ldHx 0x49 2 true ∧ LoadCompletes .ldWx 0x4A 4 true ∧ LoadCompletes .ldDx 0x4B 8 true) ∧
  (StoreCompletes .stB 0x44 1 false ∧ StoreCompletes .stH 0x45 2 false ∧ StoreCompletes .stW 0x46 4 false ∧
    StoreCompletes .stD 0x47 8 false ∧ StoreCompletes .stBx 0x4C 1 true ∧ StoreCompletes .stHx 0x4D 2 true ∧
    StoreCompletes .stWx 0x4E 4 true ∧ StoreCompletes .stDx 0x4F 8 true)

/-- R158 to R161: the record of a sector of a checked buffer. Which stamps are live; the cause that an access meets (Table 8-2); the record
after an access without one; what a spill keeps; and a store that meets a cause, which is precise and writes no byte. That of two free reader
stamps the earlier one is filled (log 31), and that a stamp names a member beside its slot (log 73), are the model's choices. -/
def Obligations.RaceRecords : Prop :=
  (∀ (s : State) (t : Stamp), s.live t = true ↔
    (s.slot t.slot).bind.st ≠ .free ∧ (s.slot t.slot).bind.st ≠ .saved ∧ (s.slot t.slot).launch.uid = t.uid ∧
      (s.slot t.slot).regs.saves = t.saves ∧ (s.slot t.slot).regs.csr.regionno = t.region) ∧
  (∀ (s : State) (r : RaceRec) (x : RaceAcc),
    let own := fun (t : Stamp) => t.slot = x.stamp.slot ∧ t.uid = x.stamp.uid
    let clash := fun (t : Stamp) => ¬ own t ∧ s.live t = true ∧ ¬ (t.marked = true ∧ x.stamp.marked = true)
    let readers := fun (t : Stamp) => r.r0 = some t ∨ r.r1 = some t
    (∀ t, x.wr = true → r.writer = some t → clash t → s.raceFind r x = some (.raceWW, t.slot)) ∧
    (x.wr = true → (∀ t, r.writer = some t → ¬ clash t) →
      ((∃ t, readers t ∧ clash t) → ∃ t, readers t ∧ clash t ∧ s.raceFind r x = some (.raceRW, t.slot)) ∧
      ((∀ t, readers t → ¬ clash t) → r.ovf = true → (∀ t, readers t → ¬ own t) → s.raceFind r x = some (.raceOvf, 0)) ∧
      ((∀ t, readers t → ¬ clash t) → r.ovf = false ∨ (∃ t, readers t ∧ own t) → s.raceFind r x = none)) ∧
    (x.wr = false → x.rd = true → (∀ t, r.writer = some t → clash t → s.raceFind r x = some (.raceWR, t.slot)) ∧
      ((∀ t, r.writer = some t → ¬ clash t) → s.raceFind r x = none)) ∧
    (let q := s.raceNote r x
     (x.wr = true → q.writer = some x.stamp) ∧ (x.wr = false → q.writer = r.writer) ∧
     (x.rd = false → q.r0 = r.r0 ∧ q.r1 = r.r1 ∧ q.ovf = (r.ovf && !x.wr)) ∧
     (x.rd = true → let full := ∃ t u, r.r0 = some t ∧ r.r1 = some u ∧ ¬ own t ∧ ¬ own u ∧ s.live t = true ∧ s.live u = true
       (full → q.r0 = r.r0 ∧ q.r1 = r.r1 ∧ q.ovf = true) ∧
       (¬ full → q.r1 = some x.stamp ∧ q.ovf = (r.ovf && !x.wr) ∧ (q.r0 = r.r0 ∨ q.r0 = r.r1)))) ∧
    (let q := s.spill r
     (∀ t u, r.r0 = some t → r.r1 = some u → q.writer = r.writer ∧ q.r1 = r.r1 ∧ q.r0 = none ∧
       (q.ovf = true ↔ r.ovf = true ∨ s.live t = true)) ∧
     (r.r0 = none ∨ r.r1 = none → q = r))) ∧
  (∀ (s : State) (a n : Nat) (x : RaceAcc), 0 < n → a % 32 + n ≤ 32 →
    s.raceTest a n x = s.raceFind (s.recordOf (a / 32)) x ∧
    tabGet RaceRec.zero (s.raceUpdate a n x).races (a / 32) = s.raceNote (s.recordOf (a / 32)) x ∧
    (∀ k, k ≠ a / 32 → tabGet RaceRec.zero (s.raceUpdate a n x).races k = tabGet RaceRec.zero s.races k) ∧
    (s.recordOf (a / 32) = tabGet RaceRec.zero s.races (a / 32) ∨ s.recordOf (a / 32) = s.spill (tabGet RaceRec.zero s.races (a / 32)))) ∧
  (∀ h b s c a w en cause k, Starts (issueM 0x47 h b [b.d]) s c → b.ord = 0 →
    ({ s with ctx := c }).access c b.c b.off.toInt 8 rWrite 1 .write = .ok (w, en, countFrom a 8) → en.ty ≠ .diagnostic → en.chk = true →
    a % 128 + 8 ≤ 128 → locKind a = .dram → homeDie a = slotDie s.cur → s.openTxn (lineOf a) = none → s.lineHere a = true → c.out = [] →
    s.Numbered → NoBars s a 8 →
    ({ s with ctx := c }).raceTest a 8 ⟨⟨s.cur, c.launch.uid, c.regs.saves, c.regs.csr.regionno, false⟩, false, true⟩ = some (cause, k) →
    Ends (.stD h b) s fun t => SameBytes s t ∧ t.races = s.races ∧
      t.ctx = c.takeTrap cause (BitVec.ofNat 64 (w.off % 2 ^ 48))
        (BitVec.ofNat 64 (w.buf.toNat + b.c.toNat % 16 * 2 ^ 24 + k % 2 ^ 11 * 2 ^ 36)))

/-- R354 to R356, R375, R376: AMO with each operation, and CAS, which writes s[E] only where the old value is s[X]. -/
def Obligations.AtomicWords : Prop :=
  let low := fun (n : Nat) (x : Word) => x.toNat % 2 ^ (8 * n)
  let amo := fun n => fun (b : FmtM) (c : Ctx) old => some (amoValue (8 * n) b.aop.toNat old (low n (c.getS b.e)))
  let cas := fun n => fun (b : FmtM) (c : Ctx) old => if old = low n (c.getS b.x) then some (low n (c.getS b.e)) else none
  AtomicCompletes .amoW 0x50 4 (fun b => [b.e]) 9 (amo 4) ∧ AtomicCompletes .amoD 0x51 8 (fun b => [b.e]) 8 (amo 8) ∧
  AtomicCompletes .casW 0x52 4 (fun b => [b.x, b.e]) 15 (cas 4) ∧ AtomicCompletes .casD 0x53 8 (fun b => [b.x, b.e]) 15 (cas 8)

/-- R455, R456, R470, R471: VLD, VLD.s and VLDX; VST, VST.s and VSTX. -/
def Obligations.VectorMemory : Prop :=
  (VLoadCompletes .vld 0x60 (fun _ => []) (fun b _ w i => b.off.toInt + (i * w : Nat)) ∧
    VLoadCompletes .vldS 0x61 (fun b => [b.x]) (fun b c _ i => b.off.toInt + i * (c.getS b.x).toInt) ∧
    VLoadCompletes .vldx 0x65 (fun b => [b.x]) (fun b c w i => (c.getS b.x).toInt * 2 ^ (b.off.toNat / 2 ^ 16) + (i * w : Nat))) ∧
  (VStoreCompletes .vst 0x63 (fun _ => []) (fun b _ w i => b.off.toInt + (i * w : Nat)) ∧
    VStoreCompletes .vstS 0x64 (fun b => [b.x]) (fun b c _ i => b.off.toInt + i * (c.getS b.x).toInt) ∧
    VStoreCompletes .vstx 0x66 (fun b => [b.x]) (fun b c w i => (c.getS b.x).toInt * 2 ^ (b.off.toNat / 2 ^ 16) + (i * w : Nat)))

/-- R445, R446, R475: VBIND writes a whole fresh record; VUNBIND reports SPOS and writes zero to d0. -/
def Obligations.BindingRecords : Prop :=
  (∀ h b s c a, Starts (issueY 0x67 h b [b.b] 0) s c → RecordAt s c b.a b.imm.toNat rWrite .write true a →
    Ends (.vbind h b) s fun t =>
      numOf (memBytes t.mem a 64) = recordNat (b.d.toNat % 16) (b.e.toNat % 16) (b.fn.toNat % 16)
        (if b.b = 0 then 0x7F800000 else (c.getS b.b).toNat % 2 ^ 32) 0 0 ∧
      SameBytesBut a 64 s t ∧ CtxKept 0 c t.ctx) ∧
  (∀ h b s c a, Starts (issueY 0x68 h b [] b.d) s c → RecordAt s c b.a b.imm.toNat (rRead ||| rWrite) .write true a →
    Ends (.vunbind h b) s fun t =>
      numOf (memBytes t.mem a 8) = 0 ∧ SameBytesBut a 8 s t ∧
      CtxKept 0 (c.setS b.d (BitVec.ofNat 64 (numOf (memBytes s.mem (a + 16) 8) % 2 ^ 48))) t.ctx)

/-- R458: VLDB with its data in the scratchpad: plain types element by element, SE types block by block; POS moves on. -/
def Obligations.StreamLoads : Prop :=
  ∀ h b s c a payc scalc tag bound pos spos (adr scl : Nat → Nat), Starts (issueMV 0x62 h b [] .vprod) s c →
    RecordAt s c b.c b.off.toInt rRead .read false a →
    numOf (memBytes s.mem a 64) = recordNat payc scalc tag bound pos spos → payc < 16 → scalc < 16 → 1 ≤ tag → tag ≤ 11 →
    bound < 2 ^ 32 → pos < 2 ^ 48 → spos < 2 ^ 48 →
    let ty := Ety.ofTag tag; let w := ty.width / 8; let p := 2 * (ty.seBits + 1)
    h.ta ≠ 0 → c.noSlot h.ta.toNat = false → (c.getTag h.ta.toNat).slot < 4 → c.resumes h.ta.toNat = false →
    c.vstart = 0 → 0 < c.vl → c.vl ≤ c.capacity ty → c.copyWait (scratchOff a) 64 true = false →
    CapReady c payc rRead → (ty.isSE = true → CapReady c scalc rRead) →
    (ty.isSE = false → ∀ i, i < c.vl →
      ScratchAccess s c (BitVec.ofNat 6 payc) ((pos + i) * w : Nat) w rRead 1 .read false (adr i)) →
    (ty.isSE = true → ∀ j, j < (c.vl + 15) / 16 →
      ScratchPlain s c (BitVec.ofNat 6 payc) ((pos / 16 + j) * p : Nat) p rRead 1 .read false (adr j) ∧
      ScratchPlain s c (BitVec.ofNat 6 scalc) ((pos / 16 + j) / 3 * 8 : Nat) 8 rRead 8 .read false (scl j)) →
    Ends (.vldb h b) s fun t =>
      let g := t.ctx.getTag h.ta.toNat; let l := t.ctx.getSlot g.slot
      g.st = .pending ∧ g.dst = b.d ∧ g.vec = true ∧ l.ty = ty ∧ t.ctx.vstart = 0 ∧
      (ty.isSE = false → (∀ i, i < c.vl → getBits l.data (i * ty.width) ty.width = numOf (memBytes s.mem (adr i) w)) ∧
        (∀ i, i < 8192 → l.pos.getLsbD i = decide (i < c.vl)) ∧ l.blks = 0 ∧
        numOf (memBytes t.mem (a + 8) 8) = (pos + c.vl) % 2 ^ 48) ∧
      (ty.isSE = true → (∀ j i, j < (c.vl + 15) / 16 → i < 16 →
          getBits l.data ((16 * j + i) * 8) 8 =
            (let x := numOf (memBytes s.mem (adr j) p) / 2 ^ (i * (ty.seBits + 1)) % 2 ^ (ty.seBits + 1); x % 2 * 128 + x / 2) ∧
          getBits l.scales (20 * j) 20 = numOf (memBytes s.mem (scl j) 8) / 2 ^ (20 * ((pos / 16 + j) % 3)) % 2 ^ 20 ∧
          l.blks.getLsbD j = true ∧ l.pos.getLsbD (16 * j + i) = true) ∧
        numOf (memBytes t.mem (a + 8) 8) = (pos + 16 * ((c.vl + 15) / 16)) % 2 ^ 48) ∧
      SameBytesBut (a + 8) 8 s t ∧ (∀ n, t.ctx.getV n = (c.retag h.ta.toNat).getV n) ∧ ∀ n, t.ctx.getS n = (c.retag h.ta.toNat).getS n

/-- R473: VST.s with s0 into the scratchpad: elements of a plain type are rounded to it under the record's bound; one SE block of the
same type is stored bit for bit, with its scale merged into its scale word; SPOS moves on. -/
def Obligations.StreamStores : Prop :=
  ∀ h b s c a payc scalc tag bound pos spos (adr : Nat → Nat) (scl : Nat), Starts (issueMV 0x64 h b [] .vstore) s c →
    RecordAt s c b.c b.off.toInt (rRead ||| rWrite) .write true a →
    numOf (memBytes s.mem a 64) = recordNat payc scalc tag bound pos spos → payc < 16 → scalc < 16 → 1 ≤ tag → tag ≤ 11 →
    bound < 2 ^ 32 → pos < 2 ^ 48 → spos < 2 ^ 48 →
    let ty := Ety.ofTag tag; let w := ty.width / 8; let p := 2 * (ty.seBits + 1); let v := c.getV b.d.toNat
    c.heldMeets b.d.toNat 1 = false → v.ty ≠ .invalid → c.vl ≤ c.capacity v.ty → c.vstart = 0 → 0 < c.vl →
    CapReady c payc rWrite → (ty.isSE = true → CapReady c scalc rWrite) →
    (ty.isSE = false → (∀ i, i < c.vl →
        ScratchAccess s c (BitVec.ofNat 6 payc) ((spos + i) * w : Nat) w rWrite 1 .write true (adr i) ∧
        (adr i + w ≤ a ∨ a + 64 ≤ adr i)) →
      (∀ i j, i < j → j < c.vl → adr i + w ≤ adr j ∨ adr j + w ≤ adr i) →
      Ends (.vstSStream h b) s fun t =>
        let y := fun i => cvtLane FmtV.plain v.ty ty v (clampBound (BitVec.ofNat 32 bound)) .rne i
        (∀ i, i < c.vl → numOf (memBytes t.mem (adr i) w) = (y i).1 % 2 ^ ty.width) ∧
        numOf (memBytes t.mem (a + 16) 8) = (spos + c.vl) % 2 ^ 48 ∧
        (∀ x, (∀ i, i < c.vl → x < adr i ∨ adr i + w ≤ x) → x < a + 16 ∨ a + 24 ≤ x → memGet t.mem x = memGet s.mem x) ∧
        t.ctx.regs.csr.vflags = (List.range c.vl).foldl (fun f i => f ||| (y i).2) (c.regs.csr.vflags ||| c.streamFlags) ∧ t.ctx.vstart = 0) ∧
    (ty.isSE = true → v.ty = ty → spos % 16 = 0 → c.vl ≤ 16 → let adr := adr 0
      ScratchPlain s c (BitVec.ofNat 6 payc) (spos / 16 * p : Nat) p rWrite 1 .write true adr →
      ScratchPlain s c (BitVec.ofNat 6 scalc) (spos / 16 / 3 * 8 : Nat) 8 rWrite 8 .write true scl →
      adr + p ≤ scl ∨ scl + 8 ≤ adr → adr + p ≤ a ∨ a + 64 ≤ adr → scl + 8 ≤ a ∨ a + 64 ≤ scl →
      Ends (.vstSStream h b) s fun t =>
        (∀ i, i < 16 → numOf (memBytes t.mem adr p) / 2 ^ (i * (ty.seBits + 1)) % 2 ^ (ty.seBits + 1) =
          (let x := v.elem 8 i; x / 128 % 2 + x % 2 ^ ty.seBits * 2)) ∧
        (∀ q, q < 3 → numOf (memBytes t.mem scl 8) / 2 ^ (20 * q) % 2 ^ 20 =
          if q = spos / 16 % 3 then (v.scale 0).toNat else numOf (memBytes s.mem scl 8) / 2 ^ (20 * q) % 2 ^ 20) ∧
        numOf (memBytes t.mem scl 8) < 2 ^ 60 ∧ numOf (memBytes t.mem (a + 16) 8) = (spos + 16) % 2 ^ 48)

/-! ### Copies (10, 21) -/

/-- R207, R210, R381: COPY whose template and windows pass and whose channel has room: the copy joins its channel, and the object's count
grows by the sectors that it owes, at once. -/
def Obligations.CopyQueued : Prop :=
  ∀ h b s c a loc, Starts (issueY 0x69 h b [b.b] 0) s c → let u := { s with ctx := c }; let i := (c.getS b.b).toNat
    let ch := b.imm.toNat % 4
    i < 65536 → ScratchAccess s c b.a (64 * i : Nat) 64 rRead 64 .read false a →
    let t : Template := BitVec.ofNat 512 (numOf (memBytes s.mem a 64)); let o := u.obj loc
    let owed := t.rows * (t.rowB / 32) * (u.copyTargets t).length
    u.badTemplate t = false → (∃ w, checkCap c t.srcc t.srcoff ((t.rows - 1) * t.srcstr + t.rowB) rRead 1 = .ok w) →
    (∃ w, checkCap c t.dstc t.dstoff ((t.rows - 1) * t.dststr + t.rowB) rWrite 1 = .ok w) →
    (∃ w en, checkCap c t.barc t.baroff 16 rSync 16 = .ok w ∧ u.translate c w 16 rSync .sync = .ok (en, countFrom loc 16)) →
    (u.bufType t.barc = .scratch ∨ u.bufType t.barc = .dieScratch) → (locKind loc = .scratch ∨ locKind loc = .dieScratch) →
    (c.chan ch).copies.length < 4 → (t.out = true ∨ c.launch.uid ∈ u.copyTargets t → (c.copies.filter c.recorded).length < 8) →
    (if t.out then o.outsect else o.insect) + owed < 2 ^ 32 →
    Ends (.copy h b) s fun r => ∃ p : Copy,
      (r.ctx.chan ch).copies = (c.chan ch).copies ++ [p] ∧ (r.ctx.chan ch).fault = (c.chan ch).fault ∧
      p.tmpl.toNat = i ∧ p.pc.toNat = c.regs.pc % 2 ^ 32 ∧ p.serial = c.regs.csr.retired.setWidth 16 ∧ p.out = t.out ∧ p.layout = t.layout ∧
      p.rows = t.rows ∧ p.rowB = t.rowB ∧ p.sect = 0 ∧ p.owed = owed ∧ p.started = false ∧ p.failed = false ∧ p.barLoc = loc ∧
      p.scope = b.scope.toNat ∧ p.region = c.regs.csr.regionno ∧
      CtxKept 0 (c.setChan ch { c.chan ch with copies := (c.chan ch).copies ++ [p] }) r.ctx ∧
      (if t.out then (r.obj loc).outsect = o.outsect + owed ∧ (r.obj loc).insect = o.insect
       else (r.obj loc).insect = o.insect + owed ∧ (r.obj loc).outsect = o.outsect) ∧
      (r.obj loc).pending = o.pending ∧ (r.obj loc).phase = o.phase ∧ (r.obj loc).expected = o.expected ∧ SameBytesBut loc 16 s r

/-- R215: COPYQ. -/
def Obligations.CopyQuery : Prop :=
  ∀ h b s c, Starts (issueY 0x6A h b [] b.d) s c → let x := c.chan (b.imm.toNat % 4)
    let sect := x.copies.foldl (fun n p => n + p.owed) 0
    ∃ v : Word, exec (.copyq h b) s = .next (s.retired b.d (c.setS b.d v)) ∧
      (x.copies.length ≤ 4 → sect < 2 ^ 32 → v.toNat % 8 = x.copies.length ∧ (v.getLsbD 3 = true ↔ x.fault ≠ none) ∧
        v.toNat / 2 ^ 32 = sect ∧ v.toNat / 2 ^ 4 % 2 ^ 28 = 0)

/-! ### Barriers (08 R165 to R171; 09 R199, R200; 20) -/

/-- R168, R362 to R364: BARINIT, BARQUERY, and BARRIVE with and without the completion of the phase. -/
def Obligations.BarrierArrivals : Prop :=
  (∀ h b s c loc, Starts (issueY 0x6B h b [b.b] 0) s c → ObjectAt s c b loc false true → Released s c b.scope → let n := (c.getS b.b).toNat
    1 ≤ n → n ≤ 65535 → Ends (.barinit h b) s fun t =>
      numOf (memBytes t.mem loc 16) = n * 2 ^ 8 + n * 2 ^ 24 + b.fn.toNat % 4 * 2 ^ 104 ∧ SameBytesBut loc 16 s t ∧ CtxKept 0 c t.ctx) ∧
  (∀ h b s c loc, Starts (issueY 0x6F h b [] b.d) s c → ObjectAt s c b loc false false →
    exec (.barquery h b) s = .next (s.retired b.d (c.setS b.d
      (BitVec.ofNat 64 (numOf (memBytes s.mem loc 16) / 2 ^ (64 * (b.fn.toNat % 2))))))) ∧
  (∀ h b s c loc, Starts (issueY 0x6C h b [] b.d) s c → ObjectAt s c b loc false true → Released s c b.scope →
    c.regs.csr.regionno ≠ 0xFFFF → let u := { s with ctx := c }; let o := u.obj loc
    o.rsvOk = true → 0 < o.pending → Ends (.barrive h b) s fun t =>
      CtxKept 0 (c.setS b.d (BitVec.ofNat 64 o.phase.toNat)) t.ctx ∧ t.ctx.regs.csr.regionno = c.regs.csr.regionno + 1 ∧
      SameBytesBut loc 16 s t ∧
      ((1 < o.pending ∨ o.insect ≠ 0 ∨ o.outsect ≠ 0) → (t.obj loc).toNat = o.toNat - 2 ^ 8 ∧
        ∀ j, j ≠ s.cur → (t.slot j).wait = (s.slot j).wait) ∧
      (o.pending = 1 → o.insect = 0 → o.outsect = 0 → let n := t.obj loc
        n.phase = o.phase + 1 ∧ n.pending = o.expected ∧ n.expected = o.expected ∧ n.insect = 0 ∧ n.outsect = 0 ∧
        n.profile = o.profile ∧ n.err = o.err ∧
        (s.windows.all (fun w => w.team || w.loc != loc) = true → pitchNp (u.pitchReg (u.barDie loc) (2 * o.profile)) = 0 →
          n.winopen = false ∧ ∀ j, j ≠ s.cur → (t.slot j).wait =
            if j ∈ s.others.map (·.1) ∧ (s.slot j).wait = .bar loc o.phase then .barDone loc (o.phase + 1) else (s.slot j).wait)))

/-- R365 to R367: BARWAIT and BARSYNC: a wait for a phase that is over ends at once; one for the current phase waits; a waiter that was
released ends with PHASE. BARSYNC arrives first. -/
def Obligations.BarrierWaits : Prop :=
  (∀ h b s c loc, Starts (issueY 0x6D h b [b.b] b.d) s c → ObjectAt s c b loc true false → NoCopyFault c loc →
    let o := ({ s with ctx := c }).obj loc; let q : BitVec 4 := BitVec.ofNat 4 (c.getS b.b).toNat
    o.rsvOk = true →
    (o.phase ≠ q → c.regs.csr.regionno ≠ 0xFFFF → Ends (.barwait h b) s fun t =>
      CtxKept 0 (c.setS b.d (BitVec.ofNat 64 (o.phase.toNat + 16))) t.ctx ∧
      t.ctx.regs.csr.regionno = c.regs.csr.regionno + 1 ∧ SameBytes s t) ∧
    (o.phase = q → exec (.barwait h b) s = .next { s with ctx := { c with wait := .bar loc q } })) ∧
  (∀ i b s loc st, ((∃ h, i = Instr.barwait h b) ∨ ∃ h, i = Instr.barsync h b ∧ ∃ q, s.ctx.regs.barsyncP = some (s.ctx.regs.pc, q)) →
    NoCopyFault s.ctx loc →
    (∀ q, Waits s (.bar loc q) → exec i s = .next s) ∧
    (Waits s (.barDone loc st) → s.ctx.regs.csr.regionno ≠ 0xFFFF → Ends i s fun t =>
      CtxKept 0 (s.ctx.setS b.d (BitVec.ofNat 64 st.toNat)) t.ctx ∧ t.ctx.regs.csr.regionno = s.ctx.regs.csr.regionno + 1 ∧
      t.ctx.regs.barsyncP = none ∧ SameBytes s t)) ∧
  (∀ h b s c loc, Starts (issueY 0x6E h b [] b.d) s c → ObjectAt s c b loc false true → NoCopyFault c loc → Released s c b.scope →
    c.regs.csr.regionno ≠ 0xFFFF → markedAt c.regs.barsyncP c.regs.pc = none → let o := ({ s with ctx := c }).obj loc
    o.rsvOk = true → 0 < o.pending → Ends (.barsync h b) s fun t =>
      t.ctx.regs.barsyncP = some (c.regs.pc, o.phase) ∧ t.ctx.regs.pc = c.regs.pc ∧
      t.ctx.regs.csr = { c.regs.csr with regionno := c.regs.csr.regionno + 1 } ∧ SameBytesBut loc 16 s t ∧
      ((1 < o.pending ∨ o.insect ≠ 0 ∨ o.outsect ≠ 0) → (t.obj loc).toNat = o.toNat - 2 ^ 8 ∧ t.ctx.wait = .bar loc o.phase) ∧
      (o.pending = 1 → o.insect = 0 → o.outsect = 0 →
        (t.obj loc).phase = o.phase + 1 ∧ (t.ctx.wait = .bar loc o.phase ∨ t.ctx.wait = .barDone loc (o.phase + 1))))

/-- R199, R200, R392: HBAR outside a team raises BAR_ERR; in a team it arrives and waits, and a waiter that was released ends with the next
phase in s[D]. -/
def Obligations.TeamBarrier : Prop :=
  ∀ h b s,
    (∀ c, Starts (issueY 0x70 h b [] b.d) s c → markedAt c.regs.hbarP c.regs.pc = none → c.deliverTags.regs.deferred = none →
      c.launch.team = false → exec (.hbar h b) s = .next (s.trapped .barErr 0 0 c)) ∧
    (∀ c, Starts (issueY 0x70 h b [] b.d) s c → markedAt c.regs.hbarP c.regs.pc = none → Released s c b.scope →
      c.out = [] ∨ ({ s with ctx := c }).reachesNone b.scope.toNat = true → c.regs.csr.regionno ≠ 0xFFFF → c.launch.team = true → let u := { s with ctx := c }; let l := c.launch; let d := slotDie s.cur
      let m := u.team l.vf l.team32
      (∃ x ∈ u.teamSlots d l.vf l.team32, x.2.launch.uid ≠ l.uid ∧ x.2.launch.uid ∉ m.arrived) →
      Ends (.hbar h b) s fun t =>
        t.ctx.wait = .hbar m.phase (BitVec.ofNat 2 b.fn.toNat) ∧ t.ctx.regs.hbarP = some (c.regs.pc, m.phase) ∧
        t.ctx.regs.csr = { c.regs.csr with regionno := c.regs.csr.regionno + 1 } ∧
        tabGet 0 (t.team l.vf l.team32).held d = tabGet 0 m.held d + 1 ∧ (t.team l.vf l.team32).arrived = m.arrived ++ [l.uid] ∧
        (t.team l.vf l.team32).phase = m.phase ∧ SameBytes s t) ∧
    (∀ p q, Waits s (.hbar p q) → exec (.hbar h b) s = .next s) ∧
    (∀ p, Waits s (.hbarDone p) → s.ctx.regs.csr.regionno ≠ 0xFFFF → Ends (.hbar h b) s fun t =>
      CtxKept 0 (s.ctx.setS b.d (BitVec.ofNat 64 ((p.toNat + 1) % 16))) t.ctx ∧
      t.ctx.regs.csr.regionno = s.ctx.regs.csr.regionno + 1 ∧ t.ctx.regs.hbarP = none ∧ SameBytes s t)

/-! ### Synchronisation and caches (08 R172, R173; 09 R201; 21, 22, 24) -/

/-- R157, R173, R201, R388, R390, R412, R424, R425, R476: FENCE, REGION, MONITOR, WAITM, LOCQ, CWB and PREF. The model's choices: a FENCE that
orders loads empties the level-one data cache, an acquire or not (log 73), one whose scope holds no other agent orders nothing (log 74), and a CWB
writes a line back as a whole (log 75). -/
def Obligations.SyncAndCacheWords : Prop :=
  (∀ h b s c, Starts (issueY 0x1A h b [] 0) s c → c.regs.csr.regionno ≠ 0xFFFF →
    let rel := b.fn.getLsbD 5 || b.fn.getLsbD 6; let acq := b.fn.getLsbD 4 || b.fn.getLsbD 6
    let u := { s with ctx := c }
    (2 ≤ b.scope.toNat ∨ rel = true → c.deliverTags.regs.deferred = none) → (rel = true → u.released b.scope.toNat = true) →
    u.fenceWaits b.fn b.scope.toNat = false → Ends (.fence h b) s fun t =>
      CtxKept 0 { c with out := if c.out.isEmpty || u.reachesNone b.scope.toNat then c.out
        else c.out ++ [.fence (b.fn.extractLsb' 0 7) b.scope.toNat] } t.ctx ∧
      t.ctx.regs.csr.regionno = c.regs.csr.regionno + 1 ∧ SameBytes s t ∧
      (acq = true ∨ b.fn.extractLsb' 0 7 &&& 0x5F ≠ 0 → 2 ≤ b.scope.toNat → (t.core (coreKey s.cur)).l1d = [])) ∧
  (∀ h b s c, Starts (issueY 0x19 h b [] b.d) s c → c.regs.csr.regionno ≠ 0xFFFF ∨ s.stamped s.cur = false →
    let n := c.regs.csr.regionno + 1
    exec (.region h b) s = .next (s.retired b.d ((c.updCsr fun r => { r with regionno := n }).setS b.d (BitVec.ofNat 64 n.toNat)))) ∧
  (∀ h b s c a, Starts (issueY 0x1B h b [] 0) s c →
    (∃ w en, ({ s with ctx := c }).access c b.a b.imm.toNat 1 rRead 1 .arm = .ok (w, en, [a]) ∧
      ({ s with ctx := c }).homeBar c w 1 rRead .arm [a] = none) →
    Ends (.monitor h b) s fun t => t.ctx.mon = ⟨some (a / 32), false, false, false, s.tick⟩ ∧ CtxKept 0 c t.ctx ∧ SameBytes s t ∧
      tabFind (a / 128) (t.core (coreKey s.cur)).l1d = none) ∧
  (∀ h b s c, Starts (issueY 0x1C h b [b.b] b.d) s c →
    let ends := fun (n : Nat) =>
      exec (.waitm h b) s = .next (s.retired b.d { c.setS b.d (BitVec.ofNat 64 n) with mon := Monitor.zero })
    let m := c.mon
    (m.written = true → ends 0) ∧ (m.written = false → m.moved = true → ends 3) ∧
    (m.written = false → m.moved = false → m.evicted = true ∨ m.armed = none → ends 1) ∧
    (m.written = false → m.moved = false → m.evicted = false → m.armed ≠ none →
      exec (.waitm h b) s = .next { s with ctx := { c with
        wait := .waitm (if c.getS b.b = 0 then none else some (s.tick + (c.getS b.b).toNat)) } })) ∧
  (∀ h b s d, Waits s (.waitm (some d)) → s.ctx.mon.written = false → s.ctx.mon.moved = false → s.ctx.mon.evicted = false →
    s.ctx.mon.armed ≠ none → d ≤ s.tick →
    exec (.waitm h b) s = .next (s.retired b.d { s.ctx.setS b.d 2 with mon := Monitor.zero })) ∧
  (∀ h b s n d, Waits s (.waitmDone n d) → n < 16 → s.ctx.mon.written = false → s.ctx.mon.moved = false → s.ctx.mon.evicted = false →
    s.ctx.mon.armed ≠ none → let code := if n = 4 ∧ (∃ x, d = some x ∧ x ≤ s.tick) then 2 else n
    exec (.waitm h b) s = .next (s.retired b.d { s.ctx.setS b.d (BitVec.ofNat 64 code) with mon := Monitor.zero })) ∧
  (∀ h b s c a w en, Starts (issueY 0x17 h b [] b.d) s c → let u := { s with ctx := c }
    u.access c b.a b.imm.toNat 1 0 1 .query = .ok (w, en, [a]) →
    let resident := u.place (.member c.launch.uid) en w.buf c.launch.uid c.scrBytes w.off false ≠ .swap
    ∃ v : Word, exec (.locq h b) s = .next (s.retired b.d (c.setS b.d v)) ∧ let d := slotDie s.cur
      (locKind a = .dram → paStack a < 12 → v.toNat = homeDie a + a / 2 ^ 36 % 16 * 2 ^ 4 + ((a / 256 % 32) ^^^ (a / 8192 % 32)) * 2 ^ 8 +
        dieDist d (homeDie a) * 2 ^ 16 + (if homeDie a < 4 then 0 else 2 ^ 20) +
        (if resident ∧ (if homeDie a = d then tabFind (lineOf a) s.homeLines |>.isSome else tabFind (lineOf a) (s.die d).copies |>.isSome) = true
          then 2 ^ 24 else 0)) ∧
      (locKind a = .scratch → v.toNat = d + 15 * 2 ^ 4 + (if d < 4 then 0 else 2 ^ 20))) ∧
  (∀ h b s c a w en, Starts (issueY 0x5A h b [] 0) s c → let line := a / 128; let st := paStack (line * 128); let drop := b.fn.getLsbD 0
    capRights (c.getC b.a).val &&& 0xC ≠ 0 → ({ s with ctx := c }).storesTo line = false → s.openTxn line = none →
    ({ s with ctx := c }).access c b.a b.imm.toNat 1 0 1 .maintain = .ok (w, en, [a]) →
    let gone := fun (t : State) => tabFind line t.homeLines = none ∧ (∀ d, d < 8 → tabFind line (t.die d).copies = none) ∧
      ∀ n, tabFind line (t.core n).l1d = none
    let dirty := tabFind line s.homeLines = some true ∨ s.leaving line = true ∨ tabFind line (s.stack st).msc = some true
    (en.ty ≠ .global → en.ty ≠ .host → exec (.cwb h b) s = .next (s.retired 0 c)) ∧
    (en.ty = .global ∨ en.ty = .host → locKind a ≠ .dram → Ends (.cwb h b) s fun t => CtxKept 0 c t.ctx ∧ SameBytes s t ∧
      tabFind line t.homeLines ≠ some true ∧ (drop = true → gone t)) ∧
    (en.ty = .global ∨ en.ty = .host → locKind a = .dram → st < 12 →
      (drop = false → ¬ dirty → s.cwbBusy line = false → exec (.cwb h b) s = .next (s.retired 0 c)) ∧
      (drop = true ∨ dirty → s.Numbered → Ends (.cwb h b) s fun t => t.ctx.wait = .cwb line none ∧ t.ctx.regs = c.regs ∧ SameBytes s t ∧
        tabFind line t.homeLines ≠ some true ∧ (drop = true → gone t) ∧
        (tabFind line s.homeLines = some true → ∃ q ∈ (t.stack st).queue, q.who = .clean line s.cur c.launch.uid ∧ q.kind = 1 ∧ q.loc = line * 128 ∧
          q.nsect = 3 ∧ q.data = memBytes s.mem (line * 128) 128) ∧
        (drop = true → ∃ q ∈ (t.stack st).queue, q.who = .drop line s.cur c.launch.uid ∧ q.kind = 4 ∧ q.loc = line * 128)))) ∧
  (∀ h b s line, Waits s (.cwb line none) → (∃ w, checkCap s.ctx b.a b.imm.toNat 1 0 1 = .ok w) →
    (s.cwbBusy line = true → exec (.cwb h b) s = .next s) ∧ (s.cwbBusy line = false → exec (.cwb h b) s = .next (s.retired 0 s.ctx))) ∧
  (∀ h b s c, Starts (issueM 0x5B h b []) s c → c.regs.csr.harness = false →
    Ends (.pref h b) s fun t => CtxKept 0 c t.ctx ∧ t.ctx.regs.csr.regionno = c.regs.csr.regionno ∧ t.ctx.regs.csr.vflags = c.regs.csr.vflags ∧
      SameBytes s t)

/-! ### Vector words (03, 04 R97, R98; 23, 24) -/

/-- R97, R98, R113: the element loop: an active element from VSTART to VL − 1 receives its result, a masked-off one is kept, or zeroed with
MZ; every other element, every block scale and every other register is kept; VD gets the type, VSTART becomes 0 and the flags of the active
elements reach VFLAGS. -/
def Obligations.ElementLoop : Prop :=
  ∀ (c : Ctx) (b : FmtV) (t : Ety) (f : Nat → Nat × Flags), c.vl * t.width ≤ 65536 → c.vl ≤ 8192 →
    let r := c.laneWrite b t f; let v := c.getV b.vd.toNat; let u := r.getV b.vd.toNat
    let act := fun i => c.vstart ≤ i ∧ i < c.vl ∧ (c.getM b.mask.toNat).getLsbD i = true
    let off := fun i => c.vstart ≤ i ∧ i < c.vl ∧ (c.getM b.mask.toNat).getLsbD i = false
    u.ty = t ∧ u.scales = v.scales ∧ r.vstart = 0 ∧ OnlyV b.vd.toNat c r ∧
    (∀ i, act i → u.elem t.width i = (f i).1 % 2 ^ t.width) ∧
    (∀ i, off i → b.mz = 1 → u.elem t.width i = 0) ∧ (∀ i, off i → b.mz = 0 → u.elem t.width i = v.elem t.width i) ∧
    (∀ i, (i + 1) * t.width ≤ 65536 → i < c.vstart ∨ c.vl ≤ i → u.elem t.width i = v.elem t.width i) ∧
    (∀ k, r.regs.csr.vflags.getLsbD k = true ↔ c.regs.csr.vflags.getLsbD k = true ∨ ∃ i, act i ∧ (f i).2.getLsbD k = true)

/-- R443, R444, R460, R461: the two-operand words in both forms. -/
def Obligations.VectorTwoOperand : Prop :=
  let both := fun (mk mks : Hdr → FmtV → Instr) (op : BitVec 8) (ok : Ety → Bool) (fl : Rounding → Exact → Exact → Exact × Flags)
      (int : Nat → Bool → Int → Int → Nat) => CompletesV2 mk op false ok fl int ∧ CompletesV2 mks (op + 1) true ok fl int
  let bits := fun (mk mks : Hdr → FmtV → Instr) (op : BitVec 8) (f : Nat → Nat → Nat) =>
      CompletesVBits mk op false f ∧ CompletesVBits mks (op + 1) true f
  let none_ : Rounding → Exact → Exact → Exact × Flags := fun _ x _ => (x, 0)
  let cnt := fun (w : Nat) (y : Int) => (y % (w : Int)).toNat
  both .vadd .vaddVs 0x80 Ety.isPlain (fun rd x y => x.add rd y) (fun w sat x y => intElem w sat (x + y)) ∧
  both .vsub .vsubVs 0x82 Ety.isPlain (fun rd x y => x.add rd y.neg) (fun w sat x y => intElem w sat (x - y)) ∧
  both .vmul .vmulVs 0x84 Ety.isPlain (fun _ x y => x.mul y) (fun w sat x y => intElem w sat (x * y)) ∧
  both .vdiv .vdivVs 0x8C Ety.isPlain (fun _ x y => x.div y) (fun w sat x y => if y = 0 then 2 ^ w - 1 else intElem w sat (x.tdiv y)) ∧
  both .vmin .vminVs 0x8E Ety.isPlain opMin.fl (fun w _ x y => intElem w false (min x y)) ∧
  both .vmax .vmaxVs 0x90 Ety.isPlain opMax.fl (fun w _ x y => intElem w false (max x y)) ∧
  bits .vand .vandVs 0x92 (fun x y => x &&& y) ∧ bits .vor .vorVs 0x94 (fun x y => x ||| y) ∧
  bits .vxor .vxorVs 0x96 (fun x y => x ^^^ y) ∧
  both .vshl .vshlVs 0x98 Ety.isInt none_ (fun w sat x y => intElem w sat (x * 2 ^ cnt w y)) ∧
  both .vshr .vshrVs 0x9A Ety.isInt none_ (fun w _ x y => (x % (2 : Int) ^ w).toNat / 2 ^ cnt w y) ∧
  both .vshra .vshraVs 0x9C Ety.isInt none_ (fun w _ x y => intElem w false (x / 2 ^ cnt w y)) ∧
  both .vmulh .vmulhVs 0x9E Ety.isInt none_ (fun w _ x y => intElem w false (x * y / 2 ^ w)) ∧
  both .vclamp .vclampVs 0xA2 Ety.isPlain opClamp.fl
    (fun w _ x y => let b : Int := min (y.natAbs : Int) ((2 : Int) ^ (w - 1) - 1); intElem w false (max (-b) (min b x)))

/-- R443, R452, R460, R466: the fused words, the one-operand words and VSEL. -/
def Obligations.VectorFusedAndUnary : Prop :=
  let one := fun (int : Nat → Bool → Int → Nat) (fl : Exact → Exact × Flags) (b : FmtV) (t : Ety) (x : Nat) =>
    if t.isInt then (int t.width (b.sat == 1) (sintOf t.width x), (0 : Flags)) else laneRound b t (fl (laneF b t x))
  (CompletesV3 .vfma 0x86 false (fun rd x y z => Exact.fma rd x y z) (fun x y z => x * y + z) ∧
   CompletesV3 .vfmaVs 0x87 true (fun rd x y z => Exact.fma rd x y z) (fun x y z => x * y + z)) ∧
  (CompletesV3 .vfms 0x88 false (fun rd x y z => Exact.fma rd x y z.neg) (fun x y z => x * y - z) ∧
   CompletesV3 .vfmsVs 0x89 true (fun rd x y z => Exact.fma rd x y z.neg) (fun x y z => x * y - z)) ∧
  (CompletesV3 .vfnma 0x8A false (fun rd x y z => Exact.fma rd x.neg y z) (fun x y z => z - x * y) ∧
   CompletesV3 .vfnmaVs 0x8B true (fun rd x y z => Exact.fma rd x.neg y z) (fun x y z => z - x * y)) ∧
  CompletesV1 .vabs 0xA5 Ety.isPlain (one (fun w sat x => intElem w sat (x.natAbs : Int)) fun x => (x.abs, 0)) ∧
  CompletesV1 .vneg 0xA6 Ety.isPlain (one (fun w sat x => intElem w sat (-x)) fun x => (x.neg, 0)) ∧
  CompletesV1 .vsqrt 0xA7 Ety.isFloat (fun b t x => laneRound b t (laneF b t x).sqrt) ∧
  CompletesV1 .vclz 0xBA Ety.isInt (fun _ t x => (t.width - (if x = 0 then 0 else Nat.log2 x + 1), 0)) ∧
  CompletesV1 .vpopc 0xBB Ety.isInt (fun _ t x => (((List.range t.width).filter fun i => x.testBit i).length, 0)) ∧
  (∀ h b s c, Starts (issueV 0xA4 h b [] 0 [b.vd, b.va, b.vb] .lane) s c → let t := (c.getV b.va.toNat).ty
    t.isPlain = true → (c.getV b.vb.toNat).ty = t → c.vl ≤ c.capacity t →
    exec (.vsel h b) s = .next (s.retired 0 (c.laneWrite b t fun i =>
      (if (c.getM b.vc.toNat).getLsbD i then laneX b c t i else laneY false b c t i, 0))))

/-- R447, R449, R454, R469: VCMP, VCVT, VSPLAT and VIOTA. Between two types VCVT clamps to CLAMPB (R61); between equal float types it does not. -/
def Obligations.VectorCompareAndConvert : Prop :=
  let compares := fun (i : Instr) (w : Issue) (vs : Bool) (b : FmtV) => ∀ s c, Starts w s c → let t := (c.getV b.va.toNat).ty
    vcmpLegal t b.fn.toNat = true → (vs = false → (c.getV b.vb.toNat).ty = t) → c.vl ≤ c.capacity t → c.vstart ≤ c.vl → c.vl ≤ 8192 →
    b.vd ≠ 0 → b.vd.toNat < 8 → Ends i s fun r => let m := r.ctx.getM b.vd.toNat; let k := c.getM b.mask.toNat
      (∀ e, c.vstart ≤ e → e < c.vl → k.getLsbD e = true → m.getLsbD e = (
        let x := laneX b c t e; let y := laneY vs b c t e
        if t.isInt then (vcmpInt b.fn.toNat t.width x y) else (vcmpFloat b.fn.toNat (laneF b t x) (laneF b t y)).1)) ∧
      (∀ e, c.vstart ≤ e → e < c.vl → k.getLsbD e = false → m.getLsbD e = (if b.mz = 1 then false else (c.getM b.vd.toNat).getLsbD e)) ∧
      (∀ e, e < c.vstart → m.getLsbD e = (c.getM b.vd.toNat).getLsbD e) ∧ (∀ e, c.vl ≤ e → m.getLsbD e = false) ∧
      r.ctx.vstart = 0 ∧ OnlyCtx s r ∧ (∀ n, r.ctx.getS n = c.getS n) ∧ (∀ n, r.ctx.getV n = c.getV n) ∧
      (∀ n, n ≠ b.vd.toNat → r.ctx.getM n = c.getM n)
  (∀ h b, compares (.vcmp h b) (issueV 0xA0 h b [] 0 [b.va, b.vb] .lane) false b) ∧
  (∀ h b, compares (.vcmpVs h b) (issueV 0xA1 h b [b.vb] 0 [b.va] .lane) true b) ∧
  (∀ h b s c, Starts (issueV 0xA8 h b [] 0 [b.vd, b.va] .lane) s c → let v := c.getV b.va.toNat; let t := Ety.ofTag b.fn.toNat
    v.ty ≠ .invalid → c.vl ≤ c.capacity v.ty → c.vl ≤ c.capacity t →
    (t.isSE = false → exec (.vcvt h b) s = .next (s.retired 0 (c.laneWrite b t fun i =>
      if v.ty.isInt && t.isInt then (intElem t.width (b.sat == 1) (v.sint i), 0)
      else roundTo t (Rounding.ofRM b.rm) (b.sat == 1) (b.ftzo == 1) (if v.ty = t then none else some (clampBound c.regs.csr.clampb))
        (v.read (b.ftzi == 1) i)))) ∧
    (t.isSE = true → c.vstart = 0 → c.vl ≤ 8192 → b.ftzi = 0 → Ends (.vcvt h b) s fun r => let u := r.ctx.getV b.vd.toNat
      u.ty = t ∧ ∀ j, j < (c.vl + 15) / 16 →
        let k := (cvtBlock v.ty t v c.vl (clampBound c.regs.csr.clampb) [] j).1
        u.scale j = k.scale ∧ ∀ i, i < 16 → u.elem 8 (16 * j + i) = nthD 0 k.slots i % 256)) ∧
  (∀ h b s c, Starts (issueV 0xA9 h b [] 0 [b.vd, b.va] .lane) s c → let v := c.getV b.va.toNat; let t := Ety.ofTag b.fn.toNat
    v.ty ≠ .invalid → c.vl ≤ c.capacity v.ty → c.vl ≤ c.capacity t → c.vstart = 0 → t.isSE = false →
    let d := srDraws v.ty.width 0 c.vl c.regs.g
    exec (.vcvtSr h b) s = .next (s.retired 0 ((c.upd fun r => { r with g := d.1 }).laneWrite b t fun i =>
      if v.ty.isInt && t.isInt then (intElem t.width (b.sat == 1) (v.sint i), 0)
      else roundTo t (nthD .rne d.2 i) (b.sat == 1) (b.ftzo == 1) (if v.ty = t then none else some (clampBound c.regs.csr.clampb))
        (v.read (b.ftzi == 1) i)))) ∧
  (∀ h b s c, Starts (issueV 0xAA h b [b.vb] 0 [b.vd] .lane) s c → let t := Ety.ofTag b.fn.toNat
    c.vl ≤ c.capacity t →
    exec (.vsplat h b) s = .next (s.retired 0 (c.laneWrite b t fun _ => ((c.getS b.vb).toNat % 2 ^ t.width, 0)))) ∧
  (∀ h b s c, Starts (issueV 0xB1 h b [] 0 [b.vd] .lane) s c → let t := Ety.ofTag b.fn.toNat
    c.vl ≤ c.capacity t →
    exec (.viota h b) s = .next (s.retired 0 (c.laneWrite b t fun i =>
      if t.isInt then (intElem t.width (b.sat == 1) (b.imm.toNat + i : Nat), 0)
      else laneRound b t (Exact.ofInt (b.imm.toNat + i : Nat), 0))))

/-- R69, R70, R450, R465: VRED, VSCAN and VDOT: the integer sums are exact modulo the width; the float ones are the tree sums. -/
def Obligations.VectorSums : Prop :=
  (∀ h b s c, Starts (issueV 0xAB h b [] 0 [b.vd, b.va] .lane) s c → let t := (c.getV b.va.toNat).ty
    t.isPlain = true → c.vl ≤ c.capacity t → c.vstart = 0 → Ends (.vred h b) s fun r => let u := r.ctx.getV b.vd.toNat
      u.ty = t ∧ u.elem t.width 0 = (treeBits b c t c.vl).1 % 2 ^ t.width ∧
      (∀ i, 0 < i → (i + 1) * t.width ≤ c.len * 32 → u.elem t.width i = 0) ∧
      r.ctx.regs.csr.vflags = c.regs.csr.vflags ||| (treeBits b c t c.vl).2 ∧ OnlyCtx s r ∧ ∀ n, n ≠ b.vd.toNat → r.ctx.getV n = c.getV n) ∧
  (∀ h b s c, Starts (issueV 0xAC h b [] 0 [b.vd, b.va] .lane) s c → let t := (c.getV b.va.toNat).ty
    t.isPlain = true → c.vl ≤ c.capacity t → c.vl * t.width ≤ 65536 → c.vl ≤ 8192 → c.vstart = 0 → Ends (.vscan h b) s fun r =>
      let u := r.ctx.getV b.vd.toNat
      u.ty = t ∧ (∀ i, i < c.vl → u.elem t.width i = (treeBits b c t (i + 1)).1 % 2 ^ t.width) ∧
      (∀ i, c.vl ≤ i → (i + 1) * t.width ≤ 65536 → u.elem t.width i = (c.getV b.vd.toNat).elem t.width i) ∧
      u.scales = (c.getV b.vd.toNat).scales ∧ (∀ k, k < 5 → (r.ctx.regs.csr.vflags.getLsbD k = true ↔
        c.regs.csr.vflags.getLsbD k = true ∨ ∃ i, i < c.vl ∧ (treeBits b c t (i + 1)).2.getLsbD k = true)) ∧ OnlyCtx s r ∧
      ∀ n, n ≠ b.vd.toNat → r.ctx.getV n = c.getV n) ∧
  (∀ b c t n, t.isInt = true → b.sat = 0 → (treeBits b c t n).2 = 0 ∧
    (treeBits b c t n).1 = intElem t.width false (((List.range n).map fun i =>
      if (c.getM b.mask.toNat).getLsbD i then sintOf t.width (laneX b c t i) else 0).sum)) ∧
  (∀ h b s c, Starts (issueV 0xB2 h b [] 0 [b.vd, b.va, b.vb] .lane) s c → let t := (c.getV b.va.toNat).ty
    let seg := if b.imm = 0 then c.vl else b.imm.toNat
    t.isPlain = true → (c.getV b.vb.toNat).ty = t → c.vl ≤ c.capacity t → c.vstart = 0 → 0 < c.vl → c.vl % seg = 0 → c.vl / seg ≤ c.len →
    c.len ≤ 2048 → Ends (.vdot h b) s fun r => let u := r.ctx.getV b.vd.toNat
      u.ty = (if t.isInt then .i32 else .fp32) ∧
      (∀ j, j < c.vl / seg → u.elem 32 j = (dotBits b c t (j * seg) (j * seg + seg)).1 % 2 ^ 32 ∧
        (t.isInt = true → u.elem 32 j = intElem 32 false (((List.range seg).map fun i => let e := j * seg + i
          if (c.getM b.mask.toNat).getLsbD e then sintOf t.width (laneX b c t e) * sintOf t.width (laneY false b c t e) else 0).sum))) ∧
      (∀ j, c.vl / seg ≤ j → j < c.len → u.elem 32 j = 0) ∧ OnlyCtx s r ∧ ∀ n, n ≠ b.vd.toNat → r.ctx.getV n = c.getV n)

/-- R448, R453, R462 to R464: VSLIDE, VPERM, VCOMPRESS, VEXPAND, VGET and VPUT. Sources are read before any position is written. That a tagged
VGET reads its register and its index after the earlier use of TA has committed is the model's reading (log 22). -/
def Obligations.VectorMoves : Prop :=
  let moves := fun (i : Instr) (w : Issue) (b : FmtV) (ok : Ctx → Prop) (pick : Ctx → Nat → Option Nat) => ∀ s c, Starts w s c →
    let t := (c.getV b.va.toNat).ty; let v := c.getV b.vd.toNat
    t.isPlain = true → c.vl ≤ c.capacity t → c.vl * t.width ≤ 65536 → c.vl ≤ 8192 → c.vstart = 0 → ok c → Ends i s fun r =>
      let u := r.ctx.getV b.vd.toNat
      u.ty = t ∧ u.scales = v.scales ∧ OnlyCtx s r ∧ (∀ n, n ≠ b.vd.toNat → r.ctx.getV n = c.getV n) ∧
      (∀ e, e < c.vl → u.elem t.width e = match pick c e with
        | some x => x
        | none => if b.mz = 1 then 0 else v.elem t.width e) ∧
      (∀ e, c.vl ≤ e → (e + 1) * t.width ≤ 65536 → u.elem t.width e = v.elem t.width e)
  let below := fun (b : FmtV) (c : Ctx) (j : Int) => if 0 ≤ j ∧ j < c.vl then laneX b c (c.getV b.va.toNat).ty j.toNat else 0
  let set := fun (b : FmtV) (c : Ctx) (n : Nat) => (List.range n).filter fun i => (c.getM b.mask.toNat).getLsbD i
  (∀ h b, moves (.vslide h b) (issueV 0xAD h b [b.vb] 0 [b.vd, b.va] .lane) b (fun _ => True) fun c e =>
    let k : Int := ((c.getS b.vb).toNat + b.imm.toNat : Nat)
    if (c.getM b.mask.toNat).getLsbD e then some (below b c (if b.fn = 0 then (e : Int) - k else e + k)) else none) ∧
  (∀ h b, moves (.vperm h b) (issueV 0xAE h b [] 0 [b.vd, b.va, b.vb] .lane) b
    (fun c => (c.getV b.vb.toNat).ty.isInt = true ∧ c.vl ≤ c.capacity (c.getV b.vb.toNat).ty) fun c e =>
    if (c.getM b.mask.toNat).getLsbD e then
      some (below b c ((c.getV b.vb.toNat).elem (c.getV b.vb.toNat).ty.width e)) else none) ∧
  (∀ h b, moves (.vcompress h b) (issueV 0xBC h b [] 0 [b.vd, b.va] .lane) b (fun _ => True) fun c e =>
    (set b c c.vl)[e]?.map fun p => laneX b c (c.getV b.va.toNat).ty p) ∧
  (∀ h b, moves (.vexpand h b) (issueV 0xBD h b [] 0 [b.vd, b.va] .lane) b (fun _ => True) fun c e =>
    if (c.getM b.mask.toNat).getLsbD e then some (laneX b c (c.getV b.va.toNat).ty (set b c e).length) else none) ∧
  (∀ h b s c, Starts (issueV 0xAF h b [b.vb] (if h.ta = 0 then b.vd else 0) [b.va] .vgetput) s c → let v := c.getV b.va.toNat
    let k := c.afterAlloc h.ta.toNat; let u := k.getV b.va.toNat; let e := (k.getS b.vb).toNat + b.imm.toNat
    v.ty ≠ .invalid → e < c.capacity v.ty →
    (c.heldMeets b.va.toNat 1 = false →
      let x := if u.ty.isSE then BitVec.ofNat 64 (u.elem 8 e / 128 * 128 + u.elem 8 e % 2 ^ u.ty.seBits + (u.scale (e / 16)).toNat * 2 ^ 32)
        else BitVec.ofNat 64 (u.elem u.ty.width e)
      (h.ta = 0 → exec (.vget h b) s = .next (s.retired b.vd (c.setS b.vd x))) ∧
      (h.ta ≠ 0 → exec (.vget h b) s = .next (s.retired 0 (c.allocS h.ta.toNat b.vd x)))) ∧
    (∀ tile, c.regs.arr.held = some tile → c.heldMeets b.va.toNat 1 = true → h.ta ≠ 0 →
      let f := (b.va.toNat - tile.vd) * c.capacity u.ty + e
      f < tile.g * tile.n → exec (.vget h b) s = .next (s.retired 0 (c.finishMma.allocS h.ta.toNat b.vd
        (BitVec.ofNat 64 (getBits c.regs.arr.cells (32 * f) 32)))))) ∧
  (∀ h b s c, Starts (issueV 0xB0 h b [b.va, b.vb] 0 [b.vd] .vgetput) s c → let v := c.getV b.vd.toNat
    let e := (c.getS b.vb).toNat + b.imm.toNat; let w := v.ty.width
    v.ty ≠ .invalid → e < c.capacity v.ty → (e + 1) * w ≤ 65536 → c.heldMeets b.vd.toNat 1 = false → Ends (.vput h b) s fun r =>
      let u := r.ctx.getV b.vd.toNat
      u.ty = v.ty ∧ u.elem w e = (c.getS b.va).toNat % 2 ^ w ∧
      (∀ i, i ≠ e → (i + 1) * w ≤ 65536 → u.elem w i = v.elem w i) ∧
      (∀ j, j < 512 → u.scale j = if v.ty.isSE ∧ j = e / 16 then BitVec.ofNat 20 ((c.getS b.va).toNat / 2 ^ 32) else v.scale j) ∧
      OnlyCtx s r ∧ ∀ n, n ≠ b.vd.toNat → r.ctx.getV n = c.getV n)

/-- R45, R414, R415, R451: the mask words. -/
def Obligations.MaskWords : Prop :=
  (∀ h b s c, Starts (issueV 0xB3 h b [] 0 [] .lane) s c → c.vstart = 0 → c.vl ≤ 8192 → b.vd ≠ 0 → b.vd.toNat < 8 →
    Ends (.mop h b) s fun t => let m := t.ctx.getM b.vd.toNat
      (∀ i, i < c.vl → let x := (c.getM b.va.toNat).getLsbD i; let y := (c.getM b.vb.toNat).getLsbD i; let f := b.fn.toNat
        m.getLsbD i = if f = 0 then x && y else if f = 1 then x || y else if f = 2 then x ^^ y else if f = 3 then x && !y
          else if f = 4 then x || !y else if f = 5 then !(x && y) else if f = 6 then !(x || y) else !(x ^^ y)) ∧
      (∀ i, c.vl ≤ i → m.getLsbD i = false) ∧ OnlyCtx s t ∧ (∀ n, n ≠ b.vd.toNat → t.ctx.getM n = c.getM n) ∧
      (∀ n, t.ctx.getV n = c.getV n) ∧ ∀ n, t.ctx.getS n = c.getS n) ∧
  (∀ h b s c, c.vstart = 0 → let set := (List.range c.vl).filter fun i => (c.getM b.va.toNat).getLsbD i && (c.getM b.mask.toNat).getLsbD i
    (Starts (issueV 0xB4 h b [] b.vd [] .lane) s c → exec (.mpop h b) s = .next (s.retired b.vd (c.setS b.vd (BitVec.ofNat 64 set.length)))) ∧
    (Starts (issueV 0xB5 h b [] b.vd [] .lane) s c → exec (.vfirst h b) s = .next (s.retired b.vd (c.setS b.vd
      (match set with | i :: _ => BitVec.ofNat 64 i | [] => 0xFFFFFFFFFFFFFFFF)))))

/-- R39, R40, R47, R467, R468, R474: VSETL, VSETL.i, VTAG and VSETSHAPE. -/
def Obligations.LengthTagAndShape : Prop :=
  let setl := fun (i : Instr) (w : Issue) (d : RegNo) (n : Ctx → Nat) => ∀ s c, Starts w s c →
    (n c ≤ 8192 → exec i s = .next (s.retired d ((c.setVl (n c)).setS d (BitVec.ofNat 64 (n c))))) ∧
    (8192 < n c → exec i s = .next (s.trapped .vlRange (wInfo0 w.word) (wInfo1 w.word .vlRange c.vstart) c))
  (∀ h b, setl (.vsetl h b) (issueV 0xB7 h b [b.va] b.vd [] .other) b.vd fun c => (c.getS b.va).toNat) ∧
  (∀ h b, setl (.vsetlI h b) (issueV 0xB8 h b [] b.vd [] .other) b.vd fun _ => b.imm.toNat) ∧
  (∀ h b s c, Starts (issueV 0xB9 h b [] 0 [b.vd] .other) s c → let n := b.imm.toNat % 64 + 1
    (c.count < b.vd.toNat + n → let w := packV 0xB9 h b
      exec (.vtag h b) s = .next (s.trapped .type_ (wInfo0 w) (wInfo1 w .type_ c.vstart) c)) ∧
    (b.vd.toNat + n ≤ c.count → c.heldMeets b.vd.toNat n = false → Ends (.vtag h b) s fun t => OnlyCtx s t ∧
      (∀ k, b.vd.toNat ≤ k → k < b.vd.toNat + n → t.ctx.getV k = { c.getV k with ty := Ety.ofTag b.fn.toNat }) ∧
      (∀ k, k < b.vd.toNat ∨ b.vd.toNat + n ≤ k → t.ctx.getV k = c.getV k))) ∧
  (∀ h b s c, Starts (issueV 0xB6 h b [] b.vd [] .vshape) s c → let sh : BitVec 2 := BitVec.ofNat 2 b.imm.toNat
    let need := (shapeCount sh + 4) * shapeLen sh * 5
    (c.launch.vregKiB * 1024 < need → exec (.vsetshape h b) s = .next (s.retired b.vd (c.setS b.vd 0))) ∧
    (need ≤ c.launch.vregKiB * 1024 → ∃ u : Ctx, exec (.vsetshape h b) s = .next (s.retired b.vd (u.setS b.vd (BitVec.ofNat 64 (shapeLen sh)))) ∧
      u.regs.shape = sh ∧ (∀ n, u.getV n = VReg.zero) ∧ (∀ n, u.getSlot n = LSlot.zero) ∧ u.vl = 0 ∧ u.vstart = 0 ∧
      (∀ n, (u.getTag n).vec = true → (u.getTag n).st = .empty) ∧ (∀ n, (c.getTag n).vec = false → u.getTag n = c.getTag n) ∧
      (∀ n, u.getS n = c.getS n) ∧ (∀ n, u.getM n = c.getM n) ∧ ∀ n, u.getC n = c.getC n))

/-! ### The array (07, 22) -/

/-- R125, R132 to R135, R139, R141, R405, R410, R416, R418, R419, R428: MODE, MWLD, MDRAIN, MZERO, MSTAT and ROPE. -/
def Obligations.MatrixControl : Prop :=
  let drained := fun (c t : Ctx) => t.regs.arr.held = none ∧
    t.regs.arr.draining = (if c.regs.arr.held = none then c.regs.arr.draining else c.regs.arr.held) ∧
    (c.regs.arr.held = none → ∀ n, t.getV n = c.getV n) ∧
    ∀ d, c.regs.arr.held = some d → (∀ e, 0 < c.len → e < d.g * d.n → d.vd + e / c.len < 64 → t.flatBits d.vd 32 e = getBits c.regs.arr.cells (32 * e) 32) ∧
      ∀ n, (∀ e, e < d.g * d.n → n ≠ d.vd + e / c.len) → t.getV n = c.getV n
  let raises := fun (i : Instr) (w : IWord) (s : State) (c : Ctx) (k : Cause) =>
    exec i s = .next (s.trapped k (wInfo0 w) (wInfo1 w k c.vstart) c)
  let takes := fun (mk : Hdr → FmtX → Instr) (m : Nat) => ∀ h b s c, Starts (issueX 0xC0 h b 0 [] .modeArr) s c →
    (∀ n, (c.getTag n).vec = true → (c.getTag n).st = .empty) →
    (c.regs.arr.mode = m → exec (mk h b) s = .next (s.retired 0 c)) ∧
    (c.regs.arr.mode ≠ 0 → c.regs.arr.mode ≠ m → Ends (mk h b) s fun t =>
      t.ctx.regs.arr.mode = m ∧ t.ctx.regs.arr.weights = none ∧ drained c t.ctx ∧ SameBytes s t ∧ OnlyCtx s t) ∧
    (c.regs.arr.mode = 0 → (∀ n, (c.getTag n).vec = true → c.tagBusy n = false) →
      ((s.slot (slotMate s.cur)).runs = false ∨ ((s.ask s.cur true).core (coreKey s.cur)).loses (slotSide s.cur) = false) →
      (s.core (coreKey s.cur)).power.on s.tick = true →
      Ends (mk h b) s fun t => t.ctx.regs.arr.mode = m ∧ t.ctx.regs.arr.held = none ∧ t.ctx.regs.arr.weights = none ∧
        (t.core (coreKey s.cur)).lastOwner = some (slotSide s.cur == 1) ∧ (∀ n, t.ctx.getV n = c.getV n) ∧ SameBytes s t)
  (∀ h b s c, Starts (issueX 0xC0 h b 0 [] .other) s c →
    (c.regs.arr.mode = 0 → exec (.modeVec h b) s = .next (s.retired 0 c)) ∧
    (c.regs.arr.mode ≠ 0 → Ends (.modeVec h b) s fun t => t.ctx.regs.arr.mode = 0 ∧ t.ctx.regs.arr.weights = none ∧
      t.ctx.regs.arr.roped = false ∧ drained c t.ctx ∧ SameBytes s t)) ∧
  takes .modeWs 1 ∧ takes .modeRs 2 ∧
  (∀ h b s c, Starts (issueX 0xC2 h b 0 [b.vb] .matrix) s c → let t := (c.getV b.vb.toNat).ty; let n := b.rows * b.cols
    (c.regs.arr.mode ≠ 1 → raises (.mwld h b) (packX 0xC2 h b) s c .modeErr) ∧
    (c.regs.arr.mode = 1 → c.vstart = 0 → (pairStep t t).isSome = true → c.spanOk b.vb.toNat (groupSpan c.len n t.width) = true →
      (t.isSE = true → b.rows % 16 = 0) → Ends (.mwld h b) s fun r => OnlyCtx s r ∧ (∀ v, r.ctx.getV v = c.getV v) ∧
        ∃ w, r.ctx.regs.arr.weights = some w ∧ w.ty = t ∧ w.k = b.rows ∧ w.n = b.cols ∧
          (∀ e, e < n → getBits w.data (t.width * e) t.width = c.flatBits b.vb.toNat t.width e) ∧
          (t.isSE = true → ∀ j, 16 * j < n → w.scales.extractLsb' (20 * j) 20 =
            (c.getV (b.vb.toNat + 16 * j / c.capacity t)).scale (16 * j % c.capacity t / 16)))) ∧
  (∀ h b s c, Starts (issueX 0xC3 h b 0 [b.vd] .matrix) s c →
    (c.regs.arr.mode = 0 → raises (.mdrain h b) (packX 0xC3 h b) s c .modeErr) ∧
    (c.regs.arr.mode = 1 ∨ (c.regs.arr.mode ≠ 0 ∧ c.regs.arr.held = none) → exec (.mdrain h b) s = .next (s.retired 0 c)) ∧
    (2 ≤ c.regs.arr.mode → c.regs.arr.held = some b.tile → Ends (.mdrain h b) s fun t => OnlyCtx s t ∧ drained c t.ctx) ∧
    (∀ d, 2 ≤ c.regs.arr.mode → c.regs.arr.held = some d → d ≠ b.tile → raises (.mdrain h b) (packX 0xC3 h b) s c .arrayHeld)) ∧
  (∀ h b s c, Starts (issueX 0xC4 h b 0 [b.vd] .matrix) s c → let n := c.tileSpan b.tile
    let ty : Ety := if (c.getV b.vd.toNat).ty.isInt then .i32 else .fp32
    (c.regs.arr.mode = 0 → raises (.mzero h b) (packX 0xC4 h b) s c .modeErr) ∧
    (c.regs.arr.mode = 2 → b.vd.toNat + n ≤ c.count → c.regs.arr.held = some b.tile ∨ c.heldMeets b.vd.toNat n = false →
      Ends (.mzero h b) s fun t => OnlyCtx s t ∧ t.ctx.regs.arr.held = some b.tile ∧ t.ctx.regs.arr.cells = 0 ∧
        ∀ k, k < n → (t.ctx.getV (b.vd.toNat + k)).ty = ty) ∧
    (c.regs.arr.mode = 1 → b.vd.toNat + n ≤ c.count → Ends (.mzero h b) s fun t => OnlyCtx s t ∧
        t.ctx.regs.arr = { c.regs.arr with draining := t.ctx.regs.arr.draining } ∧
        (t.ctx.regs.arr.draining = c.regs.arr.draining ∨ t.ctx.regs.arr.draining = none) ∧
        (∀ e, e < b.rows * b.cols → t.ctx.flatBits b.vd.toNat 32 e = 0) ∧ (∀ k, k < n → (t.ctx.getV (b.vd.toNat + k)).ty = ty) ∧
        ∀ k, k < b.vd.toNat ∨ b.vd.toNat + n ≤ k → t.ctx.getV k = c.getV k)) ∧
  (∀ h b s c, Starts (issueX 0xC8 h b b.vd [] .mstat) s c → b.imm.toNat ≤ 3 → let a := c.regs.arr
    exec (.mstat h b) s = .next (s.retired b.vd (c.setS b.vd (BitVec.ofNat 64 (
      if b.imm = 0 then a.mode % 4 + (if a.draining.isSome then 4 else 0) + (if a.roped then 8 else 0) +
        (match a.held with | some d => 16 + d.vd * 256 + (d.g - 1) * 2 ^ 16 + (d.n - 1) * 2 ^ 24 | none => 0)
      else if b.imm = 1 then
        (match a.weights with | some w => 1 + w.ty.tag * 16 + (w.k - 1) * 256 + (w.n - 1) * 2 ^ 16 | none => 0)
      else if b.imm = 2 then
        (if a.roped then a.ropeL + a.ropeP * 16 + (if ropeCrosses s.cur a.ropeL a.ropeP then 256 else 0) else 0)
      else 4096 + 256 * 2 ^ 16))))) ∧
  (∀ h b s c, Starts (issueX 0xC5 h b 0 [] .matrix) s c → let l := b.ropeL; let p := b.ropeP
    let at_ := fun (q : Nat) (core : Nat × Nat) (side : Nat) =>
      (s.slot (slotIndex core.1 core.2 side)).waitsRope s.tick c.launch.vf c.launch.team32 l q
    (c.regs.arr.mode = 0 → raises (.rope h b) (packX 0xC5 h b) s c .modeErr) ∧
    (c.regs.arr.mode ≠ 0 → l = 1 → Ends (.rope h b) s fun t => t.ctx.regs.arr.roped = false ∧
      t.ctx.regs.csr.retired = c.regs.csr.retired + 1 ∧ SameBytes s t) ∧
    (c.regs.arr.mode ≠ 0 → c.regs.arr.roped = false → 1 < l → (∀ q, q < l → (chainCore s.cur p q).isSome = true) →
      (∃ q core, q < l ∧ q ≠ p ∧ chainCore s.cur p q = some core ∧ at_ q core 0 = false ∧ at_ q core 1 = false) →
      exec (.rope h b) s = .next { s with ctx := { c with wait := .rope l p s.tick } }) ∧
    (c.regs.arr.mode ≠ 0 → c.regs.arr.roped = false → c.launch.team = true → 1 < l → p < l → (s.slot (slotMate s.cur)).wait = .none_ →
      s.cur < 2048 → (∀ q, q < l → ∃ core, chainCore s.cur p q = some core ∧ (q ≠ p → at_ q core 0 = true ∨ at_ q core 1 = true)) →
      Ends (.rope h b) s fun t => t.ctx.regs.arr.roped = true ∧ t.ctx.regs.arr.ropeL = l ∧ t.ctx.regs.arr.ropeP = p ∧
        t.ctx.regs.csr.retired = c.regs.csr.retired + 1 ∧ SameBytes s t))

/-- R71, R132, R133, R406 to R408: MMA without a rope, from its issue and from each step at which it stands. In RS one step of k over every
cell of the tile; in WS every k of one row. I8 sums are exact modulo 2^32; a step of BF16 or FP16 adds one exact product, rounded once. -/
def Obligations.MatrixMultiply : Prop :=
  (∀ h b s c, Starts (issueX 0xC1 h b 0 (mmaRegs b s.ctx) .matrix) s c → let w := packX 0xC1 h b
    (∀ k, c.regs.arr.roped = false → c.mmaCheck b = some k → exec (.mma h b) s = .next (s.trapped k (wInfo0 w) (wInfo1 w k c.vstart) c)) ∧
    (∀ k, c.regs.arr.roped = true → c.mmaCheckA b = some k → exec (.mma h b) s = .next (s.trapped k (wInfo0 w) (wInfo1 w k c.vstart) c))) ∧
  (∀ h b s c, Starts (issueX 0xC1 h b 0 (mmaRegs b s.ctx) .matrix) s c ∨ (Waits s .mma ∧ c = s.ctx) →
    let x := mmaIn c b.va.toNat c b; let v := c.vstart; let vd := b.vd.toNat
    (c.mmaCheck b = none → c.regs.arr.roped = false → c.regs.arr.mode = 2 → Ends (.mma h b) s fun t =>
      OnlyCtx s t ∧ t.ctx.regs.arr.held = some b.tile ∧ t.ctx.regs.arr.weights = c.regs.arr.weights ∧
      (x.k ≤ v + x.step → t.ctx.vstart = 0 ∧ t.ctx.regs.csr.retired = c.regs.csr.retired + 1) ∧
      (v + x.step < x.k → t.ctx.vstart = v + x.step ∧ t.ctx.regs.csr.retired = c.regs.csr.retired ∧ t.ctx.regs.pc = c.regs.pc ∧
        t.ctx.wait = .mma) ∧
      ∀ i j, i < b.rows → j < b.cols → v < x.k → let e := i * b.cols + j
        let old := if c.regs.arr.held = some b.tile then getBits c.regs.arr.cells (32 * e) 32 else c.flatBits vd 32 e
        getBits t.ctx.regs.arr.cells (32 * e) 32 = (x.cell i j v old).1 % 2 ^ 32) ∧
    (c.mmaCheck b = none → c.regs.arr.roped = false → c.regs.arr.mode = 1 → Ends (.mma h b) s fun t =>
      OnlyCtx s t ∧ t.ctx.regs.arr.held = c.regs.arr.held ∧ t.ctx.regs.arr.weights = c.regs.arr.weights ∧
      (x.m ≤ v + 1 → t.ctx.vstart = 0 ∧ t.ctx.regs.csr.retired = c.regs.csr.retired + 1) ∧
      (v + 1 < x.m → t.ctx.vstart = v + 1 ∧ t.ctx.regs.csr.retired = c.regs.csr.retired ∧ t.ctx.regs.pc = c.regs.pc ∧ t.ctx.wait = .mma) ∧
      ∀ i j, i < b.rows → j < b.cols → let e := i * b.cols + j
        t.ctx.flatBits vd 32 e = if i = v then (x.column i j (c.flatBits vd 32 e)).1 % 2 ^ 32 else c.flatBits vd 32 e)) ∧
  (∀ (x : MmaIn) (i j k old : Nat), x.ta = .bf16 ∨ x.ta = .fp16 → x.step = 1 → k < x.k →
    let sum := (Ety.fp32.fmt.decode old).add .rne ((x.a i k).mul (x.b k j)).1
    (x.cell i j k old).1 = (roundFloat Ety.fp32.fmt .rne false false sum.1).1) ∧
  (∀ (x : MmaIn) (i j k old : Nat), x.ta = .i8 → old < 2 ^ 32 →
    (x.cell i j k old).1 = intElem 32 false (sintOf 32 old + ((x.ks k).map fun q => x.ai i q * x.bi q j).sum) ∧
    (0 < x.step → (x.column i j old).1 = intElem 32 false (sintOf 32 old + ((List.range x.k).map fun q => x.ai i q * x.bi q j).sum)))

/-- R222 to R227, R431, R432: SFN leaves its element results in a landing slot under TA, with its flags; SFLOAD loads a program. -/
def Obligations.SfnWords : Prop :=
  (∀ h b s c, Starts (issueS 0xC6 h b [b.vd, b.va] .vprod) s c → let t := (c.getV b.va.toNat).ty; let n := h.ta.toNat
    let act := fun i => i < c.vl ∧ (c.getM b.mask.toNat).getLsbD i = true; let k := c.retag n
    n ≠ 0 → c.noSlot n = false → (c.getTag n).slot < 4 → t.isFloat = true → t.width ≠ 8 → c.vl ≤ c.capacity t → c.vstart = 0 →
    Ends (.sfn h b) s fun r => let g := r.ctx.getTag n; let l := r.ctx.getSlot g.slot
      g.st = .pending ∧ g.dst = b.vd ∧ g.vec = true ∧ g.sfn = true ∧ l.ty = t ∧ l.blks = 0 ∧
      (∀ i, act i → getBits l.data (i * t.width) t.width = (k.sfnElem b t i).1 % 2 ^ t.width) ∧
      (∀ i, i < c.vl → ¬ act i → getBits l.data (i * t.width) t.width = 0) ∧
      (∀ i, i < 8192 → (l.pos.getLsbD i = true ↔ i < c.vl ∧ (b.mz = 1 ∨ act i))) ∧
      (∀ q, g.flags.getLsbD q = true ↔ ∃ i, act i ∧ (k.sfnElem b t i).2.getLsbD q = true) ∧
      OnlyCtx s r ∧ r.ctx.regs.csr.vflags = k.regs.csr.vflags ∧ (∀ m, r.ctx.getV m = k.getV m) ∧ (∀ m, r.ctx.getS m = k.getS m)) ∧
  (∀ (c : Ctx) (fid : Nat) (x : Exact), ((13 ≤ fid ∧ fid < 16) ∨ (16 ≤ fid ∧ (c.regs.tie[fid - 16]?).getD none = none)) →
    c.sfnEval fid x = (0x7FC00000, fNV)) ∧
  (∀ (c : Ctx) (x : Exact), x.isNan = false → x.isInf = false → x.isZero = false → x.isNeg = false →
    (c.sfnEval 4 x).1 = (roundFloat Ety.fp32.fmt .rne false false x.sqrt.1).1) ∧
  (∀ h b s c steps tab, Starts (issueS 0xC7 h b [b.va] .other) s c → let v := c.getV b.va.toNat
    c.heldMeets b.va.toNat 1 = false → v.ty = .i32 → c.vstart = 0 → 1 ≤ steps → steps ≤ 16 → tab ≤ 192 → c.vl = 1 + steps + tab →
    v.elem 32 0 = steps + tab * 2 ^ 16 → (∀ i, 1 ≤ i → i ≤ steps → microWordOk (BitVec.ofNat 32 (v.elem 32 i)) = true) →
    16 ≤ b.fid.toNat → b.fid.toNat < 32 → Ends (.sfload h b) s fun r =>
      (∃ p : TieProg, r.ctx.regs.tie[b.fid.toNat - 16]? = some (some p) ∧ p.steps.length = steps ∧ p.tab.length = tab ∧
        (∀ i, i < steps → p.steps[i]? = some (BitVec.ofNat 32 (v.elem 32 (1 + i)))) ∧
        (∀ i, i < tab → p.tab[i]? = some (BitVec.ofNat 32 (v.elem 32 (1 + steps + i))))) ∧
      (∀ i, i ≠ b.fid.toNat - 16 → r.ctx.regs.tie[i]? = c.regs.tie[i]?) ∧ OnlyCtx s r ∧ (∀ m, r.ctx.getV m = c.getV m) ∧
      ∀ m, (r.ctx.getTag m).sfn = false ∨ (r.ctx.getTag m).st ≠ .pending)

/-! ### Tasks (15, 21, 24) -/

/-- R286 to R288, R391, R478: HALT, YIELD and LAUNCH. That HALT ends with every result of a tag landed is the model's reading (log 76). -/
def Obligations.TaskWords : Prop :=
  (∀ h b s c, Starts (issueY 0x02 h b [] 0) s c → c.deliverTags.regs.deferred = none → (∀ ch f, ch < 4 → (c.chan ch).fault ≠ some f) →
    ({ s with ctx := c }).quiet s.cur = true → Ends (.halt h b) s fun t =>
      t.ctx.bind.st = .halted ∧ t.ctx.regs.arr.mode = 0 ∧ t.ctx.regs.arr.held = none ∧
      t.ctx.regs.csr.retired = c.regs.csr.retired + 1 ∧ (∀ n, t.ctx.getS n = c.getS n) ∧
      (∀ n, 0 < n → n < 16 → (t.ctx.getTag n).st ≠ .pending) ∧ SameBytes s t) ∧
  (∀ h b s c, Starts (issueY 0x12 h b [] 0) s c → let u := { s with ctx := c }
    (u.yieldsTo s.cur = none → exec (.yield h b) s = .next (s.retired 0 c)) ∧
    (∀ uid, u.yieldsTo s.cur = some uid → c.launch.team = false → Ends (.yield h b) s fun t =>
      t.ctx.bind.st = .save ∧ t.ctx.saveWhy = .yield ∧ t.ctx.regs.csr.retired = c.regs.csr.retired + 1 ∧
      tabFind s.cur t.claims = some (uid, c.launch.uid) ∧ SameBytes s t)) ∧
  (∀ h b s c a, Starts (issueY 0x18 h b [] b.d) s c → Released s c 4 → c.out = [] → c.regs.csr.regionno ≠ 0xFFFF → let u := { s with ctx := c }
    (∃ w en, checkCap c b.a b.imm.toNat 256 (rRead ||| rWrite) 256 = .ok w ∧
      u.translate c w 256 (rRead ||| rWrite) .read = .ok (en, countFrom a 256) ∧ en.ty = .scratch) →
    locKind a = .scratch → a % 256 = 0 → c.copyWait (scratchOff a) 128 false = false → c.copyWait (scratchOff a + 128) 128 false = false →
    let bs := memBytes s.mem a 256; let cap := (c.getC b.a).val; let l := c.launch; let kids := s.nodes.filter fun n => n.parent == some l.uid
    let ends := fun (v : Word) (P : State → Prop) => Ends (.launch h b) s fun t =>
      CtxKept 0 (c.setS b.d v) t.ctx ∧ t.ctx.regs.csr.regionno = c.regs.csr.regionno + 1 ∧ P t
    (launchOk bs l.captab.length (capLen cap) = false → ends 2 fun t => t.nodes = s.nodes ∧ SameBytes s t) ∧
    (launchOk bs l.captab.length (capLen cap) = true → 64 ≤ kids.length → ends 1 fun t => t.nodes = s.nodes ∧ SameBytes s t) ∧
    (launchOk bs l.captab.length (capLen cap) = true → kids.length < 64 → (s.nodes.filter (·.vf == l.vf)).length < 4096 →
      l.captab.all capEntryOk = true → fieldAt bs 0x16 1 = 0 → (∀ m ∈ s.nodes, m.nid ≠ s.nextUid) →
      (∀ m ∈ s.nodes, m.vf = l.vf → m.node.toNat = fieldAt bs 4 4 → m.parent = none) →
      ends 0 fun t => SameBytes s t ∧ t.nextUid = s.nextUid + 1 ∧ ∃ n, t.nodes = s.nodes ++ [n] ∧ n.nid = s.nextUid ∧ n.vf = l.vf ∧
        n.node.toNat = fieldAt bs 4 4 ∧ n.parent = some l.uid ∧ n.prio = min (fieldAt bs 0x14 1) l.prio ∧
        n.ninst.toNat = fieldAt bs 0x10 4 ∧ n.captab = l.captab ∧ n.done = .buffer cap (fieldAt bs 0x30 8) ∧ n.order = some s.nextOrder ∧
        n.made = false))

/-! ### Events of the cores (02, 07 to 09, 15) -/

/-- R42, R49, R125, R127, R139, R147, R162, R173, R298, R351, R408: the events of a core, each where it is due; those that wait for time do
nothing before it. Cycles count as reference ticks (log 3, DESIGN CHOICE), and an array granted power that no context took loses it as one that
has returned to VEC (log 45, DEDUCED). -/
def Obligations.CoreEvents : Prop :=
  (∀ s k t, let c := s.slot k; let g := c.getTag t
    g.st = .pending → c.tagBusy t = false → Ends (.tagArrival k t) s fun r => SlotsBut k s r ∧ SameBytes s r ∧
      (r.slot k).getTag t = { g with st := .landed, sfn := false, flags := 0 } ∧ (∀ n, n ≠ t → (r.slot k).getTag n = c.getTag n) ∧
      (r.slot k).regs.csr.vflags = (if g.sfn then c.regs.csr.vflags ||| g.flags else c.regs.csr.vflags) ∧
      (∀ n, (r.slot k).getS n = c.getS n) ∧ ∀ n, (r.slot k).getV n = c.getV n) ∧
  (∀ s k, Ends (.drainComplete k) s (SlotIs k ((s.slot k).updArr fun a => { a with draining := none }) s)) ∧
  (∀ s k f, (s.slot k).regs.arr.mmaFlags = some f → Ends (.mmaFinish k) s
    (SlotIs k (((s.slot k).updCsr fun r => { r with vflags := r.vflags ||| f }).updArr fun a => { a with mmaFlags := none }) s)) ∧
  (∀ s k, Ends (.poolMove k) s (SlotIs k { s.slot k with moving := false } s)) ∧
  (∀ s d n l, d < 8 → (s.die d).arrQueue = n :: l →
    ((s.die d).arrGrant = 0 ∨ (s.die d).arrGrant + 8 ≤ s.tick → (s.die d).ceGrant ≠ s.tick ∨ s.tick = 0 → Ends (.arrayPowerGrant d) s fun t =>
      (t.core n).power = .granted s.tick ∧ (t.die d).arrQueue = l ∧ (t.die d).arrGrant = s.tick ∧ Quiet s t) ∧
    ((s.die d).arrGrant ≠ 0 → s.tick < (s.die d).arrGrant + 8 → exec (.arrayPowerGrant d) s = .next s) ∧
    ((s.die d).ceGrant = s.tick → s.tick ≠ 0 → exec (.arrayPowerGrant d) s = .next s)) ∧
  (∀ s d n x, let m := coreKey (slotIndex d n 0)
    (s.slot (2 * m)).regs.arr.mode = 0 → (s.slot (2 * m + 1)).regs.arr.mode = 0 → (s.core m).power = .idle x ∨ (s.core m).power = .granted x →
    (x + 256 < s.tick → Ends (.arrayPowerDown d n) s fun t => t.core m = { s.core m with power := .off } ∧ Quiet s t) ∧
    (s.tick ≤ x + 256 → exec (.arrayPowerDown d n) s = .next s)) ∧
  (∀ s k l p since, (s.slot k).wait = .rope l p since →
    (since + 4096 ≤ s.tick → Ends (.ropeTimeout k) s fun t => SameBytes s t ∧ ∀ j,
      t.slot j = if j = k ∨ j ∈ s.ropeWaiting k l p then { s.slot j with wait := .modeErr } else s.slot j) ∧
    (s.tick < since + 4096 → exec (.ropeTimeout k) s = .next s)) ∧
  (∀ s d n line x, let m := coreKey (slotIndex d n 0)
    tabFind line (s.core m).l1d = some x →
    (x.fill + 65536 ≤ s.tick → Ends (.l1dLineExpiry d n line) s fun t => Quiet s t ∧ tabFind line (t.core m).l1d = none ∧
      ∀ y, y ≠ line → tabFind y (t.core m).l1d = tabFind y (s.core m).l1d) ∧
    (s.tick < x.fill + 65536 → exec (.l1dLineExpiry d n line) s = .next s)) ∧
  (∀ s k, (s.slot k).wait = .regionWrap false → Ends (.regionWrapResume k) s fun t =>
    SlotIs k { s.slot k with wait := .regionWrap true } s t ∧ t.stamped k = false) ∧
  (∀ s k, let c := s.slot k
    (c.wdDue = true → Ends (.watchdog k) s fun t => SlotsBut k s t ∧ SameBytes s t ∧ let c1 := c.takeTrap .watchdog c.launch.wdLimit 0
      t.slot k = if c1.bind.st = .faulted then c1 else { c1 with bind := { c1.bind with wdleft := c.launch.wdLimit } }) ∧
    (c.wdDue = false → exec (.watchdog k) s = .next s) ∧
    (c.wdDue = true ↔ ((c.bind.st = .run ∧ ¬ (c.halt = true ∧ c.wait = .none_)) ∨ c.bind.st = .save) ∧ c.bind.wdleft = 0 ∧
      c.hasPassed = false)) ∧
  (∀ s k d, (s.slot k).wait = .waitm (some d) →
    (d ≤ s.tick → Ends (.waitmTimeout k) s (SlotIs k { s.slot k with wait := .waitmDone 2 (some d) } s)) ∧
    (s.tick < d → Ends (.waitmTimeout k) s (SlotIs k (s.slot k) s))) ∧
  (∀ s k d, (s.slot k).wait = .waitm d → Ends (.waitmWake k) s (SlotIs k { s.slot k with wait := .waitmDone 4 d } s))

/-! ### Events of the die links (09, 13) -/

/-- R181 to R184, R190, R193 to R197, R199, R200, R262, R357: the packets that arrive, the resending of requests, the stop and go
signals, and the write-back of a dirty line. The model's own readings: a barrier packet is answered by a write acknowledgement, and a die's own
packets wait behind 128 that have no answer (log 71); what a stopped receiver holds (log 42); an invalidation that is held, and one that
overtakes an answer (log 43). -/
def Obligations.LinkEvents : Prop :=
  (∀ s p r, Arrives s p (.read r) → AtHome s r → r.opc = 1 → Ends (.linkRead p) s fun t => Quiet s t ∧
    t.net = s.net.eraseIdx p ++ [.readData r (if r.fill then memBytes s.mem (lineOf r.loc * 128) 128 else memBytes s.mem r.loc r.size)] ∧
    (r.fill = true → r.src < 8 → (tabGet (0 : BitVec 8) t.presence (lineOf r.loc)).getLsbD r.src = true)) ∧
  (∀ s p r, Arrives s p (.write r) → r.opc = 2 →
    (AtHome s r → s.dup r = none → s.othersOf r = 0 → r.data.length = r.size → (r.bel = true → s.storeBars r = false) → Ends (.linkWrite p) s fun t =>
      memBytes t.mem r.loc r.size = r.data ∧ SameBytesBut r.loc r.size s t ∧ t.net = s.net.eraseIdx p ++ [.writeAck r] ∧
      tabFind (lineOf r.loc) t.homeLines = some true ∧
      ∀ k, (s.slot k).mon.armed = some (sectorOf r.loc) → (t.slot k).mon.written = true) ∧
    (∀ x, s.openTxn (lineOf r.loc) = none → s.dup r = some x → Ends (.linkWrite p) s fun t =>
      Quiet s t ∧ t.net = s.net.eraseIdx p ++ [x])) ∧
  (∀ s p r, Arrives s p (.atomic r) → AtHome s r → r.opc = 3 → s.dup r = none → s.othersOf r = 0 → s.storeBars r = false → r.size = 4 ∨ r.size = 8 →
    Ends (.linkAtomic p) s fun t => let bs := memBytes s.mem r.loc r.size; let old := numOf bs
      t.net = s.net.eraseIdx p ++ [.atomicResult r bs] ∧ SameBytesBut r.loc r.size s t ∧
      (if r.aop = 15 ∧ old ≠ r.cmp.toNat then SameBytes s t else numOf (memBytes t.mem r.loc r.size) =
        aopNew r.aop (8 * r.size) old r.opnd.toNat r.cmp.toNat % 2 ^ (8 * r.size))) ∧
  (∀ s p r, Arrives s p (.inval r) → let line := lineOf r.loc
    (s.holdsInv r.dst line = true → exec (.linkInvalidate p) s = .next s) ∧
    (s.holdsInv r.dst line = false → FirstCtl s r 4 → Ends (.linkInvalidate p) s fun t => Quiet s t ∧
      t.net = s.net.eraseIdx p ++ [.invalAck r] ∧
      ((∃ q ∈ s.reqs, q.src = r.dst ∧ q.opc = 2 ∧ q.bel = false ∧ lineOf q.loc = line) →
        line ∈ (t.die r.dst).heldInv ∧ (t.die r.dst).copies = (s.die r.dst).copies) ∧
      ((∀ q ∈ s.reqs, q.src = r.dst → q.opc = 2 → q.bel = false → lineOf q.loc ≠ line) → tabFind line (t.die r.dst).copies = none) ∧
      ∀ q ∈ t.reqs, q.src = r.dst → q.opc = 1 → lineOf q.loc = line → q.stale = true) ∧
    (∀ x, s.holdsInv r.dst line = false → r.ch = 6 → s.dup r = some x → Ends (.linkInvalidate p) s fun t => Quiet s t ∧
      t.net = s.net.eraseIdx p ++ [x])) ∧
  (∀ s p r b k, Arrives s p (.barArrival r) → FirstCtl s r 5 → r.bar = some b → s.teamSize r.vf b.node = some k → let m := s.team r.vf b.node
    (b.phase ≠ m.phase → Ends (.linkBarrierArrival p) s fun t => Quiet s t ∧ t.team r.vf b.node = m ∧
      t.net = s.net.eraseIdx p ++ [.writeAck r]) ∧
    (b.phase = m.phase → m.got + b.count < k → Ends (.linkBarrierArrival p) s fun t => Quiet s t ∧
      t.team r.vf b.node = { m with got := m.got + b.count } ∧ t.net = s.net.eraseIdx p ++ [.writeAck r]) ∧
    (b.phase = m.phase → k ≤ m.got + b.count → Ends (.linkBarrierArrival p) s fun t => SameBytes s t ∧
      (t.team r.vf b.node).phase = m.phase + 1 ∧ (t.team r.vf b.node).got = 0 ∧ (t.team r.vf b.node).arrived = [])) ∧
  (∀ s p r b j n, Arrives s p (.barRelease r) → FirstCtl s r 6 → r.bar = some b → s.windows = [] → n < 4 → let c := s.slot j
    slotDie j = r.dst → c.bound = true → c.launch.vf = r.vf → c.launch.team32 = b.node → c.wait = .hbar b.phase (BitVec.ofNat 2 n) →
    pitchNp (s.pitchReg r.dst (2 * n)) = 0 → Ends (.linkBarrierRelease p) s fun t => (t.slot j).wait = .hbarDone b.phase ∧ SameBytes s t) ∧
  (∀ s p r q data acc, Arrives s p (.readData r data) → Awaits s r q acc → r.opc = 1 →
    (r.fill = true → ∃ w ∈ s.l2Ways r.src r.vf, s.l2Line r.src (lineOf r.loc) w = none) → Ends (.linkReadData p) s fun t =>
    Hears r (.answered r.e acc q (if r.fill then (data.drop (r.loc % 128)).take r.size else data) none 0) s t ∧ t.net = s.net.eraseIdx p ∧
    (r.fill = true → r.stale = false → r.src ≠ r.dst → r.src < 8 → tabFind (lineOf r.loc) (t.die r.src).copies = some data) ∧
    (r.stale = true → r.src < 8 → (t.die r.src).copies = (s.die r.src).copies)) ∧
  (∀ s p r, Arrives s p (.writeAck r) → r.opc = 2 → r.fill = false →
    (∀ q acc, Awaits s r q acc → Ends (.linkWriteAck p) s fun t =>
      Hears r (.answered r.e acc q r.data none 0) s t ∧ t.net = s.net.eraseIdx p) ∧
    (r.ch = 0 → r.blk = false → r.out = 0 → s.holds r → Ends (.linkWriteAck p) s fun t => Quiet s t ∧
      t.reqs = (s.reqs.filter fun q => q.id != r.id) ∧ t.net = s.net.eraseIdx p)) ∧
  (∀ s p r q old acc, Arrives s p (.atomicResult r old) → Awaits s r q acc → r.opc = 3 → r.fill = false →
    Ends (.linkAtomicResult p) s fun t => Hears r (.answered r.e acc q old none 0) s t ∧ t.net = s.net.eraseIdx p) ∧
  (∀ s p r, Arrives s p (.invalAck r) → let line := lineOf r.loc; let u := s.takePkt p
    let v := State.flushCtl { u with reqs := s.reqs.filter fun q => q.id != r.id } r.slot
    ((∀ q ∈ s.reqs, q.id ≠ r.id) → exec (.linkInvalidationAck p) s = .next u) ∧
    (∀ x, (∃ q ∈ s.reqs, q.id = r.id) → s.openTxn line = some x → r.dst < 8 → let left := x.dies &&& ~~~(1#8 <<< r.dst)
      (x.dies.getLsbD r.dst = false → exec (.linkInvalidationAck p) s = .next v) ∧
      (x.dies.getLsbD r.dst = true → left ≠ 0 → Ends (.linkInvalidationAck p) s fun t => Quiet v t ∧ SameBytes s t ∧ t.net = v.net ∧
        (∀ y ∈ t.txns, y.req.id = x.req.id → y.dies = left) ∧ (tabGet (0 : BitVec 8) t.presence line).getLsbD r.dst = false))) ∧
  (∀ s p r cause stamp, Arrives s p (.refusal r cause stamp) →
    (∀ q acc, Awaits s r q acc → Ends (.linkRefusal p) s fun t => Hears r (.answered r.e acc q [] (some cause) stamp) s t) ∧
    (∀ k, r.ch = 0 → r.blk = false → r.out = 0 → r.opc = 2 → s.holds r → s.slotOf r.uid = some k → (s.slot k).regs.deferred = none →
      Ends (.linkRefusal p) s fun t => SameBytes s t ∧ SlotsBut k s t ∧
        (t.slot k).regs.deferred = some ⟨deferCode cause, r.pc, r.serial, r.buf, r.off⟩)) ∧
  (∀ s id r, s.reqs.find? (·.id == id) = some r → r.src ≠ r.dst →
    (s.tick < r.sent + r.limit → exec (.ackTimeout id) s = .next s) ∧
    (r.sent + r.limit ≤ s.tick → r.tries < 3 → (s.slot r.slot).regs.csr.harness = false → Ends (.ackTimeout id) s fun t => Quiet s t ∧
      let r1 := { r with tries := r.tries + 1, sent := s.tick }
      t.net = s.net ++ [r1.packet] ∧ r1 ∈ t.reqs ∧ r1.seq = r.seq) ∧
    (∀ q acc, r.sent + r.limit ≤ s.tick → 3 ≤ r.tries → r.opc ≠ 4 → Awaits s r q acc → Ends (.ackTimeout id) s fun t =>
      Hears r (.answered r.e acc q [] (some .ackLost) 0) s t)) ∧
  (∀ s d l vc, d < 8 → (s.flitsOn (d, l, vc) < 24 → exec (.linkStop d l vc) s = .next s) ∧
    (24 ≤ s.flitsOn (d, l, vc) → Ends (.linkStop d l vc) s fun t => Quiet s t ∧ 4 * l + vc ∈ (t.die d).stopped)) ∧
  (∀ s d l vc, d < 8 → (16 < s.heldFlits (d, l, vc) → exec (.linkGo d l vc) s = .next s) ∧
    (s.heldFlits (d, l, vc) ≤ 16 → Ends (.linkGo d l vc) s fun t => Quiet s t ∧ 4 * l + vc ∉ (t.die d).stopped ∧
      ∀ x, x ≠ 4 * l + vc → (x ∈ (t.die d).stopped ↔ x ∈ (s.die d).stopped))) ∧
  (∀ s line, let st := paStack (line * 128)
    (tabFind line s.homeLines ≠ some true → exec (.dirtyLineWriteBack line) s = .next s) ∧
    (tabFind line s.homeLines = some true → locKind (line * 128) = .dram → st < 12 → s.Numbered →
      Ends (.dirtyLineWriteBack line) s fun t => Quiet s t ∧ tabFind line t.homeLines = some false ∧
        (∀ x, x ≠ line → tabFind x t.homeLines = tabFind x s.homeLines) ∧ ∃ q ∈ (t.stack st).queue, q.who = .writeBack line ∧
          q.num = s.nextReq ∧ q.kind = 1 ∧ q.loc = line * 128 ∧ q.nsect = 3 ∧ q.data = memBytes s.mem (line * 128) 128))

/-! ### Events of the base dies, the copy engines and the barrier units (08, 10, 12, 13) -/

/-- R168, R171, R211, R218, R253, R258 to R271, R351: what a base die does with a request and what its reply does; timeouts, back-off, refresh and
scrubbing; start grants, sectors of a copy, and pitches. Cycles count as reference ticks (log 3, DESIGN CHOICE). That a reply with STATUS 3 reports
PERM_REMOTE is the model's choice (log 76). -/
def Obligations.BaseDieAndCopyEvents : Prop :=
  let ready := fun (s : State) (st i : Nat) (r : BdReq) (kind : Nat) => st < 12 ∧ paStack r.loc = st ∧ (s.stack st).queue[i]? = some r ∧
    r.kind = kind ∧ r.ok = true ∧ r.lost = false ∧ r.reply = none ∧ s.bdBusy r = false ∧
    ∃ t, r.tag = some t ∧ tabFind (tagKeyOf r.pch r.wq t) (s.stack st).held = none
  let replied := fun (t : State) (st i : Nat) (r : BdReq) (x : BdReply) => (t.stack st).queue[i]? = some { r with reply := some x }
  let sec := fun (r : BdReq) => sectorOf r.loc * 32
  (∀ s st i r, ready s st i r 0 → r.loc % 128 + 32 * (r.nsect + 1) ≤ 128 → let line := lineOf r.loc; let k := s.stack st
    (tabFind line k.msc).isSome = true ∨ s.cached line = false → (∀ x ∈ k.mscPoison, x / 4 = line → (tabFind line k.msc).isSome = true) →
    Ends (.bdRead st i) s fun t => (∀ j, t.slot j = s.slot j) ∧
      ((tabFind line k.msc).isSome = true ∨ (∀ x, x / 4 = line → tabGet KeyTag.zero s.secKey x = lineTag (s.bdTag r) r.loc x) → SameBytes s t) ∧
      replied t st i r (if s.bdPoisoned r.loc r.nsect then ⟨11, 2, 0, []⟩
        else ⟨8, s.corrected r.loc (r.nsect + 1) true, 0, s.bdBytes r.loc (32 * (r.nsect + 1)) (s.bdTag r)⟩)) ∧
  (∀ s st i r, ready s st i r 1 →
    (r.brings ≠ none → Ends (.bdWrite st i) s fun t => Quiet s t ∧ replied t st i r ⟨9, 0, 0, []⟩) ∧
    (r.brings = none → r.nsect = 0 → r.loc % 32 = 0 → r.data.length = 32 → s.scrubPending r.loc = false →
      Ends (.bdWrite st i) s fun t => memBytes t.mem r.loc 32 = r.data ∧ SameBytesBut r.loc 32 s t ∧ replied t st i r ⟨9, 0, 0, []⟩)) ∧
  (∀ s st i r, ready s st i r 2 → let all := r.bmask = BitVec.allOnes 32
    (r.bmask = 0 → Ends (.bdMaskedWrite st i) s fun t => Quiet s t ∧ replied t st i r ⟨9, 0, 0, []⟩) ∧
    (r.bmask ≠ 0 → ¬ all → s.bdPoisoned r.loc 0 = true → Ends (.bdMaskedWrite st i) s fun t => Quiet s t ∧
      replied t st i r ⟨11, 2, 0, []⟩) ∧
    (r.bmask ≠ 0 → all ∨ s.bdPoisoned r.loc 0 = false → r.loc % 32 = 0 → s.scrubPending r.loc = false → Ends (.bdMaskedWrite st i) s fun t =>
      replied t st i r ⟨9, if all then 0 else s.corrected r.loc 1 false, 0, []⟩ ∧ SameBytesBut r.loc 32 s t ∧
      ∀ n, n < 32 → memGet t.mem (r.loc + n) =
        (if r.bmask.getLsbD n then nthD 0 r.data n else nthD 0 (s.bdBytes r.loc 32 (s.bdTag r)) n))) ∧
  (∀ s st i r, ready s st i r 3 → r.loc % 32 + 8 ≤ 32 → s.scrubPending r.loc = false →
    (s.bdPoisoned r.loc 0 = true → Ends (.bdAtomic st i) s fun t => Quiet s t ∧ replied t st i r ⟨11, 2, 0, []⟩) ∧
    (s.bdPoisoned r.loc 0 = false → Ends (.bdAtomic st i) s fun t =>
      let n := if r.asz then 8 else 4; let old := numOf (s.bdBytes r.loc n (s.bdTag r))
      replied t st i r ⟨10, s.corrected r.loc 1 false, BitVec.ofNat 64 old, []⟩ ∧ SameBytesBut (sec r) 32 s t ∧
      (if r.aop = 15 ∧ old ≠ r.cmp.toNat then SameBytes s t else
        numOf (memBytes t.mem r.loc n) = aopNew r.aop (8 * n) old r.opnd.toNat r.cmp.toNat % 2 ^ (8 * n)))) ∧
  (∀ s st i r, ready s st i r 4 → Ends (.bdDrop st i) s fun t => Quiet s t ∧
    replied t st i r ⟨9, 0, 0, []⟩ ∧ tabFind (lineOf r.loc) (t.stack (paStack r.loc)).msc = none) ∧
  (∀ s st i r, ready s st i r 5 → Ends (.bdTileRead st i) s fun t => Quiet s t ∧
    replied t st i r (if r.rows.any (fun a => s.bdPoisoned a.1 0) ∨ r.hurt = 2 then ⟨11, 2, 0, []⟩
      else ⟨8, if r.rows.any (fun a => s.weakAt a.1 1 false) then 1 else r.hurt, 0,
        transposeTile (r.rows.map fun a => s.bdBytes a.1 32 (s.keyTag r.key.toNat r.buf.toNat a.2))⟩)) ∧
  (∀ s st i r, ready s st i r 6 → Ends (.bdDiagnosticRead st i) s fun t => Quiet s t ∧
    replied t st i r ⟨8, 0, 0, (countFrom (paAddr r.loc) 32).map (s.stack st).diagByte⟩) ∧
  (∀ s st i r x, st < 12 → (s.stack st).queue[i]? = some r → r.reply = some x → let cause := replyCause x
    (∀ k uid e acc q, r.who = .word k uid 0 → (s.slot k).launch.uid = uid → (s.slot k).wait = .remote e acc q → q.id = r.num →
      Ends (.bdReply st i) s fun t =>
        SlotIs k { s.slot k with wait := .answered e acc q ((x.data.drop (q.loc % 32)).take q.size) cause 0 } s t ∧
        (t.stack st).queue.length + 1 = (s.stack st).queue.length) ∧
    (∀ line, r.who = .writeBack line → (∀ x, s.openTxn line = some x → x.req.far = false) →
      (cause = none → Ends (.bdReply st i) s fun t => Quiet s t ∧ t.homeLines = s.homeLines ∧
        (t.stack st).queue.length + 1 = (s.stack st).queue.length) ∧
      (cause ≠ none → lineOf r.loc = line → (tabFind line s.homeLines).isSome = true → Ends (.bdReply st i) s fun t => Quiet s t ∧
        tabFind line t.homeLines = some true ∧ ∀ x, x ≠ line → tabFind x t.homeLines = tabFind x s.homeLines)) ∧
    (cause = none ↔ x.status ≠ 2 ∧ x.status ≠ 3)) ∧
  (∀ s st i r tag, st < 12 → (s.stack st).queue[i]? = some r → r.tag = some tag →
    (s.tick < r.sent + 1700 → exec (.mpTimeout st i) s = .next s) ∧
    (r.sent + 1700 ≤ s.tick → r.tries < 3 → Ends (.mpTimeout st i) s fun t => Quiet s t ∧
      (t.stack st).queue = (s.stack st).queue.set i { r with tries := r.tries + 1, sent := s.tick, lost := false }) ∧
    (∀ k uid e acc q, r.sent + 1700 ≤ s.tick → 3 ≤ r.tries → r.who = .word k uid 0 → (s.slot k).launch.uid = uid →
      (s.slot k).wait = .remote e acc q → q.id = r.num → Ends (.mpTimeout st i) s fun t =>
        SlotIs k { s.slot k with wait := .answered e acc q [] (some .ackLost) 0 } s t)) ∧
  (∀ s st pch bank t0, st < 12 → tabFind (pch * 16 + bank) (s.stack st).backoff = some t0 → Ends (.backoffEnd st pch bank) s fun t =>
    Quiet s t ∧ tabFind (pch * 16 + bank) (t.stack st).backoff = if t0 ≤ s.tick then none else some t0) ∧
  (∀ s st pch, st < 12 → let at_ := match tabFind pch (s.stack st).fresh with
      | some x => x + 3017
      | none => s.resetTick + 51 * pch + 4 * st
    (at_ ≤ s.tick → Ends (.refresh st pch) s fun t => Quiet s t ∧
      (∀ x ∈ (t.stack st).rows, x.1 / 16 ≠ pch) ∧ (∀ x ∈ (s.stack st).rows, x.1 / 16 ≠ pch → x ∈ (t.stack st).rows) ∧
      tabFind pch (t.stack st).fresh = some (at_ + 298)) ∧
    (s.tick < at_ → exec (.refresh st pch) s = .next s)) ∧
  (∀ s st f, st < 12 → (s.stack st).scrub = [f] → Ends (.scrubGranule st) s fun t => let g := f.base + f.next
    (∀ k, t.slot k = s.slot k) ∧ SameBytesBut (g * 4096) 4096 s t ∧
    (g ∉ f.done → ∀ a, a / 4096 = g → memGet t.mem a = 0) ∧ (g ∈ f.done → SameBytes s t) ∧
    (t.stack st).scrub = if f.next + 1 < f.count then [{ f with next := f.next + 1 }] else []) ∧
  (∀ s d n l p, d < 8 → (s.die d).ceQueue = n :: l → s.activeCopy (n / 4) (n % 4) = some p → (s.slot (n / 4)).copyBlocked p = false →
    let ready := s.engines d < 6 ∧ ((s.die d).ceGrant = 0 ∨ (s.die d).ceGrant + 16 ≤ s.tick) ∧ s.arrFree d = false ∧
      ((s.die d).arrGrant ≠ s.tick ∨ s.tick = 0)
    (ready → Ends (.ceStartGrant d) s fun t => SlotsBut (n / 4) s t ∧ SameBytes s t ∧
      t.activeCopy (n / 4) (n % 4) = some { p with started := true } ∧ (t.die d).ceQueue = l ∧ (t.die d).ceGrant = s.tick) ∧
    (¬ ready → exec (.ceStartGrant d) s = .next s)) ∧
  (∀ s k ch p en a, ch < 4 → s.activeCopy k ch = some p → p.started = true → p.failed = false → p.paused = none → p.sect < p.sectors →
    p.layout = 0 → p.out = false → p.got = [] → p.tiles = [] → p.targets = [(s.slot k).launch.uid] → (s.slot k).bound = true →
    s.slotOf (s.slot k).launch.uid = some k → s.copyAsked k ch = false →
    s.sectorAt (s.slot k) p (p.memAt p.sect) = .runs en [⟨a, p.memAt p.sect, 32⟩] → en.chk = false → en.ty ≠ .diagnostic → locKind a = .dram → a % 128 + 32 ≤ 128 →
    homeDie a = slotDie k → s.openTxn (lineOf a) = none → (∀ x, lineOf x = lineOf a → s.poisoned x = false) →
    (tabFind (lineOf a) s.homeLines).isSome = true → s.scrubPending a = false → p.scrAt p.sect + 32 ≤ (s.slot k).scrBytes →
    let to_ := locScratch (s.slot k).launch.uid (p.scrAt p.sect); let o := s.obj p.barLoc
    locKind to_ = .scratch → p.scrAt p.sect + 32 ≤ 2 ^ 20 → to_ + 32 ≤ p.barLoc ∨ p.barLoc + 16 ≤ to_ → locKind p.barLoc = .scratch →
    1 < o.insect → 1 < p.owed → Ends (.copySector k ch) s fun t =>
      memBytes t.mem to_ 32 = memBytes s.mem a 32 ∧ (t.obj p.barLoc).insect = o.insect - 1 ∧ (t.obj p.barLoc).phase = o.phase ∧
      t.activeCopy k ch = some { p with sect := p.sect + 1, owed := p.owed - 1 } ∧
      ∀ x, (x < to_ ∨ to_ + 32 ≤ x) → (x < p.barLoc ∨ p.barLoc + 16 ≤ x) → memGet t.mem x = memGet s.mem x) ∧
  (∀ s i w, s.windows[i]? = some w → w.started = true → let np := pitchNp w.lo
    (s.tick < w.last + pitchGap w.lo w.hi w.next → exec (.barrierPitch i) s = .next s) ∧
    (w.last + pitchGap w.lo w.hi w.next ≤ s.tick → w.next < np → Ends (.barrierPitch i) s fun t => SameBytes s t ∧
      t.windows = s.windows.set i { w with next := w.next + 1, last := w.last + pitchGap w.lo w.hi w.next } ∧
      (∀ x ∈ w.waiters, x.pitch = w.next → (s.slot x.slot).launch.uid = x.uid → w.team = false →
        (s.slot x.slot).wait = .bar w.loc w.phase → (t.slot x.slot).wait = .barDone w.loc w.st) ∧
      ∀ k, (∀ x ∈ w.waiters, x.slot = k → x.pitch ≠ w.next) → t.slot k = s.slot k) ∧
    (w.last + pitchGap w.lo w.hi w.next ≤ s.tick → np ≤ w.next → s.windows = [w] →
      w.team = true ∨ locKind w.loc = .scratch ∨ locKind w.loc = .dieScratch → Ends (.barrierPitch i) s fun t => t.windows = [] ∧
      (w.team = false → (t.obj w.loc).winopen = false ∧ SameBytesBut w.loc 16 s t) ∧
      ∀ x ∈ w.waiters, x.pitch = w.next → (s.slot x.slot).launch.uid = x.uid → w.team = false →
        (s.slot x.slot).wait = .bar w.loc w.phase → (t.slot x.slot).wait = .barDone w.loc w.st))

/-! ### Queues and scheduling (15) -/

/-- R207, R281 to R285, R289 to R291, R293, R294, R299, R422: the submission queues, NODE_READY, and the life of a bind record. BIND puts the machine
where the next pass of the ready order leaves it, each of whose members is bound by bindTo, which the clause after it states. The model's own
readings: frame addresses and keys are free functions of the member and the VF (log 16); the region number goes on by one at a save and at a
restore (R157; log 67); where an aperture's entry stands (log 77). -/
def Obligations.SchedulingEvents : Prop :=
  (∀ s vf q v, let x := s.queue vf q; let t := v.toNat % 2 ^ 12
    (x.size = 0 ∨ x.passes t = true → exec (.sqtailWrite vf q v) s = .next s) ∧
    (x.size ≠ 0 → x.passes t = false → Ends (.sqtailWrite vf q v) s fun r => Quiet s r ∧
      r.queue vf q = { x with tail := BitVec.ofNat 12 t })) ∧
  (∀ s vf q e, s.sqEntry vf q = some e → vf < 64 → q < 4 → let x := s.queue vf q; let adv := { x with head := BitVec.ofNat 12 (x.next x.head.toNat) }
    let id := BitVec.ofNat 32 (fieldAt e 4 4); let rec_ := s.hostBytes (fieldAt e 8 8) 256
    (nodeEntryOk e = false → mboxEntryOk e = false → Ends (.sqNode vf q) s fun t => Quiet s t ∧ t.queue vf q = adv ∧
      t.hyper.malformed = s.hyper.malformed + 1 ∧ t.nodes = s.nodes) ∧
    (nodeEntryOk e = true → fieldAt rec_ 0x16 1 = 0 → s.nodes.all (fun m => m.nid != s.nextUid && !(m.vf == vf && m.node == id)) = true →
      (∀ i, i < fieldAt rec_ 0x28 2 → capEntryOk (BitVec.ofNat 128 (numOf (s.hostBytes (fieldAt rec_ 0x20 8 + 16 * i) 16))) = true) →
      (s.vf vf).cancels.contains id = false → Ends (.sqNode vf q) s fun t => Quiet s t ∧ t.queue vf q = adv ∧
        t.nextUid = s.nextUid + 1 ∧ ∃ n, t.nodes = s.nodes ++ [n] ∧ n.nid = s.nextUid ∧ n.vf = vf ∧ n.node = id ∧ n.deps = fieldAt e 2 2 ∧
          n.got = tabGet 0 (s.vf vf).kept id.toNat + ((s.vf vf).unsent.filter (· == id)).length ∧ n.ninst.toNat = fieldAt rec_ 0x10 4 ∧ n.prio = fieldAt rec_ 0x14 1 ∧ n.parent = none ∧
          n.order = (if n.deps ≤ n.got then some s.nextOrder else none)) ∧
    (∀ n k, nodeEntryOk e = false → mboxEntryOk e = true → s.liveNode vf id = some n → fieldAt e 8 8 = 0xFFFFFFFF →
      (s.slot k).bound = true → (s.slot k).launch.nid = n.nid → Ends (.sqMbox vf q) s fun t => SameBytes s t ∧ t.queue vf q = adv ∧
        (t.slot k).regs.csr.mbox[fieldAt e 1 1]? = some (BitVec.ofNat 64 (fieldAt e 0x10 8)) ∧
        (∀ m, m ≠ fieldAt e 1 1 → (t.slot k).regs.csr.mbox[m]? = (s.slot k).regs.csr.mbox[m]?) ∧
        ∀ uid m f, tabFind uid s.members = some m → m.launch.nid = n.nid → tabFind uid s.frames = some f →
          tabFind uid t.frames = some (f.put (0x0500 + 8 * fieldAt e 1 1) (bytesOf 8 (fieldAt e 0x10 8))))) ∧
  (∀ s vf id n, s.nodes.find? (fun m => m.vf == vf && m.node == id && m.order.isSome && !m.made) = some n →
    (∀ b o, s.prepare n = .wait b o → exec (.nodeReady vf id) s = .next s) ∧
    (∀ hdr nat, s.prepare n = .launch hdr nat → Ends (.nodeReady vf id) s fun t => Quiet s t ∧
      t.nextUid = s.nextUid + n.ninst.toNat ∧ ∀ i, i < n.ninst.toNat → ∃ m, tabFind (s.nextUid + i) t.members = some m ∧
        m.launch.nid = n.nid ∧ m.launch.node = n.node ∧ m.launch.inst.toNat = i % 2 ^ 32 ∧ m.launch.ninst = n.ninst ∧
        m.launch.prio = n.prio ∧ m.launch.captab = n.captab ∧ m.launch.native = nat ∧ m.image = false ∧
        m.regs.pc = (if n.entry = 0xFFFFFFFF then fieldAt hdr 0x30 4 else n.entry.toNat) ∧
        m.regs.s[1]? = some (BitVec.ofNat 64 i) ∧ m.regs.s[2]? = some (n.ninst.setWidth 64) ∧ m.wdleft = (if n.wd = 0 then BitVec.allOnes 64 else n.wd)) ∧
    (∀ r, s.prepare n = .ends r → Ends (.nodeReady vf id) s fun t => ∀ m ∈ t.nodes, m.nid ≠ n.nid)) ∧
  (∀ s k uid, (s.nextBind = none → exec (.bind k uid) s = .next s) ∧
    ∀ s1, s.nextBind = some (k, uid, s1) → exec (.bind k uid) s = .next s1) ∧
  (∀ s k uid m, m.launch.team = false → (s.slot k).bind.st = .free → let c := (s.bindTo k uid m).slot k
    c.bind.st = .bind ∧ c.launch = { m.launch with part := s.vfPartition m.launch.vf } ∧ c.regs = m.regs ∧ c.bind.wdleft = m.wdleft ∧
    c.bind.prio.toNat = m.launch.prio % 64 ∧ c.bind.frame = Config.frameAddr uid ∧ c.bind.fkey = Config.frameKey m.launch.vf ∧ c.bind.node = m.launch.node ∧ c.bind.inst = m.launch.inst ∧
    tabFind uid (s.bindTo k uid m).members = none ∧
    ((s.apertureOf m.launch.vf).isSome = true ∨ (∀ i, i < s.btCount → (s.entry (BitVec.ofNat 20 i)).v = true) → SameBytes s (s.bindTo k uid m)) ∧
    SameBytesBut s.btBase (64 * s.btCount) s (s.bindTo k uid m)) ∧
  (∀ s k, let c := s.slot k
    (s.mayDispatch k = true ↔ c.bind.st = .bind ∧ s.pkg.vfEn.getLsbD c.launch.vf = true ∧ (s.vf c.launch.vf).reset = none ∧
      (s.vf c.launch.vf).tdisp ≠ .configLocked ∧ (s.vf c.launch.vf).tdisp ≠ .error ∧ (s.slot (slotMate k)).moving = false ∧
      s.resetTick + 16 * slotDie k + 64 * slotCluster k ≤ s.tick) ∧
    (s.mayDispatch k = false → exec (.dispatch k) s = .next s) ∧
    (s.mayDispatch k = true → c.regs.arr.mode = 0 → Ends (.dispatch k) s fun t => SlotsBut k s t ∧
      SameBytes s t ∧ let d := t.slot k
      d.bind = { c.bind with st := .run } ∧ d.launch = c.launch ∧ d.hist = [] ∧ d.wait = .none_ ∧
      d.regs.csr.harness = s.pkg.partharn.getLsbD c.launch.part ∧
      d.regs = { c.regs with csr := d.regs.csr, dirty := d.regs.dirty } ∧
      (c.bind.start ≠ 1 → d.mon = c.mon ∧ d.regs.dirty = c.regs.dirty ∧ d.regs.csr.regionno = c.regs.csr.regionno) ∧
      (c.bind.start = 1 → d.mon.armed = none ∧ d.mon.moved = true ∧ d.regs.dirty = Dirty.zero ∧
        d.regs.csr.regionno = c.regs.csr.regionno + 1))) ∧
  (∀ s k uid, s.nextVictim = some (k, uid) → (s.slot k).launch.team = false → (s.slot k).bind.st = .run → Ends (.save k .preemption) s fun t =>
    SlotIs k { s.slot k with bind := { (s.slot k).bind with st := .save }, saveWhy := .preemption } s t ∧
      tabFind k t.claims = some (uid, (s.slot k).launch.uid)) ∧
  (∀ s k, let c := s.slot k
    (c.bind.st ≠ .save → exec (.saveComplete k) s = .next s) ∧
    let c1 := c.endPause
    (s.saveReady k = true → s.ropeRunning k = [] → c.launch.team = false → c.regs.hbarP = none → c.regs.arr.held = none →
      c.regs.arr.mmaFlags = none → c.regs.arr.part = 0 →
      (s.vf c.launch.vf).tdisp ≠ .error → c.saveWhy ≠ .pageSwap → Ends (.saveComplete k) s fun t => SlotsBut k s t ∧ SameBytes s t ∧
        (t.slot k).bind.st = .saved ∧ ∃ m, tabFind c.launch.uid t.members = some m ∧ m.launch = c.launch ∧ m.image = true ∧
          m.waiting = none ∧ m.wdleft = c.bind.wdleft ∧ m.halted = c.halt ∧ m.mon.moved = true ∧ m.regs.pc = c1.regs.pc ∧ m.regs.s = c1.regs.s ∧
          m.regs.v = c1.regs.v ∧ m.regs.c = c1.regs.c ∧ m.regs.m = c1.regs.m ∧ m.regs.tags = c1.regs.tags ∧ m.regs.slots = c1.regs.slots ∧
          m.regs.loops = c1.regs.loops ∧ m.regs.saves = c1.regs.saves + 1 ∧
          m.regs.csr = { c1.regs.csr with regionno := c1.regs.csr.regionno + 1 } ∧
          m.regs.dirty = Dirty.zero)) ∧
  (∀ s k, let c := s.slot k
    (c.bind.st = .saved ∨ c.bind.st = .save ∨ c.bind.st = .halted ∧ s.nodeOf c.launch.nid = none → Ends (.free k) s fun t =>
      (t.slot k).bind = { c.bind with st := .free } ∧ SameBytes s t) ∧
    (∀ n, c.bind.st = .halted → s.nodeOf c.launch.nid = some n → n.ended + 1 < n.ninst.toNat → Ends (.free k) s fun t =>
      (t.slot k).bind = { c.bind with st := .free } ∧ SameBytes s t ∧ t.nodeOf n.nid = some { n with ended := n.ended + 1 }) ∧
    (∀ n a, c.bind.st = .halted → s.nodeOf c.launch.nid = some n → n.ninst.toNat ≤ n.ended + 1 → n.done = .host a → n.succ = [] →
      a < 2 ^ 64 - 32 → Ends (.free k) s fun t => (∀ m ∈ t.nodes, m.nid ≠ n.nid) ∧ SameBytesBut (locHost a) 32 s t ∧
        numOf (memBytes t.mem (locHost a) 6) = n.node.toNat ∧ numOf (memBytes t.mem (locHost a + 24) 8) = 2 ^ 63 + s.tick % 2 ^ 63) ∧
    (∀ n a f, c.bind.st = .faulted → c.storing = false → s.nodeOf c.launch.nid = some n → s.firstFault n.nid = some f → n.done = .host a → n.succ = [] →
      a < 2 ^ 64 - 32 → Ends (.free k) s fun t => (∀ m ∈ t.nodes, m.nid ≠ n.nid) ∧ SameBytesBut (locHost a) 32 s t ∧
        let r := f.faultRec.getD (.none_, 0, 0)
        numOf (memBytes t.mem (locHost a) 4) = n.node.toNat ∧ numOf (memBytes t.mem (locHost a + 4) 2) = 1 ∧
        numOf (memBytes t.mem (locHost a + 6) 2) = r.1.code ∧ numOf (memBytes t.mem (locHost a + 8) 4) = f.launch.inst.toNat ∧
        numOf (memBytes t.mem (locHost a + 12) 4) = r.2.1 % 2 ^ 32 ∧ numOf (memBytes t.mem (locHost a + 16) 8) = r.2.2.toNat) ∧
    (c.bind.st = .free ∨ c.bind.st = .bind ∨ c.bind.st = .run ∨ c.bind.st = .faulted ∧ c.storing = true → exec (.free k) s = .next s)) ∧
  (∀ s uid x, s.ready.find? (·.1 == uid) = some x →
    (s.quantumVictim x = none → exec (.quantumExpiry uid) s = .next s) ∧
    (∀ k, s.quantumVictim x = some k → s.trained = true → (s.slot k).launch.team = false → (s.slot k).bind.st = .run → Ends (.quantumExpiry uid) s fun t =>
      (t.slot k).bind.st = .save ∧ tabFind k t.claims = some (uid, (s.slot k).launch.uid) ∧ SlotsBut k s t ∧ SameBytes s t)) ∧
  (∀ s buf off uid m, tabFind uid s.members = some m → m.waiting = some (buf, off) →
    let e := s.entry (BitVec.ofNat 20 buf)
    (∀ a, s.leafAddr (tableLevels e.pageBits e.length 6 1) e.ptroot (e.pageNo off) = some a → Ends (.pageInComplete buf off) s fun t =>
      t.dword a = s.dword a ||| 0x4000000000000000 ∧ SameBytesBut a 8 s t) ∧
    Ends (.pageInComplete buf off) s fun t => ∃ m1, tabFind uid t.members = some m1 ∧ m1.waiting = none ∧ m1.head = true ∧
      m1.regs = m.regs ∧ m1.launch = m.launch)

/-! ### Privileged registers, interfaces, faults, freeze, debug and resets (12, 13, 15, 19) -/

/-- R249 to R253, R272, R273, R289, R301 to R304, R341 to R344, R347 to R350: what Basecamp and the debug port do. The model's own choices: what
memory holds after a reset (logs 2 and 56), the contents of a signed answer (log 53), and a WAYSPLIT write that is ignored (log 52). -/
def Obligations.PrivilegedEvents : Prop :=
  (∀ s v, (s.pkg.extBusy = true → exec (.extinvBuf v) s = .next s ∧ exec (.extinvAll v) s = .next s) ∧
    (s.pkg.extBusy = false →
      (Ends (.extinvBuf v) s fun t => Quiet s t ∧ t.pkg.extBusy = true ∧ t.pkg.ext0.getLsbD 62 = false ∧
        t.pkg.ext0.extractLsb' 42 20 = v.extractLsb' 42 20) ∧
      Ends (.extinvAll v) s fun t => Quiet s t ∧ t.pkg.extBusy = true ∧ t.pkg.ext0.getLsbD 62 = true)) ∧
  (∀ s,
    (s.pkg.extBusy = false ∨ s.extWaits = true → exec .extinvComplete s = .next s) ∧
    (s.pkg.extBusy = true → s.extWaits = false → Ends .extinvComplete s fun t => Quiet s t ∧ t.pkg.extBusy = false ∧
      let all := s.pkg.ext0.getLsbD 62 = true; let buf := s.pkg.ext0.extractLsb' 42 20; let first := getBits s.pkg.ext1 32 32
      let n := getBits s.pkg.ext1 0 32
      (∀ who b, all ∨ (b = buf ∧ n = 0) → t.entryFor who b = s.entry b) ∧
      (∀ j, ∀ x ∈ (t.core j).ext, x ∈ (s.core j).ext ∧ ¬ all ∧ (x.buf = buf → n ≠ 0 ∧ (x.page < first ∨ first + n ≤ x.page))) ∧
      ∀ j, ∀ x ∈ (t.core j).l1i, x ∈ (s.core j).l1i ∧ ¬ all ∧ x.buf ≠ buf)) ∧
  (∀ s v, let n := v.toNat % 128
    (∀ b ∈ s.bufs, (s.entry b).v = true → (s.entry b).key = n → n ≠ 0 → s.locked (s.entry b).vf = false ∧ (s.vf (s.entry b).vf).reset ≠ some true) →
    (Ends (.keyLoad v) s fun t => Quiet s t ∧ (∀ m, m ≠ n ∨ n = 0 → t.pkg.keys[m]? = s.pkg.keys[m]?) ∧
      (n ≠ 0 → t.pkg.keys[n]? = some s.pkg.keyWord ∧ t.pkg.keydata = Vector.replicate 8 0 ∧ t.pkg.keyBusy = some (BitVec.ofNat 7 n)) ∧
      (n = 0 → t.pkg.keydata = s.pkg.keydata)) ∧
    Ends (.keyErase v) s fun t => Quiet s t ∧ (∀ m, m ≠ n ∨ n = 0 → t.pkg.keys[m]? = s.pkg.keys[m]?) ∧
      (n ≠ 0 → t.pkg.keys[n]? = some 0) ∧ t.pkg.keydata = s.pkg.keydata) ∧
  (∀ s, exec .keyLoadComplete s = .next { s with pkg := { s.pkg with keyBusy := none } }) ∧
  (∀ s d v, d < 8 → let n := min (v.toNat % 32) 16
    (s.usesDieScratch d = true ∨ (s.die d).waysplit.toNat = n → exec (.waysplitWrite d v) s = .next s) ∧
    (s.usesDieScratch d = false → (s.die d).waysplit.toNat ≠ n → Ends (.waysplitWrite d v) s fun t => (t.die d).waysplit.toNat = n ∧
      ∀ x, x < 2 ^ 32 → memGet t.mem (locDie d x) = 0)) ∧
  (∀ s vf v, vf < 64 → let p := v.toNat % 16
    ((s.vf vf).reset = some true → Ends (.vfpartWrite vf v) s fun t => Quiet s t ∧ t.pkg = s.pkg ∧
      (t.vf vf).later = (s.vf vf).later ++ [.register (.vfpart vf) v]) ∧
    ((s.vf vf).reset ≠ some true → s.locked vf = false → Ends (.vfpartWrite vf v) s fun t => Quiet s t ∧
      t.pkg.vfEn.getLsbD vf = (decide (p < 12) && v.getLsbD 4) ∧ (p < 12 → s.vf vf = t.vf vf ∧ t.vfPartition vf = p) ∧
      (12 ≤ p → t.vfPartition vf = s.vfPartition vf) ∧
      ∀ j, j < 64 → j ≠ vf → t.pkg.vfEn.getLsbD j = s.pkg.vfEn.getLsbD j ∧ t.vfPartition j = s.vfPartition j) ∧
    ((s.vf vf).reset ≠ some true → s.locked vf = true → Ends (.vfpartWrite vf v) s fun t => Quiet s t ∧ (t.vf vf).tdisp = .error ∧ t.pkg.vfEn.getLsbD vf = false ∧
      t.vfPartition vf = s.vfPartition vf)) ∧
  (∀ s v, Ends (.partharnWrite v) s fun t => Quiet s t ∧ ∀ p, p < 12 →
    (v.getLsbD p = false → t.pkg.partharn.getLsbD p = false) ∧
    (v.getLsbD p = true → (∀ j, j < 64 → s.locked j = true → s.vfPartition j ≠ p) → t.pkg.partharn.getLsbD p = true) ∧
    (v.getLsbD p = true → (∃ j, j < 64 ∧ s.locked j = true ∧ s.vfPartition j = p) →
      t.pkg.partharn.getLsbD p = s.pkg.partharn.getLsbD p)) ∧
  (∀ s p d w, s.modeChg = none → d < 8 → let field := fun c => if 12 ≤ w.toNat / 16 ^ c % 16 then 15 else w.toNat / 16 ^ c % 16;
    ((∀ k, (s.slot k).bound = false) → (∀ x ∈ s.slots, x.2.bound = false) → s.reqs = [] → Ends (.partitionModeChange p [(d, w)]) s fun t =>
      Quiet s t ∧ t.modeChg = none ∧ ∀ c, c < dieCores d / 16 → t.clusterPart d c = field c) ∧
    (∀ k, slotDie k = d → slotCluster k < dieCores d / 16 → field (slotCluster k) ≠ s.clusterPart d (slotCluster k) →
      (s.slot k).bind.st = .run → (s.slot k).launch.team = false →
      (Ends (.partitionModeChange true [(d, w)]) s fun t => (t.slot k).bind.st = .save ∧ (t.slot k).saveWhy = .partitionChange ∧
        ∀ c, t.clusterPart d c = s.clusterPart d c) ∧
      Ends (.partitionModeChange false [(d, w)]) s fun t => Quiet s t ∧ t.modeChg ≠ none ∧ ∀ c, t.clusterPart d c = s.clusterPart d c)) ∧
  (∀ s v, v < 64 → s.reqs = [] → s.accessing (fun _ => true) = false → (∀ st, (s.stack st).queue = []) → (s.vf v).later = [] →
    let gone := fun (t : State) =>
      t.pkg.vfEn.getLsbD v = false ∧ (∀ k, (t.slot k).bind.st ≠ .free → (t.slot k).launch.vf ≠ v) ∧
      (∀ m ∈ t.members, m.2.launch.vf ≠ v) ∧ (∀ n ∈ t.nodes, n.vf ≠ v) ∧ (∀ q, q < 4 → (t.queue v q).head = (t.queue v q).tail) ∧
      (t.vf v).kept = [] ∧ (∀ d, d < 8 → (t.die d).l2waymask[v]? = some 0xFFFF) ∧
      ∀ b ∈ s.bufs, (s.entry b).vf = v → (t.entry b).v = false;
    (Ends (.vfReset v) s fun t => gone t ∧ ((s.vf v).reset ≠ some true → (t.vf v).tdisp = (s.vf v).tdisp)) ∧
    Ends (.stopInterface v) s fun t => gone t ∧ (t.vf v).tdisp = .configUnlocked) ∧
  (∀ s v d w, v < 64 → d < 8 → (s.vf v).reset ≠ some true →
    ((s.vf v).session = true ∨ s.locked v = false → Ends (.tdispChangeRequest v true (.register (.l2waymask d v) w)) s fun t =>
      Quiet s t ∧ t.vf v = s.vf v ∧ (t.die d).l2waymask[v]? = some (w.extractLsb' 0 16)) ∧
    (s.locked v = true → Ends (.tdispChangeRequest v false (.register (.l2waymask d v) w)) s fun t =>
      Quiet s t ∧ (t.vf v).tdisp = .error ∧ t.pkg.vfEn.getLsbD v = false ∧ (t.die d).l2waymask = (s.die d).l2waymask)) ∧
  (∀ s d, let answer : Signed := ⟨d, (countFrom 1 4).map (Config.blockDigest s.measured d), (s.die d).partmap.setWidth 64 :: (s.die d).pitchcfg.toList⟩
    (s.spdmUp = true → exec (.challenge d) s = .next { s with signed := s.signed ++ [answer] } ∧
      exec (.getMeasurements d) s = .next { s with signed := s.signed ++ [answer] }) ∧
    (s.spdmUp = false → exec (.challenge d) s = .next s ∧ exec (.getMeasurements d) s = .next s)) ∧
  (∀ s u, Ends (.recoverableFault u) s fun t => SameBytes s t ∧ t.members = s.members ∧
    ∀ r ∈ t.reqs, ∃ r0 ∈ s.reqs, ∃ x, r = { r0 with sent := x }) ∧
  (∀ s v, exec (.freezeArm v) s = .next { s with pkg := { s.pkg with
    freezeArm := true, freezeAt := v.extractLsb' 0 62, freezeFrom := max (v.toNat % 2 ^ 62) (s.tick + 1) } }) ∧
  (∀ s, let due := s.pkg.freezeArm = true ∧ s.pkg.freezeFrom ≤ s.tick ∧ s.pkg.frozen = false
    (due → exec .freeze s = .next { s with pkg := { s.pkg with frozen := true } } ∧ step s = .next { s with pkg := { s.pkg with frozen := true } }) ∧
    (¬ due → exec .freeze s = .next s)) ∧
  (∀ s m, s.pkg.frozen = true → m ≠ .event .coldReset → m ≠ .event .warmReset → runMove m s = .next s) ∧
  (∀ s k, let c := s.slot k
    (c.bound = true → Ends (.debugHalt k) s (SlotIs k { c with halt := true } s)) ∧
    Ends (.debugResume k) s (SlotIs k { c with halt := false } s) ∧
    (c.halt = true → c.bind.st = .run → c.wait = .none_ → issueSlot k s = .next (s.focus k))) ∧
  (∀ s d, d < 8 → let n := (s.die d).step16
    (Ends (.throttleStep d) s fun t => Quiet s t ∧ (t.die d).step16 = if 8 < n then n - 1 else n) ∧
    Ends (.throttleRaise d) s fun t => Quiet s t ∧ (t.die d).step16 = if n < 16 then n + 1 else n) ∧
  (∀ s,
    let trained := fun (t : State) (l : List Nat) => ∀ k, k < 12 →
      ∃ x, (t.die (stackDie k)).trainstat[stackSide k]? = some x ∧ x.toNat % 4 ∈ l;
    (Ends .coldReset s fun t => trained t [2, 3] ∧ (∀ k, t.slot k = Ctx.free) ∧ t.pkg = Package.reset ∧ t.tick = 0 ∧ t.nodes = [] ∧
      t.members = [] ∧ ∀ x, memGet t.mem x = if locKind x = .host ∨ locKind x = .peer then memGet s.mem x else 0) ∧
    Ends .warmReset s fun t => trained t [1, 2, 3] ∧ (∀ k, t.slot k = Ctx.free) ∧ t.pkg = Package.reset ∧ t.tick = s.tick ∧
      (∀ k, (t.stack k).poison = (s.stack k).poison) ∧
      ∀ x, memGet t.mem x = if locKind x = .dram ∨ locKind x = .host ∨ locKind x = .peer then memGet s.mem x else 0) ∧
  (∀ s v, (Ends (.registerWrite .btbase v) s fun t => Quiet s t ∧ t.pkg = { s.pkg with btbase := v.extractLsb' 12 28 }) ∧
    (Ends (.registerWrite .btcount v) s fun t => Quiet s t ∧ t.btCount = min (v.toNat % 2 ^ 21) (2 ^ 20)) ∧
    (Ends (.registerWrite .pwrcap v) s fun t => Quiet s t ∧ t.pkg.watts.toNat = max 1600 (min (v.toNat % 4096) 3200)) ∧
    (Ends (.registerWrite .quantum v) s fun t => Quiet s t ∧ t.pkg = { s.pkg with quantum := v }) ∧
    (∀ d, d < 8 → Ends (.registerWrite (.partmap d) v) s fun t => Quiet s t ∧ ∀ c, c < dieCores d / 16 →
      t.clusterPart d c = if 12 ≤ v.toNat / 16 ^ c % 16 then 15 else v.toNat / 16 ^ c % 16) ∧
    (∀ k, let c := s.slot k; let put := fun (b : BindRec) => SlotIs k { c with bind := b } s
      Ends (.registerWrite (.bindRec k 1) v) s (put { c.bind with inst := v.extractLsb' 32 32, ninst := v.extractLsb' 0 32 }) ∧
      Ends (.registerWrite (.bindRec k 2) v) s (put { c.bind with frame := v.extractLsb' 12 28, fkey := v.extractLsb' 0 7 }) ∧
      Ends (.registerWrite (.bindRec k 3) v) s (put { c.bind with wdleft := v }) ∧
      (v.toNat / 2 ^ 60 = 0 → c.bind.st = .saved ∨ c.bind.st = .save → Ends (.registerWrite (.bindRec k 0) v) s fun t => SameBytes s t ∧
        (t.slot k).bind = { c.bind with
          st := .free, start := v.extractLsb' 58 2, prio := v.extractLsb' 52 6, vf := v.extractLsb' 46 6, part := v.extractLsb' 42 4,
          node := v.extractLsb' 10 32 })) ∧
    ∀ d n, exec (.registerWrite (.trainstat d n) v) s = .next s ∧ exec (.registerWrite (.rowstat d n) v) s = .next s ∧
      exec (.registerWrite (.sqhead d n) v) s = .next s) ∧
  (∀ s v, let x := s.vf v
    (x.tdisp = .configUnlocked → s.pkg.partharn.getLsbD (s.vfPartition v) = false → Ends (.lockInterface v) s fun t => Quiet s t ∧
      t.vf v = { x with tdisp := .configLocked }) ∧
    (x.tdisp ≠ .configUnlocked ∨ s.pkg.partharn.getLsbD (s.vfPartition v) = true → exec (.lockInterface v) s = .next s) ∧
    (x.tdisp = .configLocked → Ends (.startInterface v) s fun t => Quiet s t ∧ t.vf v = { x with tdisp := .run }) ∧
    (x.tdisp ≠ .configLocked → exec (.startInterface v) s = .next s) ∧
    (s.spdmUp = true → Ends (.keyExchange v) s fun t => Quiet s t ∧ t.vf v = { x with session := true }) ∧
    (s.spdmUp = false → exec (.keyExchange v) s = .next s) ∧
    Ends (.ideStreamKeying v) s fun t => Quiet s t ∧ t.vf v = { x with keyed := true }) ∧
  (∀ s pa w, let at_ := fun b => b ∈ s.bufs ∧ (s.entry b).v = true ∧ rangesMeet (s.btBase + 64 * b.toNat) 64 pa 8 = true
    (∀ b, at_ b → (s.vf (s.entry b).vf).reset ≠ some true) →
    ((∀ b, at_ b → s.locked (s.entry b).vf = false ∧ (s.vf (s.entry b).vf).tdisp ≠ .error) →
      Ends (.tableEntryChange pa [w]) s fun t => t.dword pa = w ∧ SameBytesBut pa 8 s t ∧ ∀ k, t.slot k = s.slot k) ∧
    ((∃ b, at_ b ∧ (s.vf (s.entry b).vf).tdisp = .error) → exec (.tableEntryChange pa [w]) s = .next s) ∧
    (∀ b, at_ b → s.locked (s.entry b).vf = true → (∀ x, at_ x → (s.vf (s.entry x).vf).tdisp ≠ .error) →
      Ends (.tableEntryChange pa [w]) s fun t => Quiet s t ∧ (t.vf (s.entry b).vf).tdisp = .error ∧
        t.pkg.vfEn.getLsbD (s.entry b).vf = false))
end

