-- ==== Sys2Proof/Laws/Tab.lean ====
section
/-! SUPPORT. Laws/Tab.lean: what a sparse table holds after put, del and set, and that they keep it sorted. -/

namespace Sys2Proof.Machine

variable {α : Type}

@[simp] theorem tabFind_nil (k : Nat) : tabFind k ([] : Tab α) = none := rfl

@[simp] theorem tabFind_put_same (k : Nat) (v : α) (t : Tab α) : tabFind k (tabPut k v t) = some v := by
  induction t with
  | nil => simp [tabPut, tabFind]
  | cons x l ih =>
    obtain ⟨j, w⟩ := x
    unfold tabPut
    split
    · simp [tabFind]
    · split
      · simp [tabFind]
      · simp_all [tabFind]

theorem tabFind_put_ne (k j : Nat) (v : α) (t : Tab α) (h : j ≠ k) : tabFind j (tabPut k v t) = tabFind j t := by
  induction t with
  | nil => simp [tabPut, tabFind, Ne.symm h]
  | cons x l ih =>
    obtain ⟨i, w⟩ := x
    unfold tabPut
    split
    · rename_i e; subst e; simp [tabFind, Ne.symm h]
    · split
      · simp [tabFind, Ne.symm h]
      · simp [tabFind, ih]

@[simp] theorem tabFind_del_same (k : Nat) (t : Tab α) : tabFind k (tabDel k t) = none := by
  induction t with
  | nil => rfl
  | cons x l ih =>
    obtain ⟨j, w⟩ := x
    unfold tabDel
    split
    · exact ih
    · simp_all [tabFind]

theorem tabFind_del_ne (k j : Nat) (t : Tab α) (h : j ≠ k) : tabFind j (tabDel k t) = tabFind j t := by
  induction t with
  | nil => rfl
  | cons x l ih =>
    obtain ⟨i, w⟩ := x
    unfold tabDel
    split
    · rename_i e; subst e; simp [tabFind, Ne.symm h, ih]
    · simp [tabFind, ih]

/-- What a key reads as after a set. -/
theorem tabGet_set [DecidableEq α] (d : α) (k j : Nat) (v : α) (t : Tab α) :
    tabGet d (tabSet d k v t) j = if j = k then v else tabGet d t j := by
  unfold tabGet tabSet
  by_cases h : j = k
  · subst h; by_cases hv : v = d <;> simp [hv]
  · by_cases hv : v = d <;> simp [hv, h, tabFind_del_ne _ _ _ h, tabFind_put_ne _ _ _ _ h]

/-- An entry of a table whose entries have been changed one by one. -/
theorem tabFind_map {β : Type} (f : Nat → α → β) (k : Nat) (t : Tab α) :
    tabFind k (t.map fun p => (p.1, f p.1 p.2)) = (tabFind k t).map (f k) := by
  induction t with
  | nil => rfl
  | cons x l ih =>
    obtain ⟨j, v⟩ := x
    simp only [List.map_cons, tabFind]
    split
    · rename_i e; subst e; rfl
    · exact ih

/-! ### Sorted tables -/

theorem tabSorted_weaken {b b' : Option Nat} {t : Tab α} (h : tabSorted b t = true) (hb : ∀ j, b' = some j → ∃ i, b = some i ∧ j ≤ i) :
    tabSorted b' t = true := by
  cases t with
  | nil => rfl
  | cons x l =>
    obtain ⟨k, v⟩ := x
    simp only [tabSorted, Bool.and_eq_true] at h ⊢
    refine ⟨?_, h.2⟩
    cases b' with
    | none => rfl
    | some j =>
      obtain ⟨i, rfl, hi⟩ := hb j rfl
      simp_all; omega

theorem tabSorted_put (b : Option Nat) (k : Nat) (v : α) (t : Tab α) (h : tabSorted b t = true) (hk : ∀ j, b = some j → j < k) :
    tabSorted b (tabPut k v t) = true := by
  induction t generalizing b with
  | nil => cases b <;> simp_all [tabPut, tabSorted]
  | cons x l ih =>
    obtain ⟨j, w⟩ := x
    simp only [tabSorted, Bool.and_eq_true] at h
    unfold tabPut
    split
    · rename_i e; subst e; simp only [tabSorted, Bool.and_eq_true]; exact h
    · split
      · rename_i hlt
        simp only [tabSorted, Bool.and_eq_true]
        refine ⟨?_, by simpa using hlt, h.2⟩
        cases b with
        | none => rfl
        | some i => simpa using hk i rfl
      · simp only [tabSorted, Bool.and_eq_true]
        exact ⟨h.1, ih (some j) h.2 (by intro i e; cases e; omega)⟩

/-- A filter of a sorted table is sorted. -/
theorem tabSorted_filter (b : Option Nat) (p : Nat × α → Bool) (t : Tab α) (h : tabSorted b t = true) :
    tabSorted b (t.filter p) = true := by
  induction t generalizing b with
  | nil => rfl
  | cons x l ih =>
    obtain ⟨k, v⟩ := x
    simp only [tabSorted, Bool.and_eq_true] at h
    rw [List.filter_cons]
    split
    · simp only [tabSorted, Bool.and_eq_true]; exact ⟨h.1, ih _ h.2⟩
    · refine tabSorted_weaken (ih _ h.2) ?_
      intro j e; subst e
      exact ⟨k, rfl, by have := h.1; simp at this; omega⟩

theorem tabDel_eq_filter (k : Nat) (t : Tab α) : tabDel k t = t.filter fun x => x.1 != k := by
  induction t with
  | nil => rfl
  | cons x l ih =>
    obtain ⟨j, w⟩ := x
    unfold tabDel
    split
    · rename_i e; simp [e, ih]
    · rename_i e; simp [e, ih]

theorem tabSorted_del (b : Option Nat) (k : Nat) (t : Tab α) (h : tabSorted b t = true) : tabSorted b (tabDel k t) = true := by
  rw [tabDel_eq_filter]; exact tabSorted_filter b _ t h

/-- What a key reads as in a filtered table, where the filter looks at keys alone. -/
theorem tabFind_filter_key (p : Nat → Bool) (k : Nat) (t : Tab α) :
    tabFind k (t.filter fun x => p x.1) = if p k then tabFind k t else none := by
  induction t with
  | nil => simp
  | cons x l ih =>
    obtain ⟨j, w⟩ := x
    rw [List.filter_cons]
    by_cases hj : j = k
    · subst hj; by_cases hp : p j = true <;> simp_all [tabFind]
    · by_cases hp : p j = true <;> simp_all [tabFind]

theorem mem_of_tabFind {k : Nat} {v : α} {t : Tab α} (h : tabFind k t = some v) : (k, v) ∈ t := by
  induction t with
  | nil => simp at h
  | cons x l ih =>
    obtain ⟨j, w⟩ := x
    simp only [tabFind] at h
    split at h
    · rename_i e; cases h; simp [e]
    · exact List.mem_cons_of_mem _ (ih h)

theorem mem_tabPut (k : Nat) (v : α) (t : Tab α) (x : Nat × α) (h : x ∈ tabPut k v t) : x = (k, v) ∨ x ∈ t := by
  induction t with
  | nil => simpa [tabPut] using h
  | cons y l ih =>
    obtain ⟨j, w⟩ := y
    unfold tabPut at h
    split at h
    · rcases List.mem_cons.mp h with e | e
      · exact .inl e
      · exact .inr (List.mem_cons_of_mem _ e)
    · split at h
      · rcases List.mem_cons.mp h with e | e
        · exact .inl e
        · exact .inr e
      · rcases List.mem_cons.mp h with e | e
        · exact .inr (e ▸ List.mem_cons_self)
        · rcases ih e with e | e
          · exact .inl e
          · exact .inr (List.mem_cons_of_mem _ e)

end Sys2Proof.Machine
end

