-- ==== Sys2Proof/Laws/Memory.lean ====
section
/-! SUPPORT. Laws/Memory.lean: memory after each of its operations: which byte a location reads as, and that the canonical form is kept. -/

namespace Sys2Proof.Machine

open Host

/-! ### Reads after writes -/

/-- A location after one byte was written. -/
theorem memGet_put (m : List Cell) (a x : Nat) (v : Byte) : memGet (memPut m a v) x = if x = a then v else memGet m x :=
  tabGet_set 0 a x v m

@[simp] theorem memGet_put_same (m : List Cell) (a : Nat) (v : Byte) : memGet (memPut m a v) a = v := by simp [memGet_put]

theorem memGet_put_ne (m : List Cell) (a x : Nat) (v : Byte) (h : x ≠ a) : memGet (memPut m a v) x = memGet m x := by simp [memGet_put, h]

@[simp] theorem memWrite_nil (m : List Cell) : memWrite m [] = m := rfl

@[simp] theorem memWrite_cons (m : List Cell) (c : Nat × Byte) (l : List (Nat × Byte)) : memWrite m (c :: l) = memWrite (memPut m c.1 c.2) l := rfl

theorem memWrite_append (m : List Cell) (l k : List (Nat × Byte)) : memWrite m (l ++ k) = memWrite (memWrite m l) k := by
  simp [memWrite]

/-- A location that a write does not list reads as before. -/
theorem memGet_write_ne (m : List Cell) (l : List (Nat × Byte)) (x : Nat) (h : ∀ c ∈ l, c.1 ≠ x) : memGet (memWrite m l) x = memGet m x := by
  induction l generalizing m with
  | nil => rfl
  | cons c l ih =>
    rw [memWrite_cons, ih _ fun d hd => h d (List.mem_cons_of_mem _ hd), memGet_put_ne]
    exact fun e => h c List.mem_cons_self e.symm

theorem mem_countFrom (k n x : Nat) : x ∈ countFrom k n ↔ k ≤ x ∧ x < k + n := by
  simp only [countFrom, List.mem_map, List.mem_range]
  constructor
  · rintro ⟨i, h, rfl⟩; omega
  · intro h; exact ⟨x - k, by omega, by omega⟩

@[simp] theorem length_countFrom (k n : Nat) : (countFrom k n).length = n := by simp [countFrom]

theorem countFrom_succ (k n : Nat) : countFrom k (n + 1) = k :: countFrom (k + 1) n := by
  apply List.ext_getElem
  · simp [countFrom]
  · intro i h1 h2
    cases i with
    | zero => simp [countFrom]
    | succ i => simp [countFrom]; omega

/-- Bytes written at consecutive locations leave every other location. -/
theorem memGet_write_range (m : List Cell) (a x : Nat) (bs : List Byte) (h : x < a ∨ a + bs.length ≤ x) :
    memGet (memWrite m ((countFrom a bs.length).zip bs)) x = memGet m x := by
  apply memGet_write_ne
  intro c hc
  have := (mem_countFrom a bs.length c.1).mp (List.of_mem_zip hc).1
  omega

/-- Bytes written at consecutive locations are read back. -/
theorem memBytes_write (m : List Cell) (a : Nat) (bs : List Byte) :
    memBytes (memWrite m ((countFrom a bs.length).zip bs)) a bs.length = bs := by
  induction bs generalizing m a with
  | nil => rfl
  | cons b l ih =>
    simp only [List.length_cons, countFrom_succ, List.zip_cons_cons, memWrite_cons, memBytes, List.map_cons]
    refine List.cons_eq_cons.mpr ⟨?_, ?_⟩
    · rw [memGet_write_range _ _ _ _ (.inl (by omega))]; simp
    · exact ih (memPut m a b) (a + 1)

/-- Reads of a range that agree byte by byte agree. -/
theorem memBytes_congr {m k : List Cell} (a n : Nat) (h : ∀ x, a ≤ x → x < a + n → memGet m x = memGet k x) : memBytes m a n = memBytes k a n := by
  simp only [memBytes]
  apply List.map_congr_left
  intro x hx
  have := (mem_countFrom a n x).mp hx
  exact h x this.1 this.2

/-- A range cleared reads as zero; the rest as before. -/
theorem memGet_clear (m : List Cell) (a n x : Nat) : memGet (memClear m a n) x = if a ≤ x ∧ x < a + n then 0 else memGet m x := by
  unfold memGet memClear tabGet
  have h := tabFind_filter_key (fun k => !(a ≤ k && k < a + n)) x m
  rw [h]
  by_cases e : a ≤ x ∧ x < a + n
  · simp [e]
  · have e' : x < a ∨ a + n ≤ x := by omega
    simp [e, e']

/-! ### The canonical form -/

/-- The canonical form, as its two parts. -/
theorem memory_wf_iff (m : List Cell) : Memory.wf m = true ↔ tabSorted none m = true ∧ ∀ c ∈ m, c.2 ≠ 0 := by
  simp [Memory.wf]

theorem wf_nil : Memory.wf [] = true := rfl

/-- A write of one byte keeps the canonical form. -/
theorem wf_put {m : List Cell} (h : Memory.wf m = true) (a : Nat) (v : Byte) : Memory.wf (memPut m a v) = true := by
  rw [memory_wf_iff] at h ⊢
  unfold memPut tabSet
  split
  · refine ⟨tabSorted_del _ _ _ h.1, fun c hc => ?_⟩
    rw [tabDel_eq_filter] at hc
    exact h.2 c ((List.mem_filter.mp hc).1)
  · rename_i hv
    refine ⟨tabSorted_put _ _ _ _ h.1 (by simp), fun c hc => ?_⟩
    rcases mem_tabPut _ _ _ _ hc with e | e
    · rw [e]; exact hv
    · exact h.2 c e

/-- A write of listed bytes keeps it. -/
theorem wf_write {m : List Cell} (h : Memory.wf m = true) (l : List (Nat × Byte)) : Memory.wf (memWrite m l) = true := by
  induction l generalizing m with
  | nil => exact h
  | cons c l ih => exact ih (wf_put h c.1 c.2)

/-- A filter keeps it: memory cleared in a range, or lost at a reset. -/
theorem wf_filter {m : List Cell} (h : Memory.wf m = true) (p : Cell → Bool) : Memory.wf (m.filter p) = true := by
  rw [memory_wf_iff] at h ⊢
  exact ⟨tabSorted_filter _ _ _ h.1, fun c hc => h.2 c ((List.mem_filter.mp hc).1)⟩

theorem wf_clear {m : List Cell} (h : Memory.wf m = true) (a n : Nat) : Memory.wf (memClear m a n) = true := wf_filter h _

/-- Two memories in canonical form that read the same everywhere are the same list, so that equal memories are equal data. -/
theorem wf_ext_head {m k : List Cell} (hm : Memory.wf m = true) (hk : Memory.wf k = true) (h : ∀ x, memGet m x = memGet k x) :
    m.head?.map (·.1) = k.head?.map (·.1) := by
  have below : ∀ (t : List Cell) (b x : Nat), tabSorted (some b) t = true → x ≤ b → memGet t x = 0 := by
    intro t
    induction t with
    | nil => intros; rfl
    | cons y l ih =>
      obtain ⟨j, w⟩ := y
      intro b x hs hx
      simp only [tabSorted, Bool.and_eq_true, decide_eq_true_eq] at hs
      have hj : j ≠ x := by omega
      have := ih j x hs.2 (by omega)
      simpa [memGet, tabGet, tabFind, hj] using this
  have first : ∀ (t : List Cell) (j : Nat) (w : Byte) (x : Nat), tabSorted none ((j, w) :: t) = true → x < j → memGet ((j, w) :: t) x = 0 := by
    intro t j w x hs hx
    simp only [tabSorted, Bool.and_eq_true] at hs
    have hj : j ≠ x := by omega
    have := below t j x hs.2 (by omega)
    simpa [memGet, tabGet, tabFind, hj] using this
  rw [memory_wf_iff] at hm hk
  cases m with
  | nil =>
    cases k with
    | nil => rfl
    | cons y l =>
      obtain ⟨j, w⟩ := y
      have := h j
      simp [memGet, tabGet, tabFind] at this
      exact absurd this.symm (hk.2 (j, w) List.mem_cons_self)
  | cons z n =>
    obtain ⟨i, v⟩ := z
    cases k with
    | nil =>
      have := h i
      simp [memGet, tabGet, tabFind] at this
      exact absurd this (hm.2 (i, v) List.mem_cons_self)
    | cons y l =>
      obtain ⟨j, w⟩ := y
      rcases Nat.lt_trichotomy i j with e | e | e
      · have h1 := h i
        rw [first l j w i hk.1 e] at h1
        simp [memGet, tabGet, tabFind] at h1
        exact absurd h1 (hm.2 (i, v) List.mem_cons_self)
      · simp [e]
      · have h1 := h j
        rw [first n i v j hm.1 e] at h1
        simp [memGet, tabGet, tabFind] at h1
        exact absurd h1.symm (hk.2 (j, w) List.mem_cons_self)

/-- Memory right after reset stands in its canonical form. -/
theorem reset_memOk : State.reset.MemOk := rfl

end Sys2Proof.Machine
end

