-- ==== Sys2Proof/Laws/State.lean ====
section
/-! SUPPORT. Laws/State.lean: what each update of a context or of the machine leaves as it was, and what its accessors read after it. -/

namespace Sys2Proof.Machine

/-! ### Updates of a context, field by field -/

@[simp] theorem Ctx.upd_bind (c : Ctx) (f : Regs → Regs) : (c.upd f).bind = c.bind := rfl
@[simp] theorem Ctx.upd_launch (c : Ctx) (f : Regs → Regs) : (c.upd f).launch = c.launch := rfl
@[simp] theorem Ctx.upd_hist (c : Ctx) (f : Regs → Regs) : (c.upd f).hist = c.hist := rfl
@[simp] theorem Ctx.upd_wait (c : Ctx) (f : Regs → Regs) : (c.upd f).wait = c.wait := rfl
@[simp] theorem Ctx.upd_out (c : Ctx) (f : Regs → Regs) : (c.upd f).out = c.out := rfl
@[simp] theorem Ctx.upd_rest (c : Ctx) (f : Regs → Regs) : (c.upd f).rest = c.rest := rfl
@[simp] theorem Ctx.upd_mon (c : Ctx) (f : Regs → Regs) : (c.upd f).mon = c.mon := rfl
@[simp] theorem Ctx.upd_halt (c : Ctx) (f : Regs → Regs) : (c.upd f).halt = c.halt := rfl
@[simp] theorem Ctx.upd_bindTick (c : Ctx) (f : Regs → Regs) : (c.upd f).bindTick = c.bindTick := rfl
@[simp] theorem Ctx.upd_moving (c : Ctx) (f : Regs → Regs) : (c.upd f).moving = c.moving := rfl
@[simp] theorem Ctx.upd_saveWhy (c : Ctx) (f : Regs → Regs) : (c.upd f).saveWhy = c.saveWhy := rfl
@[simp] theorem Ctx.upd_faultRec (c : Ctx) (f : Regs → Regs) : (c.upd f).faultRec = c.faultRec := rfl
@[simp] theorem Ctx.upd_faultAt (c : Ctx) (f : Regs → Regs) : (c.upd f).faultAt = c.faultAt := rfl
@[simp] theorem Ctx.upd_regs (c : Ctx) (f : Regs → Regs) : (c.upd f).regs = f c.regs := rfl
@[simp] theorem Ctx.updCsr_bind (c : Ctx) (f : Csrs → Csrs) : (c.updCsr f).bind = c.bind := rfl
@[simp] theorem Ctx.updCsr_launch (c : Ctx) (f : Csrs → Csrs) : (c.updCsr f).launch = c.launch := rfl
@[simp] theorem Ctx.updCsr_hist (c : Ctx) (f : Csrs → Csrs) : (c.updCsr f).hist = c.hist := rfl
@[simp] theorem Ctx.updCsr_wait (c : Ctx) (f : Csrs → Csrs) : (c.updCsr f).wait = c.wait := rfl
@[simp] theorem Ctx.updCsr_out (c : Ctx) (f : Csrs → Csrs) : (c.updCsr f).out = c.out := rfl
@[simp] theorem Ctx.updCsr_rest (c : Ctx) (f : Csrs → Csrs) : (c.updCsr f).rest = c.rest := rfl
@[simp] theorem Ctx.updCsr_mon (c : Ctx) (f : Csrs → Csrs) : (c.updCsr f).mon = c.mon := rfl
@[simp] theorem Ctx.updCsr_halt (c : Ctx) (f : Csrs → Csrs) : (c.updCsr f).halt = c.halt := rfl
@[simp] theorem Ctx.updCsr_bindTick (c : Ctx) (f : Csrs → Csrs) : (c.updCsr f).bindTick = c.bindTick := rfl
@[simp] theorem Ctx.updCsr_moving (c : Ctx) (f : Csrs → Csrs) : (c.updCsr f).moving = c.moving := rfl
@[simp] theorem Ctx.updCsr_saveWhy (c : Ctx) (f : Csrs → Csrs) : (c.updCsr f).saveWhy = c.saveWhy := rfl
@[simp] theorem Ctx.updCsr_faultRec (c : Ctx) (f : Csrs → Csrs) : (c.updCsr f).faultRec = c.faultRec := rfl
@[simp] theorem Ctx.updCsr_faultAt (c : Ctx) (f : Csrs → Csrs) : (c.updCsr f).faultAt = c.faultAt := rfl
@[simp] theorem Ctx.updCsr_regs_pc (c : Ctx) (f : Csrs → Csrs) : (c.updCsr f).regs.pc = c.regs.pc := rfl
@[simp] theorem Ctx.updCsr_regs_s (c : Ctx) (f : Csrs → Csrs) : (c.updCsr f).regs.s = c.regs.s := rfl
@[simp] theorem Ctx.updCsr_regs_c (c : Ctx) (f : Csrs → Csrs) : (c.updCsr f).regs.c = c.regs.c := rfl
@[simp] theorem Ctx.updCsr_regs_v (c : Ctx) (f : Csrs → Csrs) : (c.updCsr f).regs.v = c.regs.v := rfl
@[simp] theorem Ctx.updCsr_regs_slots (c : Ctx) (f : Csrs → Csrs) : (c.updCsr f).regs.slots = c.regs.slots := rfl
@[simp] theorem Ctx.updCsr_regs_m (c : Ctx) (f : Csrs → Csrs) : (c.updCsr f).regs.m = c.regs.m := rfl
@[simp] theorem Ctx.updCsr_regs_tags (c : Ctx) (f : Csrs → Csrs) : (c.updCsr f).regs.tags = c.regs.tags := rfl
@[simp] theorem Ctx.updCsr_regs_shape (c : Ctx) (f : Csrs → Csrs) : (c.updCsr f).regs.shape = c.regs.shape := rfl
@[simp] theorem Ctx.updCsr_regs_loops (c : Ctx) (f : Csrs → Csrs) : (c.updCsr f).regs.loops = c.regs.loops := rfl
@[simp] theorem Ctx.updCsr_regs_aside (c : Ctx) (f : Csrs → Csrs) : (c.updCsr f).regs.aside = c.regs.aside := rfl
@[simp] theorem Ctx.updCsr_regs_handler (c : Ctx) (f : Csrs → Csrs) : (c.updCsr f).regs.handler = c.regs.handler := rfl
@[simp] theorem Ctx.updCsr_regs_arr (c : Ctx) (f : Csrs → Csrs) : (c.updCsr f).regs.arr = c.regs.arr := rfl
@[simp] theorem Ctx.updCsr_regs_g (c : Ctx) (f : Csrs → Csrs) : (c.updCsr f).regs.g = c.regs.g := rfl
@[simp] theorem Ctx.updCsr_regs_tie (c : Ctx) (f : Csrs → Csrs) : (c.updCsr f).regs.tie = c.regs.tie := rfl
@[simp] theorem Ctx.updCsr_regs_deferred (c : Ctx) (f : Csrs → Csrs) : (c.updCsr f).regs.deferred = c.regs.deferred := rfl
@[simp] theorem Ctx.updCsr_regs_deferCnt (c : Ctx) (f : Csrs → Csrs) : (c.updCsr f).regs.deferCnt = c.regs.deferCnt := rfl
@[simp] theorem Ctx.updCsr_regs_chans (c : Ctx) (f : Csrs → Csrs) : (c.updCsr f).regs.chans = c.regs.chans := rfl
@[simp] theorem Ctx.updCsr_regs_barsyncP (c : Ctx) (f : Csrs → Csrs) : (c.updCsr f).regs.barsyncP = c.regs.barsyncP := rfl
@[simp] theorem Ctx.updCsr_regs_hbarP (c : Ctx) (f : Csrs → Csrs) : (c.updCsr f).regs.hbarP = c.regs.hbarP := rfl
@[simp] theorem Ctx.updCsr_regs_asideP (c : Ctx) (f : Csrs → Csrs) : (c.updCsr f).regs.asideP = c.regs.asideP := rfl
@[simp] theorem Ctx.updCsr_regs_streams (c : Ctx) (f : Csrs → Csrs) : (c.updCsr f).regs.streams = c.regs.streams := rfl
@[simp] theorem Ctx.updCsr_regs_dirty (c : Ctx) (f : Csrs → Csrs) : (c.updCsr f).regs.dirty = c.regs.dirty := rfl
@[simp] theorem Ctx.updCsr_regs_image (c : Ctx) (f : Csrs → Csrs) : (c.updCsr f).regs.image = c.regs.image := rfl
@[simp] theorem Ctx.updCsr_regs_saves (c : Ctx) (f : Csrs → Csrs) : (c.updCsr f).regs.saves = c.regs.saves := rfl
@[simp] theorem Ctx.updCsr_regs_saveWhy (c : Ctx) (f : Csrs → Csrs) : (c.updCsr f).regs.saveWhy = c.regs.saveWhy := rfl
@[simp] theorem Ctx.updCsr_regs_saveTick (c : Ctx) (f : Csrs → Csrs) : (c.updCsr f).regs.saveTick = c.regs.saveTick := rfl
@[simp] theorem Ctx.updCsr_regs_pageBuf (c : Ctx) (f : Csrs → Csrs) : (c.updCsr f).regs.pageBuf = c.regs.pageBuf := rfl
@[simp] theorem Ctx.updCsr_regs_pageOff (c : Ctx) (f : Csrs → Csrs) : (c.updCsr f).regs.pageOff = c.regs.pageOff := rfl
@[simp] theorem Ctx.updArr_bind (c : Ctx) (f : Arr → Arr) : (c.updArr f).bind = c.bind := rfl
@[simp] theorem Ctx.updArr_launch (c : Ctx) (f : Arr → Arr) : (c.updArr f).launch = c.launch := rfl
@[simp] theorem Ctx.updArr_hist (c : Ctx) (f : Arr → Arr) : (c.updArr f).hist = c.hist := rfl
@[simp] theorem Ctx.updArr_wait (c : Ctx) (f : Arr → Arr) : (c.updArr f).wait = c.wait := rfl
@[simp] theorem Ctx.updArr_out (c : Ctx) (f : Arr → Arr) : (c.updArr f).out = c.out := rfl
@[simp] theorem Ctx.updArr_rest (c : Ctx) (f : Arr → Arr) : (c.updArr f).rest = c.rest := rfl
@[simp] theorem Ctx.updArr_mon (c : Ctx) (f : Arr → Arr) : (c.updArr f).mon = c.mon := rfl
@[simp] theorem Ctx.updArr_halt (c : Ctx) (f : Arr → Arr) : (c.updArr f).halt = c.halt := rfl
@[simp] theorem Ctx.updArr_bindTick (c : Ctx) (f : Arr → Arr) : (c.updArr f).bindTick = c.bindTick := rfl
@[simp] theorem Ctx.updArr_moving (c : Ctx) (f : Arr → Arr) : (c.updArr f).moving = c.moving := rfl
@[simp] theorem Ctx.updArr_saveWhy (c : Ctx) (f : Arr → Arr) : (c.updArr f).saveWhy = c.saveWhy := rfl
@[simp] theorem Ctx.updArr_faultRec (c : Ctx) (f : Arr → Arr) : (c.updArr f).faultRec = c.faultRec := rfl
@[simp] theorem Ctx.updArr_faultAt (c : Ctx) (f : Arr → Arr) : (c.updArr f).faultAt = c.faultAt := rfl
@[simp] theorem Ctx.updArr_regs_pc (c : Ctx) (f : Arr → Arr) : (c.updArr f).regs.pc = c.regs.pc := rfl
@[simp] theorem Ctx.updArr_regs_s (c : Ctx) (f : Arr → Arr) : (c.updArr f).regs.s = c.regs.s := rfl
@[simp] theorem Ctx.updArr_regs_c (c : Ctx) (f : Arr → Arr) : (c.updArr f).regs.c = c.regs.c := rfl
@[simp] theorem Ctx.updArr_regs_v (c : Ctx) (f : Arr → Arr) : (c.updArr f).regs.v = c.regs.v := rfl
@[simp] theorem Ctx.updArr_regs_slots (c : Ctx) (f : Arr → Arr) : (c.updArr f).regs.slots = c.regs.slots := rfl
@[simp] theorem Ctx.updArr_regs_m (c : Ctx) (f : Arr → Arr) : (c.updArr f).regs.m = c.regs.m := rfl
@[simp] theorem Ctx.updArr_regs_tags (c : Ctx) (f : Arr → Arr) : (c.updArr f).regs.tags = c.regs.tags := rfl
@[simp] theorem Ctx.updArr_regs_csr (c : Ctx) (f : Arr → Arr) : (c.updArr f).regs.csr = c.regs.csr := rfl
@[simp] theorem Ctx.updArr_regs_shape (c : Ctx) (f : Arr → Arr) : (c.updArr f).regs.shape = c.regs.shape := rfl
@[simp] theorem Ctx.updArr_regs_loops (c : Ctx) (f : Arr → Arr) : (c.updArr f).regs.loops = c.regs.loops := rfl
@[simp] theorem Ctx.updArr_regs_aside (c : Ctx) (f : Arr → Arr) : (c.updArr f).regs.aside = c.regs.aside := rfl
@[simp] theorem Ctx.updArr_regs_handler (c : Ctx) (f : Arr → Arr) : (c.updArr f).regs.handler = c.regs.handler := rfl
@[simp] theorem Ctx.updArr_regs_g (c : Ctx) (f : Arr → Arr) : (c.updArr f).regs.g = c.regs.g := rfl
@[simp] theorem Ctx.updArr_regs_tie (c : Ctx) (f : Arr → Arr) : (c.updArr f).regs.tie = c.regs.tie := rfl
@[simp] theorem Ctx.updArr_regs_deferred (c : Ctx) (f : Arr → Arr) : (c.updArr f).regs.deferred = c.regs.deferred := rfl
@[simp] theorem Ctx.updArr_regs_deferCnt (c : Ctx) (f : Arr → Arr) : (c.updArr f).regs.deferCnt = c.regs.deferCnt := rfl
@[simp] theorem Ctx.updArr_regs_chans (c : Ctx) (f : Arr → Arr) : (c.updArr f).regs.chans = c.regs.chans := rfl
@[simp] theorem Ctx.updArr_regs_barsyncP (c : Ctx) (f : Arr → Arr) : (c.updArr f).regs.barsyncP = c.regs.barsyncP := rfl
@[simp] theorem Ctx.updArr_regs_hbarP (c : Ctx) (f : Arr → Arr) : (c.updArr f).regs.hbarP = c.regs.hbarP := rfl
@[simp] theorem Ctx.updArr_regs_asideP (c : Ctx) (f : Arr → Arr) : (c.updArr f).regs.asideP = c.regs.asideP := rfl
@[simp] theorem Ctx.updArr_regs_streams (c : Ctx) (f : Arr → Arr) : (c.updArr f).regs.streams = c.regs.streams := rfl
@[simp] theorem Ctx.updArr_regs_dirty (c : Ctx) (f : Arr → Arr) : (c.updArr f).regs.dirty = c.regs.dirty := rfl
@[simp] theorem Ctx.updArr_regs_image (c : Ctx) (f : Arr → Arr) : (c.updArr f).regs.image = c.regs.image := rfl
@[simp] theorem Ctx.updArr_regs_saves (c : Ctx) (f : Arr → Arr) : (c.updArr f).regs.saves = c.regs.saves := rfl
@[simp] theorem Ctx.updArr_regs_saveWhy (c : Ctx) (f : Arr → Arr) : (c.updArr f).regs.saveWhy = c.regs.saveWhy := rfl
@[simp] theorem Ctx.updArr_regs_saveTick (c : Ctx) (f : Arr → Arr) : (c.updArr f).regs.saveTick = c.regs.saveTick := rfl
@[simp] theorem Ctx.updArr_regs_pageBuf (c : Ctx) (f : Arr → Arr) : (c.updArr f).regs.pageBuf = c.regs.pageBuf := rfl
@[simp] theorem Ctx.updArr_regs_pageOff (c : Ctx) (f : Arr → Arr) : (c.updArr f).regs.pageOff = c.regs.pageOff := rfl
@[simp] theorem Ctx.setS_bind (c : Ctx) (n : RegNo) (v : Word) : (c.setS n v).bind = c.bind := by unfold Ctx.setS; split <;> rfl
@[simp] theorem Ctx.setS_launch (c : Ctx) (n : RegNo) (v : Word) : (c.setS n v).launch = c.launch := by unfold Ctx.setS; split <;> rfl
@[simp] theorem Ctx.setS_hist (c : Ctx) (n : RegNo) (v : Word) : (c.setS n v).hist = c.hist := by unfold Ctx.setS; split <;> rfl
@[simp] theorem Ctx.setS_wait (c : Ctx) (n : RegNo) (v : Word) : (c.setS n v).wait = c.wait := by unfold Ctx.setS; split <;> rfl
@[simp] theorem Ctx.setS_out (c : Ctx) (n : RegNo) (v : Word) : (c.setS n v).out = c.out := by unfold Ctx.setS; split <;> rfl
@[simp] theorem Ctx.setS_rest (c : Ctx) (n : RegNo) (v : Word) : (c.setS n v).rest = c.rest := by unfold Ctx.setS; split <;> rfl
@[simp] theorem Ctx.setS_mon (c : Ctx) (n : RegNo) (v : Word) : (c.setS n v).mon = c.mon := by unfold Ctx.setS; split <;> rfl
@[simp] theorem Ctx.setS_halt (c : Ctx) (n : RegNo) (v : Word) : (c.setS n v).halt = c.halt := by unfold Ctx.setS; split <;> rfl
@[simp] theorem Ctx.setS_bindTick (c : Ctx) (n : RegNo) (v : Word) : (c.setS n v).bindTick = c.bindTick := by unfold Ctx.setS; split <;> rfl
@[simp] theorem Ctx.setS_moving (c : Ctx) (n : RegNo) (v : Word) : (c.setS n v).moving = c.moving := by unfold Ctx.setS; split <;> rfl
@[simp] theorem Ctx.setS_saveWhy (c : Ctx) (n : RegNo) (v : Word) : (c.setS n v).saveWhy = c.saveWhy := by unfold Ctx.setS; split <;> rfl
@[simp] theorem Ctx.setS_faultRec (c : Ctx) (n : RegNo) (v : Word) : (c.setS n v).faultRec = c.faultRec := by unfold Ctx.setS; split <;> rfl
@[simp] theorem Ctx.setS_faultAt (c : Ctx) (n : RegNo) (v : Word) : (c.setS n v).faultAt = c.faultAt := by unfold Ctx.setS; split <;> rfl
@[simp] theorem Ctx.setS_regs_pc (c : Ctx) (n : RegNo) (v : Word) : (c.setS n v).regs.pc = c.regs.pc := by unfold Ctx.setS; split <;> rfl
@[simp] theorem Ctx.setS_regs_c (c : Ctx) (n : RegNo) (v : Word) : (c.setS n v).regs.c = c.regs.c := by unfold Ctx.setS; split <;> rfl
@[simp] theorem Ctx.setS_regs_v (c : Ctx) (n : RegNo) (v : Word) : (c.setS n v).regs.v = c.regs.v := by unfold Ctx.setS; split <;> rfl
@[simp] theorem Ctx.setS_regs_slots (c : Ctx) (n : RegNo) (v : Word) : (c.setS n v).regs.slots = c.regs.slots := by unfold Ctx.setS; split <;> rfl
@[simp] theorem Ctx.setS_regs_m (c : Ctx) (n : RegNo) (v : Word) : (c.setS n v).regs.m = c.regs.m := by unfold Ctx.setS; split <;> rfl
@[simp] theorem Ctx.setS_regs_tags (c : Ctx) (n : RegNo) (v : Word) : (c.setS n v).regs.tags = c.regs.tags := by unfold Ctx.setS; split <;> rfl
@[simp] theorem Ctx.setS_regs_csr (c : Ctx) (n : RegNo) (v : Word) : (c.setS n v).regs.csr = c.regs.csr := by unfold Ctx.setS; split <;> rfl
@[simp] theorem Ctx.setS_regs_shape (c : Ctx) (n : RegNo) (v : Word) : (c.setS n v).regs.shape = c.regs.shape := by unfold Ctx.setS; split <;> rfl
@[simp] theorem Ctx.setS_regs_loops (c : Ctx) (n : RegNo) (v : Word) : (c.setS n v).regs.loops = c.regs.loops := by unfold Ctx.setS; split <;> rfl
@[simp] theorem Ctx.setS_regs_aside (c : Ctx) (n : RegNo) (v : Word) : (c.setS n v).regs.aside = c.regs.aside := by unfold Ctx.setS; split <;> rfl
@[simp] theorem Ctx.setS_regs_handler (c : Ctx) (n : RegNo) (v : Word) : (c.setS n v).regs.handler = c.regs.handler := by unfold Ctx.setS; split <;> rfl
@[simp] theorem Ctx.setS_regs_arr (c : Ctx) (n : RegNo) (v : Word) : (c.setS n v).regs.arr = c.regs.arr := by unfold Ctx.setS; split <;> rfl
@[simp] theorem Ctx.setS_regs_g (c : Ctx) (n : RegNo) (v : Word) : (c.setS n v).regs.g = c.regs.g := by unfold Ctx.setS; split <;> rfl
@[simp] theorem Ctx.setS_regs_tie (c : Ctx) (n : RegNo) (v : Word) : (c.setS n v).regs.tie = c.regs.tie := by unfold Ctx.setS; split <;> rfl
@[simp] theorem Ctx.setS_regs_deferred (c : Ctx) (n : RegNo) (v : Word) : (c.setS n v).regs.deferred = c.regs.deferred := by unfold Ctx.setS; split <;> rfl
@[simp] theorem Ctx.setS_regs_deferCnt (c : Ctx) (n : RegNo) (v : Word) : (c.setS n v).regs.deferCnt = c.regs.deferCnt := by unfold Ctx.setS; split <;> rfl
@[simp] theorem Ctx.setS_regs_chans (c : Ctx) (n : RegNo) (v : Word) : (c.setS n v).regs.chans = c.regs.chans := by unfold Ctx.setS; split <;> rfl
@[simp] theorem Ctx.setS_regs_barsyncP (c : Ctx) (n : RegNo) (v : Word) : (c.setS n v).regs.barsyncP = c.regs.barsyncP := by unfold Ctx.setS; split <;> rfl
@[simp] theorem Ctx.setS_regs_hbarP (c : Ctx) (n : RegNo) (v : Word) : (c.setS n v).regs.hbarP = c.regs.hbarP := by unfold Ctx.setS; split <;> rfl
@[simp] theorem Ctx.setS_regs_asideP (c : Ctx) (n : RegNo) (v : Word) : (c.setS n v).regs.asideP = c.regs.asideP := by unfold Ctx.setS; split <;> rfl
@[simp] theorem Ctx.setS_regs_streams (c : Ctx) (n : RegNo) (v : Word) : (c.setS n v).regs.streams = c.regs.streams := by unfold Ctx.setS; split <;> rfl
@[simp] theorem Ctx.setS_regs_dirty (c : Ctx) (n : RegNo) (v : Word) : (c.setS n v).regs.dirty = c.regs.dirty := by unfold Ctx.setS; split <;> rfl
@[simp] theorem Ctx.setS_regs_image (c : Ctx) (n : RegNo) (v : Word) : (c.setS n v).regs.image = c.regs.image := by unfold Ctx.setS; split <;> rfl
@[simp] theorem Ctx.setS_regs_saves (c : Ctx) (n : RegNo) (v : Word) : (c.setS n v).regs.saves = c.regs.saves := by unfold Ctx.setS; split <;> rfl
@[simp] theorem Ctx.setS_regs_saveWhy (c : Ctx) (n : RegNo) (v : Word) : (c.setS n v).regs.saveWhy = c.regs.saveWhy := by unfold Ctx.setS; split <;> rfl
@[simp] theorem Ctx.setS_regs_saveTick (c : Ctx) (n : RegNo) (v : Word) : (c.setS n v).regs.saveTick = c.regs.saveTick := by unfold Ctx.setS; split <;> rfl
@[simp] theorem Ctx.setS_regs_pageBuf (c : Ctx) (n : RegNo) (v : Word) : (c.setS n v).regs.pageBuf = c.regs.pageBuf := by unfold Ctx.setS; split <;> rfl
@[simp] theorem Ctx.setS_regs_pageOff (c : Ctx) (n : RegNo) (v : Word) : (c.setS n v).regs.pageOff = c.regs.pageOff := by unfold Ctx.setS; split <;> rfl
@[simp] theorem Ctx.setC_bind (c : Ctx) (n : RegNo) (v : CReg) : (c.setC n v).bind = c.bind := rfl
@[simp] theorem Ctx.setC_launch (c : Ctx) (n : RegNo) (v : CReg) : (c.setC n v).launch = c.launch := rfl
@[simp] theorem Ctx.setC_hist (c : Ctx) (n : RegNo) (v : CReg) : (c.setC n v).hist = c.hist := rfl
@[simp] theorem Ctx.setC_wait (c : Ctx) (n : RegNo) (v : CReg) : (c.setC n v).wait = c.wait := rfl
@[simp] theorem Ctx.setC_out (c : Ctx) (n : RegNo) (v : CReg) : (c.setC n v).out = c.out := rfl
@[simp] theorem Ctx.setC_rest (c : Ctx) (n : RegNo) (v : CReg) : (c.setC n v).rest = c.rest := rfl
@[simp] theorem Ctx.setC_mon (c : Ctx) (n : RegNo) (v : CReg) : (c.setC n v).mon = c.mon := rfl
@[simp] theorem Ctx.setC_halt (c : Ctx) (n : RegNo) (v : CReg) : (c.setC n v).halt = c.halt := rfl
@[simp] theorem Ctx.setC_bindTick (c : Ctx) (n : RegNo) (v : CReg) : (c.setC n v).bindTick = c.bindTick := rfl
@[simp] theorem Ctx.setC_moving (c : Ctx) (n : RegNo) (v : CReg) : (c.setC n v).moving = c.moving := rfl
@[simp] theorem Ctx.setC_saveWhy (c : Ctx) (n : RegNo) (v : CReg) : (c.setC n v).saveWhy = c.saveWhy := rfl
@[simp] theorem Ctx.setC_faultRec (c : Ctx) (n : RegNo) (v : CReg) : (c.setC n v).faultRec = c.faultRec := rfl
@[simp] theorem Ctx.setC_faultAt (c : Ctx) (n : RegNo) (v : CReg) : (c.setC n v).faultAt = c.faultAt := rfl
@[simp] theorem Ctx.setC_regs_pc (c : Ctx) (n : RegNo) (v : CReg) : (c.setC n v).regs.pc = c.regs.pc := rfl
@[simp] theorem Ctx.setC_regs_s (c : Ctx) (n : RegNo) (v : CReg) : (c.setC n v).regs.s = c.regs.s := rfl
@[simp] theorem Ctx.setC_regs_v (c : Ctx) (n : RegNo) (v : CReg) : (c.setC n v).regs.v = c.regs.v := rfl
@[simp] theorem Ctx.setC_regs_slots (c : Ctx) (n : RegNo) (v : CReg) : (c.setC n v).regs.slots = c.regs.slots := rfl
@[simp] theorem Ctx.setC_regs_m (c : Ctx) (n : RegNo) (v : CReg) : (c.setC n v).regs.m = c.regs.m := rfl
@[simp] theorem Ctx.setC_regs_tags (c : Ctx) (n : RegNo) (v : CReg) : (c.setC n v).regs.tags = c.regs.tags := rfl
@[simp] theorem Ctx.setC_regs_csr (c : Ctx) (n : RegNo) (v : CReg) : (c.setC n v).regs.csr = c.regs.csr := rfl
@[simp] theorem Ctx.setC_regs_shape (c : Ctx) (n : RegNo) (v : CReg) : (c.setC n v).regs.shape = c.regs.shape := rfl
@[simp] theorem Ctx.setC_regs_loops (c : Ctx) (n : RegNo) (v : CReg) : (c.setC n v).regs.loops = c.regs.loops := rfl
@[simp] theorem Ctx.setC_regs_aside (c : Ctx) (n : RegNo) (v : CReg) : (c.setC n v).regs.aside = c.regs.aside := rfl
@[simp] theorem Ctx.setC_regs_handler (c : Ctx) (n : RegNo) (v : CReg) : (c.setC n v).regs.handler = c.regs.handler := rfl
@[simp] theorem Ctx.setC_regs_arr (c : Ctx) (n : RegNo) (v : CReg) : (c.setC n v).regs.arr = c.regs.arr := rfl
@[simp] theorem Ctx.setC_regs_g (c : Ctx) (n : RegNo) (v : CReg) : (c.setC n v).regs.g = c.regs.g := rfl
@[simp] theorem Ctx.setC_regs_tie (c : Ctx) (n : RegNo) (v : CReg) : (c.setC n v).regs.tie = c.regs.tie := rfl
@[simp] theorem Ctx.setC_regs_deferred (c : Ctx) (n : RegNo) (v : CReg) : (c.setC n v).regs.deferred = c.regs.deferred := rfl
@[simp] theorem Ctx.setC_regs_deferCnt (c : Ctx) (n : RegNo) (v : CReg) : (c.setC n v).regs.deferCnt = c.regs.deferCnt := rfl
@[simp] theorem Ctx.setC_regs_chans (c : Ctx) (n : RegNo) (v : CReg) : (c.setC n v).regs.chans = c.regs.chans := rfl
@[simp] theorem Ctx.setC_regs_barsyncP (c : Ctx) (n : RegNo) (v : CReg) : (c.setC n v).regs.barsyncP = c.regs.barsyncP := rfl
@[simp] theorem Ctx.setC_regs_hbarP (c : Ctx) (n : RegNo) (v : CReg) : (c.setC n v).regs.hbarP = c.regs.hbarP := rfl
@[simp] theorem Ctx.setC_regs_asideP (c : Ctx) (n : RegNo) (v : CReg) : (c.setC n v).regs.asideP = c.regs.asideP := rfl
@[simp] theorem Ctx.setC_regs_streams (c : Ctx) (n : RegNo) (v : CReg) : (c.setC n v).regs.streams = c.regs.streams := rfl
@[simp] theorem Ctx.setC_regs_dirty (c : Ctx) (n : RegNo) (v : CReg) : (c.setC n v).regs.dirty = c.regs.dirty := rfl
@[simp] theorem Ctx.setC_regs_image (c : Ctx) (n : RegNo) (v : CReg) : (c.setC n v).regs.image = c.regs.image := rfl
@[simp] theorem Ctx.setC_regs_saves (c : Ctx) (n : RegNo) (v : CReg) : (c.setC n v).regs.saves = c.regs.saves := rfl
@[simp] theorem Ctx.setC_regs_saveWhy (c : Ctx) (n : RegNo) (v : CReg) : (c.setC n v).regs.saveWhy = c.regs.saveWhy := rfl
@[simp] theorem Ctx.setC_regs_saveTick (c : Ctx) (n : RegNo) (v : CReg) : (c.setC n v).regs.saveTick = c.regs.saveTick := rfl
@[simp] theorem Ctx.setC_regs_pageBuf (c : Ctx) (n : RegNo) (v : CReg) : (c.setC n v).regs.pageBuf = c.regs.pageBuf := rfl
@[simp] theorem Ctx.setC_regs_pageOff (c : Ctx) (n : RegNo) (v : CReg) : (c.setC n v).regs.pageOff = c.regs.pageOff := rfl
@[simp] theorem Ctx.setV_bind (c : Ctx) (n : Nat) (v : VReg) : (c.setV n v).bind = c.bind := rfl
@[simp] theorem Ctx.setV_launch (c : Ctx) (n : Nat) (v : VReg) : (c.setV n v).launch = c.launch := rfl
@[simp] theorem Ctx.setV_hist (c : Ctx) (n : Nat) (v : VReg) : (c.setV n v).hist = c.hist := rfl
@[simp] theorem Ctx.setV_wait (c : Ctx) (n : Nat) (v : VReg) : (c.setV n v).wait = c.wait := rfl
@[simp] theorem Ctx.setV_out (c : Ctx) (n : Nat) (v : VReg) : (c.setV n v).out = c.out := rfl
@[simp] theorem Ctx.setV_rest (c : Ctx) (n : Nat) (v : VReg) : (c.setV n v).rest = c.rest := rfl
@[simp] theorem Ctx.setV_mon (c : Ctx) (n : Nat) (v : VReg) : (c.setV n v).mon = c.mon := rfl
@[simp] theorem Ctx.setV_halt (c : Ctx) (n : Nat) (v : VReg) : (c.setV n v).halt = c.halt := rfl
@[simp] theorem Ctx.setV_bindTick (c : Ctx) (n : Nat) (v : VReg) : (c.setV n v).bindTick = c.bindTick := rfl
@[simp] theorem Ctx.setV_moving (c : Ctx) (n : Nat) (v : VReg) : (c.setV n v).moving = c.moving := rfl
@[simp] theorem Ctx.setV_saveWhy (c : Ctx) (n : Nat) (v : VReg) : (c.setV n v).saveWhy = c.saveWhy := rfl
@[simp] theorem Ctx.setV_faultRec (c : Ctx) (n : Nat) (v : VReg) : (c.setV n v).faultRec = c.faultRec := rfl
@[simp] theorem Ctx.setV_faultAt (c : Ctx) (n : Nat) (v : VReg) : (c.setV n v).faultAt = c.faultAt := rfl
@[simp] theorem Ctx.setV_regs_pc (c : Ctx) (n : Nat) (v : VReg) : (c.setV n v).regs.pc = c.regs.pc := rfl
@[simp] theorem Ctx.setV_regs_s (c : Ctx) (n : Nat) (v : VReg) : (c.setV n v).regs.s = c.regs.s := rfl
@[simp] theorem Ctx.setV_regs_c (c : Ctx) (n : Nat) (v : VReg) : (c.setV n v).regs.c = c.regs.c := rfl
@[simp] theorem Ctx.setV_regs_slots (c : Ctx) (n : Nat) (v : VReg) : (c.setV n v).regs.slots = c.regs.slots := rfl
@[simp] theorem Ctx.setV_regs_m (c : Ctx) (n : Nat) (v : VReg) : (c.setV n v).regs.m = c.regs.m := rfl
@[simp] theorem Ctx.setV_regs_tags (c : Ctx) (n : Nat) (v : VReg) : (c.setV n v).regs.tags = c.regs.tags := rfl
@[simp] theorem Ctx.setV_regs_csr (c : Ctx) (n : Nat) (v : VReg) : (c.setV n v).regs.csr = c.regs.csr := rfl
@[simp] theorem Ctx.setV_regs_shape (c : Ctx) (n : Nat) (v : VReg) : (c.setV n v).regs.shape = c.regs.shape := rfl
@[simp] theorem Ctx.setV_regs_loops (c : Ctx) (n : Nat) (v : VReg) : (c.setV n v).regs.loops = c.regs.loops := rfl
@[simp] theorem Ctx.setV_regs_aside (c : Ctx) (n : Nat) (v : VReg) : (c.setV n v).regs.aside = c.regs.aside := rfl
@[simp] theorem Ctx.setV_regs_handler (c : Ctx) (n : Nat) (v : VReg) : (c.setV n v).regs.handler = c.regs.handler := rfl
@[simp] theorem Ctx.setV_regs_arr (c : Ctx) (n : Nat) (v : VReg) : (c.setV n v).regs.arr = c.regs.arr := rfl
@[simp] theorem Ctx.setV_regs_g (c : Ctx) (n : Nat) (v : VReg) : (c.setV n v).regs.g = c.regs.g := rfl
@[simp] theorem Ctx.setV_regs_tie (c : Ctx) (n : Nat) (v : VReg) : (c.setV n v).regs.tie = c.regs.tie := rfl
@[simp] theorem Ctx.setV_regs_deferred (c : Ctx) (n : Nat) (v : VReg) : (c.setV n v).regs.deferred = c.regs.deferred := rfl
@[simp] theorem Ctx.setV_regs_deferCnt (c : Ctx) (n : Nat) (v : VReg) : (c.setV n v).regs.deferCnt = c.regs.deferCnt := rfl
@[simp] theorem Ctx.setV_regs_chans (c : Ctx) (n : Nat) (v : VReg) : (c.setV n v).regs.chans = c.regs.chans := rfl
@[simp] theorem Ctx.setV_regs_barsyncP (c : Ctx) (n : Nat) (v : VReg) : (c.setV n v).regs.barsyncP = c.regs.barsyncP := rfl
@[simp] theorem Ctx.setV_regs_hbarP (c : Ctx) (n : Nat) (v : VReg) : (c.setV n v).regs.hbarP = c.regs.hbarP := rfl
@[simp] theorem Ctx.setV_regs_asideP (c : Ctx) (n : Nat) (v : VReg) : (c.setV n v).regs.asideP = c.regs.asideP := rfl
@[simp] theorem Ctx.setV_regs_streams (c : Ctx) (n : Nat) (v : VReg) : (c.setV n v).regs.streams = c.regs.streams := rfl
@[simp] theorem Ctx.setV_regs_image (c : Ctx) (n : Nat) (v : VReg) : (c.setV n v).regs.image = c.regs.image := rfl
@[simp] theorem Ctx.setV_regs_saves (c : Ctx) (n : Nat) (v : VReg) : (c.setV n v).regs.saves = c.regs.saves := rfl
@[simp] theorem Ctx.setV_regs_saveWhy (c : Ctx) (n : Nat) (v : VReg) : (c.setV n v).regs.saveWhy = c.regs.saveWhy := rfl
@[simp] theorem Ctx.setV_regs_saveTick (c : Ctx) (n : Nat) (v : VReg) : (c.setV n v).regs.saveTick = c.regs.saveTick := rfl
@[simp] theorem Ctx.setV_regs_pageBuf (c : Ctx) (n : Nat) (v : VReg) : (c.setV n v).regs.pageBuf = c.regs.pageBuf := rfl
@[simp] theorem Ctx.setV_regs_pageOff (c : Ctx) (n : Nat) (v : VReg) : (c.setV n v).regs.pageOff = c.regs.pageOff := rfl
@[simp] theorem Ctx.setSlot_bind (c : Ctx) (n : Nat) (v : LSlot) : (c.setSlot n v).bind = c.bind := rfl
@[simp] theorem Ctx.setSlot_launch (c : Ctx) (n : Nat) (v : LSlot) : (c.setSlot n v).launch = c.launch := rfl
@[simp] theorem Ctx.setSlot_hist (c : Ctx) (n : Nat) (v : LSlot) : (c.setSlot n v).hist = c.hist := rfl
@[simp] theorem Ctx.setSlot_wait (c : Ctx) (n : Nat) (v : LSlot) : (c.setSlot n v).wait = c.wait := rfl
@[simp] theorem Ctx.setSlot_out (c : Ctx) (n : Nat) (v : LSlot) : (c.setSlot n v).out = c.out := rfl
@[simp] theorem Ctx.setSlot_rest (c : Ctx) (n : Nat) (v : LSlot) : (c.setSlot n v).rest = c.rest := rfl
@[simp] theorem Ctx.setSlot_mon (c : Ctx) (n : Nat) (v : LSlot) : (c.setSlot n v).mon = c.mon := rfl
@[simp] theorem Ctx.setSlot_halt (c : Ctx) (n : Nat) (v : LSlot) : (c.setSlot n v).halt = c.halt := rfl
@[simp] theorem Ctx.setSlot_bindTick (c : Ctx) (n : Nat) (v : LSlot) : (c.setSlot n v).bindTick = c.bindTick := rfl
@[simp] theorem Ctx.setSlot_moving (c : Ctx) (n : Nat) (v : LSlot) : (c.setSlot n v).moving = c.moving := rfl
@[simp] theorem Ctx.setSlot_saveWhy (c : Ctx) (n : Nat) (v : LSlot) : (c.setSlot n v).saveWhy = c.saveWhy := rfl
@[simp] theorem Ctx.setSlot_faultRec (c : Ctx) (n : Nat) (v : LSlot) : (c.setSlot n v).faultRec = c.faultRec := rfl
@[simp] theorem Ctx.setSlot_faultAt (c : Ctx) (n : Nat) (v : LSlot) : (c.setSlot n v).faultAt = c.faultAt := rfl
@[simp] theorem Ctx.setSlot_regs_pc (c : Ctx) (n : Nat) (v : LSlot) : (c.setSlot n v).regs.pc = c.regs.pc := rfl
@[simp] theorem Ctx.setSlot_regs_s (c : Ctx) (n : Nat) (v : LSlot) : (c.setSlot n v).regs.s = c.regs.s := rfl
@[simp] theorem Ctx.setSlot_regs_c (c : Ctx) (n : Nat) (v : LSlot) : (c.setSlot n v).regs.c = c.regs.c := rfl
@[simp] theorem Ctx.setSlot_regs_v (c : Ctx) (n : Nat) (v : LSlot) : (c.setSlot n v).regs.v = c.regs.v := rfl
@[simp] theorem Ctx.setSlot_regs_m (c : Ctx) (n : Nat) (v : LSlot) : (c.setSlot n v).regs.m = c.regs.m := rfl
@[simp] theorem Ctx.setSlot_regs_tags (c : Ctx) (n : Nat) (v : LSlot) : (c.setSlot n v).regs.tags = c.regs.tags := rfl
@[simp] theorem Ctx.setSlot_regs_csr (c : Ctx) (n : Nat) (v : LSlot) : (c.setSlot n v).regs.csr = c.regs.csr := rfl
@[simp] theorem Ctx.setSlot_regs_shape (c : Ctx) (n : Nat) (v : LSlot) : (c.setSlot n v).regs.shape = c.regs.shape := rfl
@[simp] theorem Ctx.setSlot_regs_loops (c : Ctx) (n : Nat) (v : LSlot) : (c.setSlot n v).regs.loops = c.regs.loops := rfl
@[simp] theorem Ctx.setSlot_regs_aside (c : Ctx) (n : Nat) (v : LSlot) : (c.setSlot n v).regs.aside = c.regs.aside := rfl
@[simp] theorem Ctx.setSlot_regs_handler (c : Ctx) (n : Nat) (v : LSlot) : (c.setSlot n v).regs.handler = c.regs.handler := rfl
@[simp] theorem Ctx.setSlot_regs_arr (c : Ctx) (n : Nat) (v : LSlot) : (c.setSlot n v).regs.arr = c.regs.arr := rfl
@[simp] theorem Ctx.setSlot_regs_g (c : Ctx) (n : Nat) (v : LSlot) : (c.setSlot n v).regs.g = c.regs.g := rfl
@[simp] theorem Ctx.setSlot_regs_tie (c : Ctx) (n : Nat) (v : LSlot) : (c.setSlot n v).regs.tie = c.regs.tie := rfl
@[simp] theorem Ctx.setSlot_regs_deferred (c : Ctx) (n : Nat) (v : LSlot) : (c.setSlot n v).regs.deferred = c.regs.deferred := rfl
@[simp] theorem Ctx.setSlot_regs_deferCnt (c : Ctx) (n : Nat) (v : LSlot) : (c.setSlot n v).regs.deferCnt = c.regs.deferCnt := rfl
@[simp] theorem Ctx.setSlot_regs_chans (c : Ctx) (n : Nat) (v : LSlot) : (c.setSlot n v).regs.chans = c.regs.chans := rfl
@[simp] theorem Ctx.setSlot_regs_barsyncP (c : Ctx) (n : Nat) (v : LSlot) : (c.setSlot n v).regs.barsyncP = c.regs.barsyncP := rfl
@[simp] theorem Ctx.setSlot_regs_hbarP (c : Ctx) (n : Nat) (v : LSlot) : (c.setSlot n v).regs.hbarP = c.regs.hbarP := rfl
@[simp] theorem Ctx.setSlot_regs_asideP (c : Ctx) (n : Nat) (v : LSlot) : (c.setSlot n v).regs.asideP = c.regs.asideP := rfl
@[simp] theorem Ctx.setSlot_regs_streams (c : Ctx) (n : Nat) (v : LSlot) : (c.setSlot n v).regs.streams = c.regs.streams := rfl
@[simp] theorem Ctx.setSlot_regs_image (c : Ctx) (n : Nat) (v : LSlot) : (c.setSlot n v).regs.image = c.regs.image := rfl
@[simp] theorem Ctx.setSlot_regs_saves (c : Ctx) (n : Nat) (v : LSlot) : (c.setSlot n v).regs.saves = c.regs.saves := rfl
@[simp] theorem Ctx.setSlot_regs_saveWhy (c : Ctx) (n : Nat) (v : LSlot) : (c.setSlot n v).regs.saveWhy = c.regs.saveWhy := rfl
@[simp] theorem Ctx.setSlot_regs_saveTick (c : Ctx) (n : Nat) (v : LSlot) : (c.setSlot n v).regs.saveTick = c.regs.saveTick := rfl
@[simp] theorem Ctx.setSlot_regs_pageBuf (c : Ctx) (n : Nat) (v : LSlot) : (c.setSlot n v).regs.pageBuf = c.regs.pageBuf := rfl
@[simp] theorem Ctx.setSlot_regs_pageOff (c : Ctx) (n : Nat) (v : LSlot) : (c.setSlot n v).regs.pageOff = c.regs.pageOff := rfl
@[simp] theorem Ctx.setM_bind (c : Ctx) (n : Nat) (v : BitVec 8192) : (c.setM n v).bind = c.bind := rfl
@[simp] theorem Ctx.setM_launch (c : Ctx) (n : Nat) (v : BitVec 8192) : (c.setM n v).launch = c.launch := rfl
@[simp] theorem Ctx.setM_hist (c : Ctx) (n : Nat) (v : BitVec 8192) : (c.setM n v).hist = c.hist := rfl
@[simp] theorem Ctx.setM_wait (c : Ctx) (n : Nat) (v : BitVec 8192) : (c.setM n v).wait = c.wait := rfl
@[simp] theorem Ctx.setM_out (c : Ctx) (n : Nat) (v : BitVec 8192) : (c.setM n v).out = c.out := rfl
@[simp] theorem Ctx.setM_rest (c : Ctx) (n : Nat) (v : BitVec 8192) : (c.setM n v).rest = c.rest := rfl
@[simp] theorem Ctx.setM_mon (c : Ctx) (n : Nat) (v : BitVec 8192) : (c.setM n v).mon = c.mon := rfl
@[simp] theorem Ctx.setM_halt (c : Ctx) (n : Nat) (v : BitVec 8192) : (c.setM n v).halt = c.halt := rfl
@[simp] theorem Ctx.setM_bindTick (c : Ctx) (n : Nat) (v : BitVec 8192) : (c.setM n v).bindTick = c.bindTick := rfl
@[simp] theorem Ctx.setM_moving (c : Ctx) (n : Nat) (v : BitVec 8192) : (c.setM n v).moving = c.moving := rfl
@[simp] theorem Ctx.setM_saveWhy (c : Ctx) (n : Nat) (v : BitVec 8192) : (c.setM n v).saveWhy = c.saveWhy := rfl
@[simp] theorem Ctx.setM_faultRec (c : Ctx) (n : Nat) (v : BitVec 8192) : (c.setM n v).faultRec = c.faultRec := rfl
@[simp] theorem Ctx.setM_faultAt (c : Ctx) (n : Nat) (v : BitVec 8192) : (c.setM n v).faultAt = c.faultAt := rfl
@[simp] theorem Ctx.setM_regs_pc (c : Ctx) (n : Nat) (v : BitVec 8192) : (c.setM n v).regs.pc = c.regs.pc := rfl
@[simp] theorem Ctx.setM_regs_s (c : Ctx) (n : Nat) (v : BitVec 8192) : (c.setM n v).regs.s = c.regs.s := rfl
@[simp] theorem Ctx.setM_regs_c (c : Ctx) (n : Nat) (v : BitVec 8192) : (c.setM n v).regs.c = c.regs.c := rfl
@[simp] theorem Ctx.setM_regs_v (c : Ctx) (n : Nat) (v : BitVec 8192) : (c.setM n v).regs.v = c.regs.v := rfl
@[simp] theorem Ctx.setM_regs_slots (c : Ctx) (n : Nat) (v : BitVec 8192) : (c.setM n v).regs.slots = c.regs.slots := rfl
@[simp] theorem Ctx.setM_regs_tags (c : Ctx) (n : Nat) (v : BitVec 8192) : (c.setM n v).regs.tags = c.regs.tags := rfl
@[simp] theorem Ctx.setM_regs_csr (c : Ctx) (n : Nat) (v : BitVec 8192) : (c.setM n v).regs.csr = c.regs.csr := rfl
@[simp] theorem Ctx.setM_regs_shape (c : Ctx) (n : Nat) (v : BitVec 8192) : (c.setM n v).regs.shape = c.regs.shape := rfl
@[simp] theorem Ctx.setM_regs_loops (c : Ctx) (n : Nat) (v : BitVec 8192) : (c.setM n v).regs.loops = c.regs.loops := rfl
@[simp] theorem Ctx.setM_regs_aside (c : Ctx) (n : Nat) (v : BitVec 8192) : (c.setM n v).regs.aside = c.regs.aside := rfl
@[simp] theorem Ctx.setM_regs_handler (c : Ctx) (n : Nat) (v : BitVec 8192) : (c.setM n v).regs.handler = c.regs.handler := rfl
@[simp] theorem Ctx.setM_regs_arr (c : Ctx) (n : Nat) (v : BitVec 8192) : (c.setM n v).regs.arr = c.regs.arr := rfl
@[simp] theorem Ctx.setM_regs_g (c : Ctx) (n : Nat) (v : BitVec 8192) : (c.setM n v).regs.g = c.regs.g := rfl
@[simp] theorem Ctx.setM_regs_tie (c : Ctx) (n : Nat) (v : BitVec 8192) : (c.setM n v).regs.tie = c.regs.tie := rfl
@[simp] theorem Ctx.setM_regs_deferred (c : Ctx) (n : Nat) (v : BitVec 8192) : (c.setM n v).regs.deferred = c.regs.deferred := rfl
@[simp] theorem Ctx.setM_regs_deferCnt (c : Ctx) (n : Nat) (v : BitVec 8192) : (c.setM n v).regs.deferCnt = c.regs.deferCnt := rfl
@[simp] theorem Ctx.setM_regs_chans (c : Ctx) (n : Nat) (v : BitVec 8192) : (c.setM n v).regs.chans = c.regs.chans := rfl
@[simp] theorem Ctx.setM_regs_barsyncP (c : Ctx) (n : Nat) (v : BitVec 8192) : (c.setM n v).regs.barsyncP = c.regs.barsyncP := rfl
@[simp] theorem Ctx.setM_regs_hbarP (c : Ctx) (n : Nat) (v : BitVec 8192) : (c.setM n v).regs.hbarP = c.regs.hbarP := rfl
@[simp] theorem Ctx.setM_regs_asideP (c : Ctx) (n : Nat) (v : BitVec 8192) : (c.setM n v).regs.asideP = c.regs.asideP := rfl
@[simp] theorem Ctx.setM_regs_streams (c : Ctx) (n : Nat) (v : BitVec 8192) : (c.setM n v).regs.streams = c.regs.streams := rfl
@[simp] theorem Ctx.setM_regs_dirty (c : Ctx) (n : Nat) (v : BitVec 8192) : (c.setM n v).regs.dirty = c.regs.dirty := rfl
@[simp] theorem Ctx.setM_regs_image (c : Ctx) (n : Nat) (v : BitVec 8192) : (c.setM n v).regs.image = c.regs.image := rfl
@[simp] theorem Ctx.setM_regs_saves (c : Ctx) (n : Nat) (v : BitVec 8192) : (c.setM n v).regs.saves = c.regs.saves := rfl
@[simp] theorem Ctx.setM_regs_saveWhy (c : Ctx) (n : Nat) (v : BitVec 8192) : (c.setM n v).regs.saveWhy = c.regs.saveWhy := rfl
@[simp] theorem Ctx.setM_regs_saveTick (c : Ctx) (n : Nat) (v : BitVec 8192) : (c.setM n v).regs.saveTick = c.regs.saveTick := rfl
@[simp] theorem Ctx.setM_regs_pageBuf (c : Ctx) (n : Nat) (v : BitVec 8192) : (c.setM n v).regs.pageBuf = c.regs.pageBuf := rfl
@[simp] theorem Ctx.setM_regs_pageOff (c : Ctx) (n : Nat) (v : BitVec 8192) : (c.setM n v).regs.pageOff = c.regs.pageOff := rfl
@[simp] theorem Ctx.setTag_bind (c : Ctx) (n : Nat) (v : Tag) : (c.setTag n v).bind = c.bind := rfl
@[simp] theorem Ctx.setTag_launch (c : Ctx) (n : Nat) (v : Tag) : (c.setTag n v).launch = c.launch := rfl
@[simp] theorem Ctx.setTag_hist (c : Ctx) (n : Nat) (v : Tag) : (c.setTag n v).hist = c.hist := rfl
@[simp] theorem Ctx.setTag_wait (c : Ctx) (n : Nat) (v : Tag) : (c.setTag n v).wait = c.wait := rfl
@[simp] theorem Ctx.setTag_out (c : Ctx) (n : Nat) (v : Tag) : (c.setTag n v).out = c.out := rfl
@[simp] theorem Ctx.setTag_rest (c : Ctx) (n : Nat) (v : Tag) : (c.setTag n v).rest = c.rest := rfl
@[simp] theorem Ctx.setTag_mon (c : Ctx) (n : Nat) (v : Tag) : (c.setTag n v).mon = c.mon := rfl
@[simp] theorem Ctx.setTag_halt (c : Ctx) (n : Nat) (v : Tag) : (c.setTag n v).halt = c.halt := rfl
@[simp] theorem Ctx.setTag_bindTick (c : Ctx) (n : Nat) (v : Tag) : (c.setTag n v).bindTick = c.bindTick := rfl
@[simp] theorem Ctx.setTag_moving (c : Ctx) (n : Nat) (v : Tag) : (c.setTag n v).moving = c.moving := rfl
@[simp] theorem Ctx.setTag_saveWhy (c : Ctx) (n : Nat) (v : Tag) : (c.setTag n v).saveWhy = c.saveWhy := rfl
@[simp] theorem Ctx.setTag_faultRec (c : Ctx) (n : Nat) (v : Tag) : (c.setTag n v).faultRec = c.faultRec := rfl
@[simp] theorem Ctx.setTag_faultAt (c : Ctx) (n : Nat) (v : Tag) : (c.setTag n v).faultAt = c.faultAt := rfl
@[simp] theorem Ctx.setTag_regs_pc (c : Ctx) (n : Nat) (v : Tag) : (c.setTag n v).regs.pc = c.regs.pc := rfl
@[simp] theorem Ctx.setTag_regs_s (c : Ctx) (n : Nat) (v : Tag) : (c.setTag n v).regs.s = c.regs.s := rfl
@[simp] theorem Ctx.setTag_regs_c (c : Ctx) (n : Nat) (v : Tag) : (c.setTag n v).regs.c = c.regs.c := rfl
@[simp] theorem Ctx.setTag_regs_v (c : Ctx) (n : Nat) (v : Tag) : (c.setTag n v).regs.v = c.regs.v := rfl
@[simp] theorem Ctx.setTag_regs_slots (c : Ctx) (n : Nat) (v : Tag) : (c.setTag n v).regs.slots = c.regs.slots := rfl
@[simp] theorem Ctx.setTag_regs_m (c : Ctx) (n : Nat) (v : Tag) : (c.setTag n v).regs.m = c.regs.m := rfl
@[simp] theorem Ctx.setTag_regs_csr (c : Ctx) (n : Nat) (v : Tag) : (c.setTag n v).regs.csr = c.regs.csr := rfl
@[simp] theorem Ctx.setTag_regs_shape (c : Ctx) (n : Nat) (v : Tag) : (c.setTag n v).regs.shape = c.regs.shape := rfl
@[simp] theorem Ctx.setTag_regs_loops (c : Ctx) (n : Nat) (v : Tag) : (c.setTag n v).regs.loops = c.regs.loops := rfl
@[simp] theorem Ctx.setTag_regs_aside (c : Ctx) (n : Nat) (v : Tag) : (c.setTag n v).regs.aside = c.regs.aside := rfl
@[simp] theorem Ctx.setTag_regs_handler (c : Ctx) (n : Nat) (v : Tag) : (c.setTag n v).regs.handler = c.regs.handler := rfl
@[simp] theorem Ctx.setTag_regs_arr (c : Ctx) (n : Nat) (v : Tag) : (c.setTag n v).regs.arr = c.regs.arr := rfl
@[simp] theorem Ctx.setTag_regs_g (c : Ctx) (n : Nat) (v : Tag) : (c.setTag n v).regs.g = c.regs.g := rfl
@[simp] theorem Ctx.setTag_regs_tie (c : Ctx) (n : Nat) (v : Tag) : (c.setTag n v).regs.tie = c.regs.tie := rfl
@[simp] theorem Ctx.setTag_regs_deferred (c : Ctx) (n : Nat) (v : Tag) : (c.setTag n v).regs.deferred = c.regs.deferred := rfl
@[simp] theorem Ctx.setTag_regs_deferCnt (c : Ctx) (n : Nat) (v : Tag) : (c.setTag n v).regs.deferCnt = c.regs.deferCnt := rfl
@[simp] theorem Ctx.setTag_regs_chans (c : Ctx) (n : Nat) (v : Tag) : (c.setTag n v).regs.chans = c.regs.chans := rfl
@[simp] theorem Ctx.setTag_regs_barsyncP (c : Ctx) (n : Nat) (v : Tag) : (c.setTag n v).regs.barsyncP = c.regs.barsyncP := rfl
@[simp] theorem Ctx.setTag_regs_hbarP (c : Ctx) (n : Nat) (v : Tag) : (c.setTag n v).regs.hbarP = c.regs.hbarP := rfl
@[simp] theorem Ctx.setTag_regs_asideP (c : Ctx) (n : Nat) (v : Tag) : (c.setTag n v).regs.asideP = c.regs.asideP := rfl
@[simp] theorem Ctx.setTag_regs_streams (c : Ctx) (n : Nat) (v : Tag) : (c.setTag n v).regs.streams = c.regs.streams := rfl
@[simp] theorem Ctx.setTag_regs_dirty (c : Ctx) (n : Nat) (v : Tag) : (c.setTag n v).regs.dirty = c.regs.dirty := rfl
@[simp] theorem Ctx.setTag_regs_image (c : Ctx) (n : Nat) (v : Tag) : (c.setTag n v).regs.image = c.regs.image := rfl
@[simp] theorem Ctx.setTag_regs_saves (c : Ctx) (n : Nat) (v : Tag) : (c.setTag n v).regs.saves = c.regs.saves := rfl
@[simp] theorem Ctx.setTag_regs_saveWhy (c : Ctx) (n : Nat) (v : Tag) : (c.setTag n v).regs.saveWhy = c.regs.saveWhy := rfl
@[simp] theorem Ctx.setTag_regs_saveTick (c : Ctx) (n : Nat) (v : Tag) : (c.setTag n v).regs.saveTick = c.regs.saveTick := rfl
@[simp] theorem Ctx.setTag_regs_pageBuf (c : Ctx) (n : Nat) (v : Tag) : (c.setTag n v).regs.pageBuf = c.regs.pageBuf := rfl
@[simp] theorem Ctx.setTag_regs_pageOff (c : Ctx) (n : Nat) (v : Tag) : (c.setTag n v).regs.pageOff = c.regs.pageOff := rfl
@[simp] theorem Ctx.setVstart_bind (c : Ctx) (n : Nat) : (c.setVstart n).bind = c.bind := rfl
@[simp] theorem Ctx.setVstart_launch (c : Ctx) (n : Nat) : (c.setVstart n).launch = c.launch := rfl
@[simp] theorem Ctx.setVstart_hist (c : Ctx) (n : Nat) : (c.setVstart n).hist = c.hist := rfl
@[simp] theorem Ctx.setVstart_wait (c : Ctx) (n : Nat) : (c.setVstart n).wait = c.wait := rfl
@[simp] theorem Ctx.setVstart_out (c : Ctx) (n : Nat) : (c.setVstart n).out = c.out := rfl
@[simp] theorem Ctx.setVstart_rest (c : Ctx) (n : Nat) : (c.setVstart n).rest = c.rest := rfl
@[simp] theorem Ctx.setVstart_mon (c : Ctx) (n : Nat) : (c.setVstart n).mon = c.mon := rfl
@[simp] theorem Ctx.setVstart_halt (c : Ctx) (n : Nat) : (c.setVstart n).halt = c.halt := rfl
@[simp] theorem Ctx.setVstart_bindTick (c : Ctx) (n : Nat) : (c.setVstart n).bindTick = c.bindTick := rfl
@[simp] theorem Ctx.setVstart_moving (c : Ctx) (n : Nat) : (c.setVstart n).moving = c.moving := rfl
@[simp] theorem Ctx.setVstart_saveWhy (c : Ctx) (n : Nat) : (c.setVstart n).saveWhy = c.saveWhy := rfl
@[simp] theorem Ctx.setVstart_faultRec (c : Ctx) (n : Nat) : (c.setVstart n).faultRec = c.faultRec := rfl
@[simp] theorem Ctx.setVstart_faultAt (c : Ctx) (n : Nat) : (c.setVstart n).faultAt = c.faultAt := rfl
@[simp] theorem Ctx.setVstart_regs_pc (c : Ctx) (n : Nat) : (c.setVstart n).regs.pc = c.regs.pc := rfl
@[simp] theorem Ctx.setVstart_regs_s (c : Ctx) (n : Nat) : (c.setVstart n).regs.s = c.regs.s := rfl
@[simp] theorem Ctx.setVstart_regs_c (c : Ctx) (n : Nat) : (c.setVstart n).regs.c = c.regs.c := rfl
@[simp] theorem Ctx.setVstart_regs_v (c : Ctx) (n : Nat) : (c.setVstart n).regs.v = c.regs.v := rfl
@[simp] theorem Ctx.setVstart_regs_slots (c : Ctx) (n : Nat) : (c.setVstart n).regs.slots = c.regs.slots := rfl
@[simp] theorem Ctx.setVstart_regs_m (c : Ctx) (n : Nat) : (c.setVstart n).regs.m = c.regs.m := rfl
@[simp] theorem Ctx.setVstart_regs_tags (c : Ctx) (n : Nat) : (c.setVstart n).regs.tags = c.regs.tags := rfl
@[simp] theorem Ctx.setVstart_regs_shape (c : Ctx) (n : Nat) : (c.setVstart n).regs.shape = c.regs.shape := rfl
@[simp] theorem Ctx.setVstart_regs_loops (c : Ctx) (n : Nat) : (c.setVstart n).regs.loops = c.regs.loops := rfl
@[simp] theorem Ctx.setVstart_regs_aside (c : Ctx) (n : Nat) : (c.setVstart n).regs.aside = c.regs.aside := rfl
@[simp] theorem Ctx.setVstart_regs_handler (c : Ctx) (n : Nat) : (c.setVstart n).regs.handler = c.regs.handler := rfl
@[simp] theorem Ctx.setVstart_regs_arr (c : Ctx) (n : Nat) : (c.setVstart n).regs.arr = c.regs.arr := rfl
@[simp] theorem Ctx.setVstart_regs_g (c : Ctx) (n : Nat) : (c.setVstart n).regs.g = c.regs.g := rfl
@[simp] theorem Ctx.setVstart_regs_tie (c : Ctx) (n : Nat) : (c.setVstart n).regs.tie = c.regs.tie := rfl
@[simp] theorem Ctx.setVstart_regs_deferred (c : Ctx) (n : Nat) : (c.setVstart n).regs.deferred = c.regs.deferred := rfl
@[simp] theorem Ctx.setVstart_regs_deferCnt (c : Ctx) (n : Nat) : (c.setVstart n).regs.deferCnt = c.regs.deferCnt := rfl
@[simp] theorem Ctx.setVstart_regs_chans (c : Ctx) (n : Nat) : (c.setVstart n).regs.chans = c.regs.chans := rfl
@[simp] theorem Ctx.setVstart_regs_barsyncP (c : Ctx) (n : Nat) : (c.setVstart n).regs.barsyncP = c.regs.barsyncP := rfl
@[simp] theorem Ctx.setVstart_regs_hbarP (c : Ctx) (n : Nat) : (c.setVstart n).regs.hbarP = c.regs.hbarP := rfl
@[simp] theorem Ctx.setVstart_regs_asideP (c : Ctx) (n : Nat) : (c.setVstart n).regs.asideP = c.regs.asideP := rfl
@[simp] theorem Ctx.setVstart_regs_streams (c : Ctx) (n : Nat) : (c.setVstart n).regs.streams = c.regs.streams := rfl
@[simp] theorem Ctx.setVstart_regs_dirty (c : Ctx) (n : Nat) : (c.setVstart n).regs.dirty = c.regs.dirty := rfl
@[simp] theorem Ctx.setVstart_regs_image (c : Ctx) (n : Nat) : (c.setVstart n).regs.image = c.regs.image := rfl
@[simp] theorem Ctx.setVstart_regs_saves (c : Ctx) (n : Nat) : (c.setVstart n).regs.saves = c.regs.saves := rfl
@[simp] theorem Ctx.setVstart_regs_saveWhy (c : Ctx) (n : Nat) : (c.setVstart n).regs.saveWhy = c.regs.saveWhy := rfl
@[simp] theorem Ctx.setVstart_regs_saveTick (c : Ctx) (n : Nat) : (c.setVstart n).regs.saveTick = c.regs.saveTick := rfl
@[simp] theorem Ctx.setVstart_regs_pageBuf (c : Ctx) (n : Nat) : (c.setVstart n).regs.pageBuf = c.regs.pageBuf := rfl
@[simp] theorem Ctx.setVstart_regs_pageOff (c : Ctx) (n : Nat) : (c.setVstart n).regs.pageOff = c.regs.pageOff := rfl
@[simp] theorem Ctx.setVl_bind (c : Ctx) (n : Nat) : (c.setVl n).bind = c.bind := rfl
@[simp] theorem Ctx.setVl_launch (c : Ctx) (n : Nat) : (c.setVl n).launch = c.launch := rfl
@[simp] theorem Ctx.setVl_hist (c : Ctx) (n : Nat) : (c.setVl n).hist = c.hist := rfl
@[simp] theorem Ctx.setVl_wait (c : Ctx) (n : Nat) : (c.setVl n).wait = c.wait := rfl
@[simp] theorem Ctx.setVl_out (c : Ctx) (n : Nat) : (c.setVl n).out = c.out := rfl
@[simp] theorem Ctx.setVl_rest (c : Ctx) (n : Nat) : (c.setVl n).rest = c.rest := rfl
@[simp] theorem Ctx.setVl_mon (c : Ctx) (n : Nat) : (c.setVl n).mon = c.mon := rfl
@[simp] theorem Ctx.setVl_halt (c : Ctx) (n : Nat) : (c.setVl n).halt = c.halt := rfl
@[simp] theorem Ctx.setVl_bindTick (c : Ctx) (n : Nat) : (c.setVl n).bindTick = c.bindTick := rfl
@[simp] theorem Ctx.setVl_moving (c : Ctx) (n : Nat) : (c.setVl n).moving = c.moving := rfl
@[simp] theorem Ctx.setVl_saveWhy (c : Ctx) (n : Nat) : (c.setVl n).saveWhy = c.saveWhy := rfl
@[simp] theorem Ctx.setVl_faultRec (c : Ctx) (n : Nat) : (c.setVl n).faultRec = c.faultRec := rfl
@[simp] theorem Ctx.setVl_faultAt (c : Ctx) (n : Nat) : (c.setVl n).faultAt = c.faultAt := rfl
@[simp] theorem Ctx.setVl_regs_pc (c : Ctx) (n : Nat) : (c.setVl n).regs.pc = c.regs.pc := rfl
@[simp] theorem Ctx.setVl_regs_s (c : Ctx) (n : Nat) : (c.setVl n).regs.s = c.regs.s := rfl
@[simp] theorem Ctx.setVl_regs_c (c : Ctx) (n : Nat) : (c.setVl n).regs.c = c.regs.c := rfl
@[simp] theorem Ctx.setVl_regs_v (c : Ctx) (n : Nat) : (c.setVl n).regs.v = c.regs.v := rfl
@[simp] theorem Ctx.setVl_regs_slots (c : Ctx) (n : Nat) : (c.setVl n).regs.slots = c.regs.slots := rfl
@[simp] theorem Ctx.setVl_regs_m (c : Ctx) (n : Nat) : (c.setVl n).regs.m = c.regs.m := rfl
@[simp] theorem Ctx.setVl_regs_tags (c : Ctx) (n : Nat) : (c.setVl n).regs.tags = c.regs.tags := rfl
@[simp] theorem Ctx.setVl_regs_shape (c : Ctx) (n : Nat) : (c.setVl n).regs.shape = c.regs.shape := rfl
@[simp] theorem Ctx.setVl_regs_loops (c : Ctx) (n : Nat) : (c.setVl n).regs.loops = c.regs.loops := rfl
@[simp] theorem Ctx.setVl_regs_aside (c : Ctx) (n : Nat) : (c.setVl n).regs.aside = c.regs.aside := rfl
@[simp] theorem Ctx.setVl_regs_handler (c : Ctx) (n : Nat) : (c.setVl n).regs.handler = c.regs.handler := rfl
@[simp] theorem Ctx.setVl_regs_arr (c : Ctx) (n : Nat) : (c.setVl n).regs.arr = c.regs.arr := rfl
@[simp] theorem Ctx.setVl_regs_g (c : Ctx) (n : Nat) : (c.setVl n).regs.g = c.regs.g := rfl
@[simp] theorem Ctx.setVl_regs_tie (c : Ctx) (n : Nat) : (c.setVl n).regs.tie = c.regs.tie := rfl
@[simp] theorem Ctx.setVl_regs_deferred (c : Ctx) (n : Nat) : (c.setVl n).regs.deferred = c.regs.deferred := rfl
@[simp] theorem Ctx.setVl_regs_deferCnt (c : Ctx) (n : Nat) : (c.setVl n).regs.deferCnt = c.regs.deferCnt := rfl
@[simp] theorem Ctx.setVl_regs_chans (c : Ctx) (n : Nat) : (c.setVl n).regs.chans = c.regs.chans := rfl
@[simp] theorem Ctx.setVl_regs_barsyncP (c : Ctx) (n : Nat) : (c.setVl n).regs.barsyncP = c.regs.barsyncP := rfl
@[simp] theorem Ctx.setVl_regs_hbarP (c : Ctx) (n : Nat) : (c.setVl n).regs.hbarP = c.regs.hbarP := rfl
@[simp] theorem Ctx.setVl_regs_asideP (c : Ctx) (n : Nat) : (c.setVl n).regs.asideP = c.regs.asideP := rfl
@[simp] theorem Ctx.setVl_regs_streams (c : Ctx) (n : Nat) : (c.setVl n).regs.streams = c.regs.streams := rfl
@[simp] theorem Ctx.setVl_regs_dirty (c : Ctx) (n : Nat) : (c.setVl n).regs.dirty = c.regs.dirty := rfl
@[simp] theorem Ctx.setVl_regs_image (c : Ctx) (n : Nat) : (c.setVl n).regs.image = c.regs.image := rfl
@[simp] theorem Ctx.setVl_regs_saves (c : Ctx) (n : Nat) : (c.setVl n).regs.saves = c.regs.saves := rfl
@[simp] theorem Ctx.setVl_regs_saveWhy (c : Ctx) (n : Nat) : (c.setVl n).regs.saveWhy = c.regs.saveWhy := rfl
@[simp] theorem Ctx.setVl_regs_saveTick (c : Ctx) (n : Nat) : (c.setVl n).regs.saveTick = c.regs.saveTick := rfl
@[simp] theorem Ctx.setVl_regs_pageBuf (c : Ctx) (n : Nat) : (c.setVl n).regs.pageBuf = c.regs.pageBuf := rfl
@[simp] theorem Ctx.setVl_regs_pageOff (c : Ctx) (n : Nat) : (c.setVl n).regs.pageOff = c.regs.pageOff := rfl
@[simp] theorem Ctx.updCsr_regs_csr (c : Ctx) (f : Csrs → Csrs) : (c.updCsr f).regs.csr = f c.regs.csr := rfl
@[simp] theorem Ctx.updArr_regs_arr (c : Ctx) (f : Arr → Arr) : (c.updArr f).regs.arr = f c.regs.arr := rfl

/-! ### Accessors of a context after an update -/

@[simp] theorem Ctx.getS_updCsr (c : Ctx) (f : Csrs → Csrs) (j : RegNo) : (c.updCsr f).getS j = c.getS j := rfl
@[simp] theorem Ctx.getS_updArr (c : Ctx) (f : Arr → Arr) (j : RegNo) : (c.updArr f).getS j = c.getS j := rfl
@[simp] theorem Ctx.getS_setC (c : Ctx) (n : RegNo) (v : CReg) (j : RegNo) : (c.setC n v).getS j = c.getS j := rfl
@[simp] theorem Ctx.getS_setV (c : Ctx) (n : Nat) (v : VReg) (j : RegNo) : (c.setV n v).getS j = c.getS j := rfl
@[simp] theorem Ctx.getS_setSlot (c : Ctx) (n : Nat) (v : LSlot) (j : RegNo) : (c.setSlot n v).getS j = c.getS j := rfl
@[simp] theorem Ctx.getS_setM (c : Ctx) (n : Nat) (v : BitVec 8192) (j : RegNo) : (c.setM n v).getS j = c.getS j := rfl
@[simp] theorem Ctx.getS_setTag (c : Ctx) (n : Nat) (v : Tag) (j : RegNo) : (c.setTag n v).getS j = c.getS j := rfl
@[simp] theorem Ctx.getS_setVstart (c : Ctx) (n : Nat) (j : RegNo) : (c.setVstart n).getS j = c.getS j := rfl
@[simp] theorem Ctx.getS_setVl (c : Ctx) (n : Nat) (j : RegNo) : (c.setVl n).getS j = c.getS j := rfl
@[simp] theorem Ctx.getC_updCsr (c : Ctx) (f : Csrs → Csrs) (j : RegNo) : (c.updCsr f).getC j = c.getC j := rfl
@[simp] theorem Ctx.getC_updArr (c : Ctx) (f : Arr → Arr) (j : RegNo) : (c.updArr f).getC j = c.getC j := rfl
@[simp] theorem Ctx.getC_setS (c : Ctx) (n : RegNo) (v : Word) (j : RegNo) : (c.setS n v).getC j = c.getC j := by unfold Ctx.setS; split <;> rfl
@[simp] theorem Ctx.getC_setV (c : Ctx) (n : Nat) (v : VReg) (j : RegNo) : (c.setV n v).getC j = c.getC j := rfl
@[simp] theorem Ctx.getC_setSlot (c : Ctx) (n : Nat) (v : LSlot) (j : RegNo) : (c.setSlot n v).getC j = c.getC j := rfl
@[simp] theorem Ctx.getC_setM (c : Ctx) (n : Nat) (v : BitVec 8192) (j : RegNo) : (c.setM n v).getC j = c.getC j := rfl
@[simp] theorem Ctx.getC_setTag (c : Ctx) (n : Nat) (v : Tag) (j : RegNo) : (c.setTag n v).getC j = c.getC j := rfl
@[simp] theorem Ctx.getC_setVstart (c : Ctx) (n : Nat) (j : RegNo) : (c.setVstart n).getC j = c.getC j := rfl
@[simp] theorem Ctx.getC_setVl (c : Ctx) (n : Nat) (j : RegNo) : (c.setVl n).getC j = c.getC j := rfl
@[simp] theorem Ctx.getV_updCsr (c : Ctx) (f : Csrs → Csrs) (j : Nat) : (c.updCsr f).getV j = c.getV j := rfl
@[simp] theorem Ctx.getV_updArr (c : Ctx) (f : Arr → Arr) (j : Nat) : (c.updArr f).getV j = c.getV j := rfl
@[simp] theorem Ctx.getV_setS (c : Ctx) (n : RegNo) (v : Word) (j : Nat) : (c.setS n v).getV j = c.getV j := by unfold Ctx.setS; split <;> rfl
@[simp] theorem Ctx.getV_setC (c : Ctx) (n : RegNo) (v : CReg) (j : Nat) : (c.setC n v).getV j = c.getV j := rfl
@[simp] theorem Ctx.getV_setSlot (c : Ctx) (n : Nat) (v : LSlot) (j : Nat) : (c.setSlot n v).getV j = c.getV j := rfl
@[simp] theorem Ctx.getV_setM (c : Ctx) (n : Nat) (v : BitVec 8192) (j : Nat) : (c.setM n v).getV j = c.getV j := rfl
@[simp] theorem Ctx.getV_setTag (c : Ctx) (n : Nat) (v : Tag) (j : Nat) : (c.setTag n v).getV j = c.getV j := rfl
@[simp] theorem Ctx.getV_setVstart (c : Ctx) (n : Nat) (j : Nat) : (c.setVstart n).getV j = c.getV j := rfl
@[simp] theorem Ctx.getV_setVl (c : Ctx) (n : Nat) (j : Nat) : (c.setVl n).getV j = c.getV j := rfl
@[simp] theorem Ctx.getSlot_updCsr (c : Ctx) (f : Csrs → Csrs) (j : Nat) : (c.updCsr f).getSlot j = c.getSlot j := rfl
@[simp] theorem Ctx.getSlot_updArr (c : Ctx) (f : Arr → Arr) (j : Nat) : (c.updArr f).getSlot j = c.getSlot j := rfl
@[simp] theorem Ctx.getSlot_setS (c : Ctx) (n : RegNo) (v : Word) (j : Nat) : (c.setS n v).getSlot j = c.getSlot j := by unfold Ctx.setS; split <;> rfl
@[simp] theorem Ctx.getSlot_setC (c : Ctx) (n : RegNo) (v : CReg) (j : Nat) : (c.setC n v).getSlot j = c.getSlot j := rfl
@[simp] theorem Ctx.getSlot_setV (c : Ctx) (n : Nat) (v : VReg) (j : Nat) : (c.setV n v).getSlot j = c.getSlot j := rfl
@[simp] theorem Ctx.getSlot_setM (c : Ctx) (n : Nat) (v : BitVec 8192) (j : Nat) : (c.setM n v).getSlot j = c.getSlot j := rfl
@[simp] theorem Ctx.getSlot_setTag (c : Ctx) (n : Nat) (v : Tag) (j : Nat) : (c.setTag n v).getSlot j = c.getSlot j := rfl
@[simp] theorem Ctx.getSlot_setVstart (c : Ctx) (n : Nat) (j : Nat) : (c.setVstart n).getSlot j = c.getSlot j := rfl
@[simp] theorem Ctx.getSlot_setVl (c : Ctx) (n : Nat) (j : Nat) : (c.setVl n).getSlot j = c.getSlot j := rfl
@[simp] theorem Ctx.getM_updCsr (c : Ctx) (f : Csrs → Csrs) (j : Nat) : (c.updCsr f).getM j = c.getM j := rfl
@[simp] theorem Ctx.getM_updArr (c : Ctx) (f : Arr → Arr) (j : Nat) : (c.updArr f).getM j = c.getM j := rfl
@[simp] theorem Ctx.getM_setS (c : Ctx) (n : RegNo) (v : Word) (j : Nat) : (c.setS n v).getM j = c.getM j := by unfold Ctx.setS; split <;> rfl
@[simp] theorem Ctx.getM_setC (c : Ctx) (n : RegNo) (v : CReg) (j : Nat) : (c.setC n v).getM j = c.getM j := rfl
@[simp] theorem Ctx.getM_setV (c : Ctx) (n : Nat) (v : VReg) (j : Nat) : (c.setV n v).getM j = c.getM j := rfl
@[simp] theorem Ctx.getM_setSlot (c : Ctx) (n : Nat) (v : LSlot) (j : Nat) : (c.setSlot n v).getM j = c.getM j := rfl
@[simp] theorem Ctx.getM_setTag (c : Ctx) (n : Nat) (v : Tag) (j : Nat) : (c.setTag n v).getM j = c.getM j := rfl
@[simp] theorem Ctx.getM_setVstart (c : Ctx) (n : Nat) (j : Nat) : (c.setVstart n).getM j = c.getM j := rfl
@[simp] theorem Ctx.getM_setVl (c : Ctx) (n : Nat) (j : Nat) : (c.setVl n).getM j = c.getM j := rfl
@[simp] theorem Ctx.getTag_updCsr (c : Ctx) (f : Csrs → Csrs) (j : Nat) : (c.updCsr f).getTag j = c.getTag j := rfl
@[simp] theorem Ctx.getTag_updArr (c : Ctx) (f : Arr → Arr) (j : Nat) : (c.updArr f).getTag j = c.getTag j := rfl
@[simp] theorem Ctx.getTag_setS (c : Ctx) (n : RegNo) (v : Word) (j : Nat) : (c.setS n v).getTag j = c.getTag j := by unfold Ctx.setS; split <;> rfl
@[simp] theorem Ctx.getTag_setC (c : Ctx) (n : RegNo) (v : CReg) (j : Nat) : (c.setC n v).getTag j = c.getTag j := rfl
@[simp] theorem Ctx.getTag_setV (c : Ctx) (n : Nat) (v : VReg) (j : Nat) : (c.setV n v).getTag j = c.getTag j := rfl
@[simp] theorem Ctx.getTag_setSlot (c : Ctx) (n : Nat) (v : LSlot) (j : Nat) : (c.setSlot n v).getTag j = c.getTag j := rfl
@[simp] theorem Ctx.getTag_setM (c : Ctx) (n : Nat) (v : BitVec 8192) (j : Nat) : (c.setM n v).getTag j = c.getTag j := rfl
@[simp] theorem Ctx.getTag_setVstart (c : Ctx) (n : Nat) (j : Nat) : (c.setVstart n).getTag j = c.getTag j := rfl
@[simp] theorem Ctx.getTag_setVl (c : Ctx) (n : Nat) (j : Nat) : (c.setVl n).getTag j = c.getTag j := rfl
@[simp] theorem Ctx.vl_updArr (c : Ctx) (f : Arr → Arr) : (c.updArr f).vl = c.vl := rfl
@[simp] theorem Ctx.vl_setS (c : Ctx) (n : RegNo) (v : Word) : (c.setS n v).vl = c.vl := by unfold Ctx.setS; split <;> rfl
@[simp] theorem Ctx.vl_setC (c : Ctx) (n : RegNo) (v : CReg) : (c.setC n v).vl = c.vl := rfl
@[simp] theorem Ctx.vl_setV (c : Ctx) (n : Nat) (v : VReg) : (c.setV n v).vl = c.vl := rfl
@[simp] theorem Ctx.vl_setSlot (c : Ctx) (n : Nat) (v : LSlot) : (c.setSlot n v).vl = c.vl := rfl
@[simp] theorem Ctx.vl_setM (c : Ctx) (n : Nat) (v : BitVec 8192) : (c.setM n v).vl = c.vl := rfl
@[simp] theorem Ctx.vl_setTag (c : Ctx) (n : Nat) (v : Tag) : (c.setTag n v).vl = c.vl := rfl
@[simp] theorem Ctx.vstart_updArr (c : Ctx) (f : Arr → Arr) : (c.updArr f).vstart = c.vstart := rfl
@[simp] theorem Ctx.vstart_setS (c : Ctx) (n : RegNo) (v : Word) : (c.setS n v).vstart = c.vstart := by unfold Ctx.setS; split <;> rfl
@[simp] theorem Ctx.vstart_setC (c : Ctx) (n : RegNo) (v : CReg) : (c.setC n v).vstart = c.vstart := rfl
@[simp] theorem Ctx.vstart_setV (c : Ctx) (n : Nat) (v : VReg) : (c.setV n v).vstart = c.vstart := rfl
@[simp] theorem Ctx.vstart_setSlot (c : Ctx) (n : Nat) (v : LSlot) : (c.setSlot n v).vstart = c.vstart := rfl
@[simp] theorem Ctx.vstart_setM (c : Ctx) (n : Nat) (v : BitVec 8192) : (c.setM n v).vstart = c.vstart := rfl
@[simp] theorem Ctx.vstart_setTag (c : Ctx) (n : Nat) (v : Tag) : (c.setTag n v).vstart = c.vstart := rfl
@[simp] theorem Ctx.hasV_updCsr (c : Ctx) (f : Csrs → Csrs) : (c.updCsr f).hasV = c.hasV := rfl
@[simp] theorem Ctx.hasV_updArr (c : Ctx) (f : Arr → Arr) : (c.updArr f).hasV = c.hasV := rfl
@[simp] theorem Ctx.hasV_setS (c : Ctx) (n : RegNo) (v : Word) : (c.setS n v).hasV = c.hasV := by unfold Ctx.setS; split <;> rfl
@[simp] theorem Ctx.hasV_setC (c : Ctx) (n : RegNo) (v : CReg) : (c.setC n v).hasV = c.hasV := rfl
@[simp] theorem Ctx.hasV_setV (c : Ctx) (n : Nat) (v : VReg) : (c.setV n v).hasV = c.hasV := rfl
@[simp] theorem Ctx.hasV_setSlot (c : Ctx) (n : Nat) (v : LSlot) : (c.setSlot n v).hasV = c.hasV := rfl
@[simp] theorem Ctx.hasV_setM (c : Ctx) (n : Nat) (v : BitVec 8192) : (c.setM n v).hasV = c.hasV := rfl
@[simp] theorem Ctx.hasV_setTag (c : Ctx) (n : Nat) (v : Tag) : (c.setTag n v).hasV = c.hasV := rfl
@[simp] theorem Ctx.hasV_setVstart (c : Ctx) (n : Nat) : (c.setVstart n).hasV = c.hasV := rfl
@[simp] theorem Ctx.hasV_setVl (c : Ctx) (n : Nat) : (c.setVl n).hasV = c.hasV := rfl
@[simp] theorem Ctx.count_updCsr (c : Ctx) (f : Csrs → Csrs) : (c.updCsr f).count = c.count := rfl
@[simp] theorem Ctx.count_updArr (c : Ctx) (f : Arr → Arr) : (c.updArr f).count = c.count := rfl
@[simp] theorem Ctx.count_setS (c : Ctx) (n : RegNo) (v : Word) : (c.setS n v).count = c.count := by unfold Ctx.setS; split <;> rfl
@[simp] theorem Ctx.count_setC (c : Ctx) (n : RegNo) (v : CReg) : (c.setC n v).count = c.count := rfl
@[simp] theorem Ctx.count_setV (c : Ctx) (n : Nat) (v : VReg) : (c.setV n v).count = c.count := rfl
@[simp] theorem Ctx.count_setSlot (c : Ctx) (n : Nat) (v : LSlot) : (c.setSlot n v).count = c.count := rfl
@[simp] theorem Ctx.count_setM (c : Ctx) (n : Nat) (v : BitVec 8192) : (c.setM n v).count = c.count := rfl
@[simp] theorem Ctx.count_setTag (c : Ctx) (n : Nat) (v : Tag) : (c.setTag n v).count = c.count := rfl
@[simp] theorem Ctx.count_setVstart (c : Ctx) (n : Nat) : (c.setVstart n).count = c.count := rfl
@[simp] theorem Ctx.count_setVl (c : Ctx) (n : Nat) : (c.setVl n).count = c.count := rfl
@[simp] theorem Ctx.len_updCsr (c : Ctx) (f : Csrs → Csrs) : (c.updCsr f).len = c.len := rfl
@[simp] theorem Ctx.len_updArr (c : Ctx) (f : Arr → Arr) : (c.updArr f).len = c.len := rfl
@[simp] theorem Ctx.len_setS (c : Ctx) (n : RegNo) (v : Word) : (c.setS n v).len = c.len := by unfold Ctx.setS; split <;> rfl
@[simp] theorem Ctx.len_setC (c : Ctx) (n : RegNo) (v : CReg) : (c.setC n v).len = c.len := rfl
@[simp] theorem Ctx.len_setV (c : Ctx) (n : Nat) (v : VReg) : (c.setV n v).len = c.len := rfl
@[simp] theorem Ctx.len_setSlot (c : Ctx) (n : Nat) (v : LSlot) : (c.setSlot n v).len = c.len := rfl
@[simp] theorem Ctx.len_setM (c : Ctx) (n : Nat) (v : BitVec 8192) : (c.setM n v).len = c.len := rfl
@[simp] theorem Ctx.len_setTag (c : Ctx) (n : Nat) (v : Tag) : (c.setTag n v).len = c.len := rfl
@[simp] theorem Ctx.len_setVstart (c : Ctx) (n : Nat) : (c.setVstart n).len = c.len := rfl
@[simp] theorem Ctx.len_setVl (c : Ctx) (n : Nat) : (c.setVl n).len = c.len := rfl

@[simp] theorem Ctx.setVstart_vstart (c : Ctx) (n : Nat) : (c.setVstart n).vstart = n := rfl
@[simp] theorem Ctx.setVstart_vl (c : Ctx) (n : Nat) : (c.setVstart n).vl = c.vl := rfl
@[simp] theorem Ctx.setVl_vl (c : Ctx) (n : Nat) : (c.setVl n).vl = n := rfl
@[simp] theorem Ctx.setVl_vstart (c : Ctx) (n : Nat) : (c.setVl n).vstart = c.vstart := rfl

/-- s0 reads as zero, whatever was written to it (R31). -/
@[simp] theorem Ctx.getS_zero (c : Ctx) : c.getS 0 = 0 := rfl
@[simp] theorem Ctx.setS_zero (c : Ctx) (v : Word) : c.setS 0 v = c := rfl

theorem Ctx.getS_setS_same (c : Ctx) (n : RegNo) (v : Word) (h : n ≠ 0) (hn : n.toNat < 32) : (c.setS n v).getS n = v := by
  unfold Ctx.getS Ctx.setS; rw [if_neg h, if_neg h]; simp [Ctx.upd, hn]

theorem Ctx.getS_setS_ne (c : Ctx) (n j : RegNo) (v : Word) (h : j ≠ n) : (c.setS n v).getS j = c.getS j := by
  have hn : n.toNat ≠ j.toNat := fun e => h (BitVec.eq_of_toNat_eq e.symm)
  unfold Ctx.getS Ctx.setS
  split
  · rfl
  · split <;> simp [hn]

theorem Ctx.getC_setC_same (c : Ctx) (n : RegNo) (v : CReg) (hn : n.toNat < 16) : (c.setC n v).getC n = v := by
  simp [Ctx.getC, Ctx.setC, hn]

theorem Ctx.getC_setC_ne (c : Ctx) (n j : RegNo) (v : CReg) (h : j ≠ n) : (c.setC n v).getC j = c.getC j := by
  have hn : n.toNat ≠ j.toNat := fun e => h (BitVec.eq_of_toNat_eq e.symm)
  simp [Ctx.getC, Ctx.setC, hn]

theorem Ctx.getV_setV_same (c : Ctx) (n : Nat) (v : VReg) (hn : n < 64) : (c.setV n v).getV n = v := by
  simp [Ctx.getV, Ctx.setV, hn]

theorem Ctx.getV_setV_ne (c : Ctx) (n j : Nat) (v : VReg) (h : j ≠ n) : (c.setV n v).getV j = c.getV j := by
  simp [Ctx.getV, Ctx.setV, Ne.symm h]

theorem Ctx.getSlot_setSlot_same (c : Ctx) (n : Nat) (v : LSlot) (hn : n < 4) : (c.setSlot n v).getSlot n = v := by
  simp [Ctx.getSlot, Ctx.setSlot, hn]

theorem Ctx.getSlot_setSlot_ne (c : Ctx) (n j : Nat) (v : LSlot) (h : j ≠ n) : (c.setSlot n v).getSlot j = c.getSlot j := by
  simp [Ctx.getSlot, Ctx.setSlot, Ne.symm h]

/-- m0 reads as all ones (R45). -/
@[simp] theorem Ctx.getM_zero (c : Ctx) : c.getM 0 = BitVec.allOnes 8192 := rfl

theorem Ctx.getM_setM_same (c : Ctx) (n : Nat) (v : BitVec 8192) (h : n ≠ 0) (hn : n < 8) : (c.setM n v).getM n = v := by
  simp [Ctx.getM, Ctx.setM, h, hn]

theorem Ctx.getM_setM_ne (c : Ctx) (n j : Nat) (v : BitVec 8192) (h : j ≠ n) : (c.setM n v).getM j = c.getM j := by
  simp [Ctx.getM, Ctx.setM, Ne.symm h]

theorem Ctx.getTag_setTag_same (c : Ctx) (n : Nat) (v : Tag) (hn : n < 16) : (c.setTag n v).getTag n = v := by
  simp [Ctx.getTag, Ctx.setTag, hn]

theorem Ctx.getTag_setTag_ne (c : Ctx) (n j : Nat) (v : Tag) (h : j ≠ n) : (c.setTag n v).getTag j = c.getTag j := by
  simp [Ctx.getTag, Ctx.setTag, Ne.symm h]

/-! ### Updates of the machine, field by field -/

@[simp] theorem State.updCtx_cur (s : State) (f : Ctx → Ctx) : (s.updCtx f).cur = s.cur := rfl
@[simp] theorem State.updCtx_others (s : State) (f : Ctx → Ctx) : (s.updCtx f).others = s.others := rfl
@[simp] theorem State.updCtx_tick (s : State) (f : Ctx → Ctx) : (s.updCtx f).tick = s.tick := rfl
@[simp] theorem State.updCtx_resetTick (s : State) (f : Ctx → Ctx) : (s.updCtx f).resetTick = s.resetTick := rfl
@[simp] theorem State.updCtx_draws (s : State) (f : Ctx → Ctx) : (s.updCtx f).draws = s.draws := rfl
@[simp] theorem State.updCtx_late (s : State) (f : Ctx → Ctx) : (s.updCtx f).late = s.late := rfl
@[simp] theorem State.updCtx_agenda (s : State) (f : Ctx → Ctx) : (s.updCtx f).agenda = s.agenda := rfl
@[simp] theorem State.updCtx_mem (s : State) (f : Ctx → Ctx) : (s.updCtx f).mem = s.mem := rfl
@[simp] theorem State.updCtx_cores (s : State) (f : Ctx → Ctx) : (s.updCtx f).cores = s.cores := rfl
@[simp] theorem State.updCtx_dies (s : State) (f : Ctx → Ctx) : (s.updCtx f).dies = s.dies := rfl
@[simp] theorem State.updCtx_memStacks (s : State) (f : Ctx → Ctx) : (s.updCtx f).memStacks = s.memStacks := rfl
@[simp] theorem State.updCtx_flash (s : State) (f : Ctx → Ctx) : (s.updCtx f).flash = s.flash := rfl
@[simp] theorem State.updCtx_pkg (s : State) (f : Ctx → Ctx) : (s.updCtx f).pkg = s.pkg := rfl
@[simp] theorem State.updCtx_homeLines (s : State) (f : Ctx → Ctx) : (s.updCtx f).homeLines = s.homeLines := rfl
@[simp] theorem State.updCtx_lineBuf (s : State) (f : Ctx → Ctx) : (s.updCtx f).lineBuf = s.lineBuf := rfl
@[simp] theorem State.updCtx_presence (s : State) (f : Ctx → Ctx) : (s.updCtx f).presence = s.presence := rfl
@[simp] theorem State.updCtx_linePoison (s : State) (f : Ctx → Ctx) : (s.updCtx f).linePoison = s.linePoison := rfl
@[simp] theorem State.updCtx_secKey (s : State) (f : Ctx → Ctx) : (s.updCtx f).secKey = s.secKey := rfl
@[simp] theorem State.updCtx_races (s : State) (f : Ctx → Ctx) : (s.updCtx f).races = s.races := rfl
@[simp] theorem State.updCtx_nextReq (s : State) (f : Ctx → Ctx) : (s.updCtx f).nextReq = s.nextReq := rfl
@[simp] theorem State.updCtx_reqs (s : State) (f : Ctx → Ctx) : (s.updCtx f).reqs = s.reqs := rfl
@[simp] theorem State.updCtx_net (s : State) (f : Ctx → Ctx) : (s.updCtx f).net = s.net := rfl
@[simp] theorem State.updCtx_rx (s : State) (f : Ctx → Ctx) : (s.updCtx f).rx = s.rx := rfl
@[simp] theorem State.updCtx_routers (s : State) (f : Ctx → Ctx) : (s.updCtx f).routers = s.routers := rfl
@[simp] theorem State.updCtx_ctlWait (s : State) (f : Ctx → Ctx) : (s.updCtx f).ctlWait = s.ctlWait := rfl
@[simp] theorem State.updCtx_txns (s : State) (f : Ctx → Ctx) : (s.updCtx f).txns = s.txns := rfl
@[simp] theorem State.updCtx_seqs (s : State) (f : Ctx → Ctx) : (s.updCtx f).seqs = s.seqs := rfl
@[simp] theorem State.updCtx_dups (s : State) (f : Ctx → Ctx) : (s.updCtx f).dups = s.dups := rfl
@[simp] theorem State.updCtx_windows (s : State) (f : Ctx → Ctx) : (s.updCtx f).windows = s.windows := rfl
@[simp] theorem State.updCtx_teams (s : State) (f : Ctx → Ctx) : (s.updCtx f).teams = s.teams := rfl
@[simp] theorem State.updCtx_nodes (s : State) (f : Ctx → Ctx) : (s.updCtx f).nodes = s.nodes := rfl
@[simp] theorem State.updCtx_transl (s : State) (f : Ctx → Ctx) : (s.updCtx f).transl = s.transl := rfl
@[simp] theorem State.updCtx_members (s : State) (f : Ctx → Ctx) : (s.updCtx f).members = s.members := rfl
@[simp] theorem State.updCtx_frames (s : State) (f : Ctx → Ctx) : (s.updCtx f).frames = s.frames := rfl
@[simp] theorem State.updCtx_nextUid (s : State) (f : Ctx → Ctx) : (s.updCtx f).nextUid = s.nextUid := rfl
@[simp] theorem State.updCtx_nextOrder (s : State) (f : Ctx → Ctx) : (s.updCtx f).nextOrder = s.nextOrder := rfl
@[simp] theorem State.updCtx_claims (s : State) (f : Ctx → Ctx) : (s.updCtx f).claims = s.claims := rfl
@[simp] theorem State.updCtx_queues (s : State) (f : Ctx → Ctx) : (s.updCtx f).queues = s.queues := rfl
@[simp] theorem State.updCtx_vfs (s : State) (f : Ctx → Ctx) : (s.updCtx f).vfs = s.vfs := rfl
@[simp] theorem State.updCtx_hyper (s : State) (f : Ctx → Ctx) : (s.updCtx f).hyper = s.hyper := rfl
@[simp] theorem State.updCtx_modeChg (s : State) (f : Ctx → Ctx) : (s.updCtx f).modeChg = s.modeChg := rfl
@[simp] theorem State.updCtx_signed (s : State) (f : Ctx → Ctx) : (s.updCtx f).signed = s.signed := rfl
@[simp] theorem State.updCtx_spdmUp (s : State) (f : Ctx → Ctx) : (s.updCtx f).spdmUp = s.spdmUp := rfl
@[simp] theorem State.updCtx_tree (s : State) (f : Ctx → Ctx) : (s.updCtx f).tree = s.tree := rfl
@[simp] theorem State.updCtx_procTrees (s : State) (f : Ctx → Ctx) : (s.updCtx f).procTrees = s.procTrees := rfl
@[simp] theorem State.updCtx_measured (s : State) (f : Ctx → Ctx) : (s.updCtx f).measured = s.measured := rfl
@[simp] theorem State.setSlot_cur (s : State) (k : Nat) (x : Ctx) : (s.setSlot k x).cur = s.cur := by unfold State.setSlot; split <;> rfl
@[simp] theorem State.setSlot_tick (s : State) (k : Nat) (x : Ctx) : (s.setSlot k x).tick = s.tick := by unfold State.setSlot; split <;> rfl
@[simp] theorem State.setSlot_resetTick (s : State) (k : Nat) (x : Ctx) : (s.setSlot k x).resetTick = s.resetTick := by unfold State.setSlot; split <;> rfl
@[simp] theorem State.setSlot_draws (s : State) (k : Nat) (x : Ctx) : (s.setSlot k x).draws = s.draws := by unfold State.setSlot; split <;> rfl
@[simp] theorem State.setSlot_late (s : State) (k : Nat) (x : Ctx) : (s.setSlot k x).late = s.late := by unfold State.setSlot; split <;> rfl
@[simp] theorem State.setSlot_agenda (s : State) (k : Nat) (x : Ctx) : (s.setSlot k x).agenda = s.agenda := by unfold State.setSlot; split <;> rfl
@[simp] theorem State.setSlot_mem (s : State) (k : Nat) (x : Ctx) : (s.setSlot k x).mem = s.mem := by unfold State.setSlot; split <;> rfl
@[simp] theorem State.setSlot_cores (s : State) (k : Nat) (x : Ctx) : (s.setSlot k x).cores = s.cores := by unfold State.setSlot; split <;> rfl
@[simp] theorem State.setSlot_dies (s : State) (k : Nat) (x : Ctx) : (s.setSlot k x).dies = s.dies := by unfold State.setSlot; split <;> rfl
@[simp] theorem State.setSlot_memStacks (s : State) (k : Nat) (x : Ctx) : (s.setSlot k x).memStacks = s.memStacks := by unfold State.setSlot; split <;> rfl
@[simp] theorem State.setSlot_flash (s : State) (k : Nat) (x : Ctx) : (s.setSlot k x).flash = s.flash := by unfold State.setSlot; split <;> rfl
@[simp] theorem State.setSlot_pkg (s : State) (k : Nat) (x : Ctx) : (s.setSlot k x).pkg = s.pkg := by unfold State.setSlot; split <;> rfl
@[simp] theorem State.setSlot_homeLines (s : State) (k : Nat) (x : Ctx) : (s.setSlot k x).homeLines = s.homeLines := by unfold State.setSlot; split <;> rfl
@[simp] theorem State.setSlot_lineBuf (s : State) (k : Nat) (x : Ctx) : (s.setSlot k x).lineBuf = s.lineBuf := by unfold State.setSlot; split <;> rfl
@[simp] theorem State.setSlot_presence (s : State) (k : Nat) (x : Ctx) : (s.setSlot k x).presence = s.presence := by unfold State.setSlot; split <;> rfl
@[simp] theorem State.setSlot_linePoison (s : State) (k : Nat) (x : Ctx) : (s.setSlot k x).linePoison = s.linePoison := by unfold State.setSlot; split <;> rfl
@[simp] theorem State.setSlot_secKey (s : State) (k : Nat) (x : Ctx) : (s.setSlot k x).secKey = s.secKey := by unfold State.setSlot; split <;> rfl
@[simp] theorem State.setSlot_races (s : State) (k : Nat) (x : Ctx) : (s.setSlot k x).races = s.races := by unfold State.setSlot; split <;> rfl
@[simp] theorem State.setSlot_nextReq (s : State) (k : Nat) (x : Ctx) : (s.setSlot k x).nextReq = s.nextReq := by unfold State.setSlot; split <;> rfl
@[simp] theorem State.setSlot_reqs (s : State) (k : Nat) (x : Ctx) : (s.setSlot k x).reqs = s.reqs := by unfold State.setSlot; split <;> rfl
@[simp] theorem State.setSlot_net (s : State) (k : Nat) (x : Ctx) : (s.setSlot k x).net = s.net := by unfold State.setSlot; split <;> rfl
@[simp] theorem State.setSlot_rx (s : State) (k : Nat) (x : Ctx) : (s.setSlot k x).rx = s.rx := by unfold State.setSlot; split <;> rfl
@[simp] theorem State.setSlot_routers (s : State) (k : Nat) (x : Ctx) : (s.setSlot k x).routers = s.routers := by unfold State.setSlot; split <;> rfl
@[simp] theorem State.setSlot_ctlWait (s : State) (k : Nat) (x : Ctx) : (s.setSlot k x).ctlWait = s.ctlWait := by unfold State.setSlot; split <;> rfl
@[simp] theorem State.setSlot_txns (s : State) (k : Nat) (x : Ctx) : (s.setSlot k x).txns = s.txns := by unfold State.setSlot; split <;> rfl
@[simp] theorem State.setSlot_seqs (s : State) (k : Nat) (x : Ctx) : (s.setSlot k x).seqs = s.seqs := by unfold State.setSlot; split <;> rfl
@[simp] theorem State.setSlot_dups (s : State) (k : Nat) (x : Ctx) : (s.setSlot k x).dups = s.dups := by unfold State.setSlot; split <;> rfl
@[simp] theorem State.setSlot_windows (s : State) (k : Nat) (x : Ctx) : (s.setSlot k x).windows = s.windows := by unfold State.setSlot; split <;> rfl
@[simp] theorem State.setSlot_teams (s : State) (k : Nat) (x : Ctx) : (s.setSlot k x).teams = s.teams := by unfold State.setSlot; split <;> rfl
@[simp] theorem State.setSlot_nodes (s : State) (k : Nat) (x : Ctx) : (s.setSlot k x).nodes = s.nodes := by unfold State.setSlot; split <;> rfl
@[simp] theorem State.setSlot_transl (s : State) (k : Nat) (x : Ctx) : (s.setSlot k x).transl = s.transl := by unfold State.setSlot; split <;> rfl
@[simp] theorem State.setSlot_members (s : State) (k : Nat) (x : Ctx) : (s.setSlot k x).members = s.members := by unfold State.setSlot; split <;> rfl
@[simp] theorem State.setSlot_frames (s : State) (k : Nat) (x : Ctx) : (s.setSlot k x).frames = s.frames := by unfold State.setSlot; split <;> rfl
@[simp] theorem State.setSlot_nextUid (s : State) (k : Nat) (x : Ctx) : (s.setSlot k x).nextUid = s.nextUid := by unfold State.setSlot; split <;> rfl
@[simp] theorem State.setSlot_nextOrder (s : State) (k : Nat) (x : Ctx) : (s.setSlot k x).nextOrder = s.nextOrder := by unfold State.setSlot; split <;> rfl
@[simp] theorem State.setSlot_claims (s : State) (k : Nat) (x : Ctx) : (s.setSlot k x).claims = s.claims := by unfold State.setSlot; split <;> rfl
@[simp] theorem State.setSlot_queues (s : State) (k : Nat) (x : Ctx) : (s.setSlot k x).queues = s.queues := by unfold State.setSlot; split <;> rfl
@[simp] theorem State.setSlot_vfs (s : State) (k : Nat) (x : Ctx) : (s.setSlot k x).vfs = s.vfs := by unfold State.setSlot; split <;> rfl
@[simp] theorem State.setSlot_hyper (s : State) (k : Nat) (x : Ctx) : (s.setSlot k x).hyper = s.hyper := by unfold State.setSlot; split <;> rfl
@[simp] theorem State.setSlot_modeChg (s : State) (k : Nat) (x : Ctx) : (s.setSlot k x).modeChg = s.modeChg := by unfold State.setSlot; split <;> rfl
@[simp] theorem State.setSlot_signed (s : State) (k : Nat) (x : Ctx) : (s.setSlot k x).signed = s.signed := by unfold State.setSlot; split <;> rfl
@[simp] theorem State.setSlot_spdmUp (s : State) (k : Nat) (x : Ctx) : (s.setSlot k x).spdmUp = s.spdmUp := by unfold State.setSlot; split <;> rfl
@[simp] theorem State.setSlot_tree (s : State) (k : Nat) (x : Ctx) : (s.setSlot k x).tree = s.tree := by unfold State.setSlot; split <;> rfl
@[simp] theorem State.setSlot_procTrees (s : State) (k : Nat) (x : Ctx) : (s.setSlot k x).procTrees = s.procTrees := by unfold State.setSlot; split <;> rfl
@[simp] theorem State.setSlot_measured (s : State) (k : Nat) (x : Ctx) : (s.setSlot k x).measured = s.measured := by unfold State.setSlot; split <;> rfl
@[simp] theorem State.updSlot_cur (s : State) (k : Nat) (f : Ctx → Ctx) : (s.updSlot k f).cur = s.cur := by unfold State.updSlot State.setSlot; split <;> rfl
@[simp] theorem State.updSlot_tick (s : State) (k : Nat) (f : Ctx → Ctx) : (s.updSlot k f).tick = s.tick := by unfold State.updSlot State.setSlot; split <;> rfl
@[simp] theorem State.updSlot_resetTick (s : State) (k : Nat) (f : Ctx → Ctx) : (s.updSlot k f).resetTick = s.resetTick := by unfold State.updSlot State.setSlot; split <;> rfl
@[simp] theorem State.updSlot_draws (s : State) (k : Nat) (f : Ctx → Ctx) : (s.updSlot k f).draws = s.draws := by unfold State.updSlot State.setSlot; split <;> rfl
@[simp] theorem State.updSlot_late (s : State) (k : Nat) (f : Ctx → Ctx) : (s.updSlot k f).late = s.late := by unfold State.updSlot State.setSlot; split <;> rfl
@[simp] theorem State.updSlot_agenda (s : State) (k : Nat) (f : Ctx → Ctx) : (s.updSlot k f).agenda = s.agenda := by unfold State.updSlot State.setSlot; split <;> rfl
@[simp] theorem State.updSlot_mem (s : State) (k : Nat) (f : Ctx → Ctx) : (s.updSlot k f).mem = s.mem := by unfold State.updSlot State.setSlot; split <;> rfl
@[simp] theorem State.updSlot_cores (s : State) (k : Nat) (f : Ctx → Ctx) : (s.updSlot k f).cores = s.cores := by unfold State.updSlot State.setSlot; split <;> rfl
@[simp] theorem State.updSlot_dies (s : State) (k : Nat) (f : Ctx → Ctx) : (s.updSlot k f).dies = s.dies := by unfold State.updSlot State.setSlot; split <;> rfl
@[simp] theorem State.updSlot_memStacks (s : State) (k : Nat) (f : Ctx → Ctx) : (s.updSlot k f).memStacks = s.memStacks := by unfold State.updSlot State.setSlot; split <;> rfl
@[simp] theorem State.updSlot_flash (s : State) (k : Nat) (f : Ctx → Ctx) : (s.updSlot k f).flash = s.flash := by unfold State.updSlot State.setSlot; split <;> rfl
@[simp] theorem State.updSlot_pkg (s : State) (k : Nat) (f : Ctx → Ctx) : (s.updSlot k f).pkg = s.pkg := by unfold State.updSlot State.setSlot; split <;> rfl
@[simp] theorem State.updSlot_homeLines (s : State) (k : Nat) (f : Ctx → Ctx) : (s.updSlot k f).homeLines = s.homeLines := by unfold State.updSlot State.setSlot; split <;> rfl
@[simp] theorem State.updSlot_lineBuf (s : State) (k : Nat) (f : Ctx → Ctx) : (s.updSlot k f).lineBuf = s.lineBuf := by unfold State.updSlot State.setSlot; split <;> rfl
@[simp] theorem State.updSlot_presence (s : State) (k : Nat) (f : Ctx → Ctx) : (s.updSlot k f).presence = s.presence := by unfold State.updSlot State.setSlot; split <;> rfl
@[simp] theorem State.updSlot_linePoison (s : State) (k : Nat) (f : Ctx → Ctx) : (s.updSlot k f).linePoison = s.linePoison := by unfold State.updSlot State.setSlot; split <;> rfl
@[simp] theorem State.updSlot_secKey (s : State) (k : Nat) (f : Ctx → Ctx) : (s.updSlot k f).secKey = s.secKey := by unfold State.updSlot State.setSlot; split <;> rfl
@[simp] theorem State.updSlot_races (s : State) (k : Nat) (f : Ctx → Ctx) : (s.updSlot k f).races = s.races := by unfold State.updSlot State.setSlot; split <;> rfl
@[simp] theorem State.updSlot_nextReq (s : State) (k : Nat) (f : Ctx → Ctx) : (s.updSlot k f).nextReq = s.nextReq := by unfold State.updSlot State.setSlot; split <;> rfl
@[simp] theorem State.updSlot_reqs (s : State) (k : Nat) (f : Ctx → Ctx) : (s.updSlot k f).reqs = s.reqs := by unfold State.updSlot State.setSlot; split <;> rfl
@[simp] theorem State.updSlot_net (s : State) (k : Nat) (f : Ctx → Ctx) : (s.updSlot k f).net = s.net := by unfold State.updSlot State.setSlot; split <;> rfl
@[simp] theorem State.updSlot_rx (s : State) (k : Nat) (f : Ctx → Ctx) : (s.updSlot k f).rx = s.rx := by unfold State.updSlot State.setSlot; split <;> rfl
@[simp] theorem State.updSlot_routers (s : State) (k : Nat) (f : Ctx → Ctx) : (s.updSlot k f).routers = s.routers := by unfold State.updSlot State.setSlot; split <;> rfl
@[simp] theorem State.updSlot_ctlWait (s : State) (k : Nat) (f : Ctx → Ctx) : (s.updSlot k f).ctlWait = s.ctlWait := by unfold State.updSlot State.setSlot; split <;> rfl
@[simp] theorem State.updSlot_txns (s : State) (k : Nat) (f : Ctx → Ctx) : (s.updSlot k f).txns = s.txns := by unfold State.updSlot State.setSlot; split <;> rfl
@[simp] theorem State.updSlot_seqs (s : State) (k : Nat) (f : Ctx → Ctx) : (s.updSlot k f).seqs = s.seqs := by unfold State.updSlot State.setSlot; split <;> rfl
@[simp] theorem State.updSlot_dups (s : State) (k : Nat) (f : Ctx → Ctx) : (s.updSlot k f).dups = s.dups := by unfold State.updSlot State.setSlot; split <;> rfl
@[simp] theorem State.updSlot_windows (s : State) (k : Nat) (f : Ctx → Ctx) : (s.updSlot k f).windows = s.windows := by unfold State.updSlot State.setSlot; split <;> rfl
@[simp] theorem State.updSlot_teams (s : State) (k : Nat) (f : Ctx → Ctx) : (s.updSlot k f).teams = s.teams := by unfold State.updSlot State.setSlot; split <;> rfl
@[simp] theorem State.updSlot_nodes (s : State) (k : Nat) (f : Ctx → Ctx) : (s.updSlot k f).nodes = s.nodes := by unfold State.updSlot State.setSlot; split <;> rfl
@[simp] theorem State.updSlot_transl (s : State) (k : Nat) (f : Ctx → Ctx) : (s.updSlot k f).transl = s.transl := by unfold State.updSlot State.setSlot; split <;> rfl
@[simp] theorem State.updSlot_members (s : State) (k : Nat) (f : Ctx → Ctx) : (s.updSlot k f).members = s.members := by unfold State.updSlot State.setSlot; split <;> rfl
@[simp] theorem State.updSlot_frames (s : State) (k : Nat) (f : Ctx → Ctx) : (s.updSlot k f).frames = s.frames := by unfold State.updSlot State.setSlot; split <;> rfl
@[simp] theorem State.updSlot_nextUid (s : State) (k : Nat) (f : Ctx → Ctx) : (s.updSlot k f).nextUid = s.nextUid := by unfold State.updSlot State.setSlot; split <;> rfl
@[simp] theorem State.updSlot_nextOrder (s : State) (k : Nat) (f : Ctx → Ctx) : (s.updSlot k f).nextOrder = s.nextOrder := by unfold State.updSlot State.setSlot; split <;> rfl
@[simp] theorem State.updSlot_claims (s : State) (k : Nat) (f : Ctx → Ctx) : (s.updSlot k f).claims = s.claims := by unfold State.updSlot State.setSlot; split <;> rfl
@[simp] theorem State.updSlot_queues (s : State) (k : Nat) (f : Ctx → Ctx) : (s.updSlot k f).queues = s.queues := by unfold State.updSlot State.setSlot; split <;> rfl
@[simp] theorem State.updSlot_vfs (s : State) (k : Nat) (f : Ctx → Ctx) : (s.updSlot k f).vfs = s.vfs := by unfold State.updSlot State.setSlot; split <;> rfl
@[simp] theorem State.updSlot_hyper (s : State) (k : Nat) (f : Ctx → Ctx) : (s.updSlot k f).hyper = s.hyper := by unfold State.updSlot State.setSlot; split <;> rfl
@[simp] theorem State.updSlot_modeChg (s : State) (k : Nat) (f : Ctx → Ctx) : (s.updSlot k f).modeChg = s.modeChg := by unfold State.updSlot State.setSlot; split <;> rfl
@[simp] theorem State.updSlot_signed (s : State) (k : Nat) (f : Ctx → Ctx) : (s.updSlot k f).signed = s.signed := by unfold State.updSlot State.setSlot; split <;> rfl
@[simp] theorem State.updSlot_spdmUp (s : State) (k : Nat) (f : Ctx → Ctx) : (s.updSlot k f).spdmUp = s.spdmUp := by unfold State.updSlot State.setSlot; split <;> rfl
@[simp] theorem State.updSlot_tree (s : State) (k : Nat) (f : Ctx → Ctx) : (s.updSlot k f).tree = s.tree := by unfold State.updSlot State.setSlot; split <;> rfl
@[simp] theorem State.updSlot_procTrees (s : State) (k : Nat) (f : Ctx → Ctx) : (s.updSlot k f).procTrees = s.procTrees := by unfold State.updSlot State.setSlot; split <;> rfl
@[simp] theorem State.updSlot_measured (s : State) (k : Nat) (f : Ctx → Ctx) : (s.updSlot k f).measured = s.measured := by unfold State.updSlot State.setSlot; split <;> rfl
@[simp] theorem State.mapSlots_cur (s : State) (f : Nat → Ctx → Ctx) : (s.mapSlots f).cur = s.cur := rfl
@[simp] theorem State.mapSlots_tick (s : State) (f : Nat → Ctx → Ctx) : (s.mapSlots f).tick = s.tick := rfl
@[simp] theorem State.mapSlots_resetTick (s : State) (f : Nat → Ctx → Ctx) : (s.mapSlots f).resetTick = s.resetTick := rfl
@[simp] theorem State.mapSlots_draws (s : State) (f : Nat → Ctx → Ctx) : (s.mapSlots f).draws = s.draws := rfl
@[simp] theorem State.mapSlots_late (s : State) (f : Nat → Ctx → Ctx) : (s.mapSlots f).late = s.late := rfl
@[simp] theorem State.mapSlots_agenda (s : State) (f : Nat → Ctx → Ctx) : (s.mapSlots f).agenda = s.agenda := rfl
@[simp] theorem State.mapSlots_mem (s : State) (f : Nat → Ctx → Ctx) : (s.mapSlots f).mem = s.mem := rfl
@[simp] theorem State.mapSlots_cores (s : State) (f : Nat → Ctx → Ctx) : (s.mapSlots f).cores = s.cores := rfl
@[simp] theorem State.mapSlots_dies (s : State) (f : Nat → Ctx → Ctx) : (s.mapSlots f).dies = s.dies := rfl
@[simp] theorem State.mapSlots_memStacks (s : State) (f : Nat → Ctx → Ctx) : (s.mapSlots f).memStacks = s.memStacks := rfl
@[simp] theorem State.mapSlots_flash (s : State) (f : Nat → Ctx → Ctx) : (s.mapSlots f).flash = s.flash := rfl
@[simp] theorem State.mapSlots_pkg (s : State) (f : Nat → Ctx → Ctx) : (s.mapSlots f).pkg = s.pkg := rfl
@[simp] theorem State.mapSlots_homeLines (s : State) (f : Nat → Ctx → Ctx) : (s.mapSlots f).homeLines = s.homeLines := rfl
@[simp] theorem State.mapSlots_lineBuf (s : State) (f : Nat → Ctx → Ctx) : (s.mapSlots f).lineBuf = s.lineBuf := rfl
@[simp] theorem State.mapSlots_presence (s : State) (f : Nat → Ctx → Ctx) : (s.mapSlots f).presence = s.presence := rfl
@[simp] theorem State.mapSlots_linePoison (s : State) (f : Nat → Ctx → Ctx) : (s.mapSlots f).linePoison = s.linePoison := rfl
@[simp] theorem State.mapSlots_secKey (s : State) (f : Nat → Ctx → Ctx) : (s.mapSlots f).secKey = s.secKey := rfl
@[simp] theorem State.mapSlots_races (s : State) (f : Nat → Ctx → Ctx) : (s.mapSlots f).races = s.races := rfl
@[simp] theorem State.mapSlots_nextReq (s : State) (f : Nat → Ctx → Ctx) : (s.mapSlots f).nextReq = s.nextReq := rfl
@[simp] theorem State.mapSlots_reqs (s : State) (f : Nat → Ctx → Ctx) : (s.mapSlots f).reqs = s.reqs := rfl
@[simp] theorem State.mapSlots_net (s : State) (f : Nat → Ctx → Ctx) : (s.mapSlots f).net = s.net := rfl
@[simp] theorem State.mapSlots_rx (s : State) (f : Nat → Ctx → Ctx) : (s.mapSlots f).rx = s.rx := rfl
@[simp] theorem State.mapSlots_routers (s : State) (f : Nat → Ctx → Ctx) : (s.mapSlots f).routers = s.routers := rfl
@[simp] theorem State.mapSlots_ctlWait (s : State) (f : Nat → Ctx → Ctx) : (s.mapSlots f).ctlWait = s.ctlWait := rfl
@[simp] theorem State.mapSlots_txns (s : State) (f : Nat → Ctx → Ctx) : (s.mapSlots f).txns = s.txns := rfl
@[simp] theorem State.mapSlots_seqs (s : State) (f : Nat → Ctx → Ctx) : (s.mapSlots f).seqs = s.seqs := rfl
@[simp] theorem State.mapSlots_dups (s : State) (f : Nat → Ctx → Ctx) : (s.mapSlots f).dups = s.dups := rfl
@[simp] theorem State.mapSlots_windows (s : State) (f : Nat → Ctx → Ctx) : (s.mapSlots f).windows = s.windows := rfl
@[simp] theorem State.mapSlots_teams (s : State) (f : Nat → Ctx → Ctx) : (s.mapSlots f).teams = s.teams := rfl
@[simp] theorem State.mapSlots_nodes (s : State) (f : Nat → Ctx → Ctx) : (s.mapSlots f).nodes = s.nodes := rfl
@[simp] theorem State.mapSlots_transl (s : State) (f : Nat → Ctx → Ctx) : (s.mapSlots f).transl = s.transl := rfl
@[simp] theorem State.mapSlots_members (s : State) (f : Nat → Ctx → Ctx) : (s.mapSlots f).members = s.members := rfl
@[simp] theorem State.mapSlots_frames (s : State) (f : Nat → Ctx → Ctx) : (s.mapSlots f).frames = s.frames := rfl
@[simp] theorem State.mapSlots_nextUid (s : State) (f : Nat → Ctx → Ctx) : (s.mapSlots f).nextUid = s.nextUid := rfl
@[simp] theorem State.mapSlots_nextOrder (s : State) (f : Nat → Ctx → Ctx) : (s.mapSlots f).nextOrder = s.nextOrder := rfl
@[simp] theorem State.mapSlots_claims (s : State) (f : Nat → Ctx → Ctx) : (s.mapSlots f).claims = s.claims := rfl
@[simp] theorem State.mapSlots_queues (s : State) (f : Nat → Ctx → Ctx) : (s.mapSlots f).queues = s.queues := rfl
@[simp] theorem State.mapSlots_vfs (s : State) (f : Nat → Ctx → Ctx) : (s.mapSlots f).vfs = s.vfs := rfl
@[simp] theorem State.mapSlots_hyper (s : State) (f : Nat → Ctx → Ctx) : (s.mapSlots f).hyper = s.hyper := rfl
@[simp] theorem State.mapSlots_modeChg (s : State) (f : Nat → Ctx → Ctx) : (s.mapSlots f).modeChg = s.modeChg := rfl
@[simp] theorem State.mapSlots_signed (s : State) (f : Nat → Ctx → Ctx) : (s.mapSlots f).signed = s.signed := rfl
@[simp] theorem State.mapSlots_spdmUp (s : State) (f : Nat → Ctx → Ctx) : (s.mapSlots f).spdmUp = s.spdmUp := rfl
@[simp] theorem State.mapSlots_tree (s : State) (f : Nat → Ctx → Ctx) : (s.mapSlots f).tree = s.tree := rfl
@[simp] theorem State.mapSlots_procTrees (s : State) (f : Nat → Ctx → Ctx) : (s.mapSlots f).procTrees = s.procTrees := rfl
@[simp] theorem State.mapSlots_measured (s : State) (f : Nat → Ctx → Ctx) : (s.mapSlots f).measured = s.measured := rfl
@[simp] theorem State.setCore_cur (s : State) (n : Nat) (x : Core) : (s.setCore n x).cur = s.cur := rfl
@[simp] theorem State.setCore_ctx (s : State) (n : Nat) (x : Core) : (s.setCore n x).ctx = s.ctx := rfl
@[simp] theorem State.setCore_others (s : State) (n : Nat) (x : Core) : (s.setCore n x).others = s.others := rfl
@[simp] theorem State.setCore_tick (s : State) (n : Nat) (x : Core) : (s.setCore n x).tick = s.tick := rfl
@[simp] theorem State.setCore_resetTick (s : State) (n : Nat) (x : Core) : (s.setCore n x).resetTick = s.resetTick := rfl
@[simp] theorem State.setCore_draws (s : State) (n : Nat) (x : Core) : (s.setCore n x).draws = s.draws := rfl
@[simp] theorem State.setCore_late (s : State) (n : Nat) (x : Core) : (s.setCore n x).late = s.late := rfl
@[simp] theorem State.setCore_agenda (s : State) (n : Nat) (x : Core) : (s.setCore n x).agenda = s.agenda := rfl
@[simp] theorem State.setCore_mem (s : State) (n : Nat) (x : Core) : (s.setCore n x).mem = s.mem := rfl
@[simp] theorem State.setCore_dies (s : State) (n : Nat) (x : Core) : (s.setCore n x).dies = s.dies := rfl
@[simp] theorem State.setCore_memStacks (s : State) (n : Nat) (x : Core) : (s.setCore n x).memStacks = s.memStacks := rfl
@[simp] theorem State.setCore_flash (s : State) (n : Nat) (x : Core) : (s.setCore n x).flash = s.flash := rfl
@[simp] theorem State.setCore_pkg (s : State) (n : Nat) (x : Core) : (s.setCore n x).pkg = s.pkg := rfl
@[simp] theorem State.setCore_homeLines (s : State) (n : Nat) (x : Core) : (s.setCore n x).homeLines = s.homeLines := rfl
@[simp] theorem State.setCore_lineBuf (s : State) (n : Nat) (x : Core) : (s.setCore n x).lineBuf = s.lineBuf := rfl
@[simp] theorem State.setCore_presence (s : State) (n : Nat) (x : Core) : (s.setCore n x).presence = s.presence := rfl
@[simp] theorem State.setCore_linePoison (s : State) (n : Nat) (x : Core) : (s.setCore n x).linePoison = s.linePoison := rfl
@[simp] theorem State.setCore_secKey (s : State) (n : Nat) (x : Core) : (s.setCore n x).secKey = s.secKey := rfl
@[simp] theorem State.setCore_races (s : State) (n : Nat) (x : Core) : (s.setCore n x).races = s.races := rfl
@[simp] theorem State.setCore_nextReq (s : State) (n : Nat) (x : Core) : (s.setCore n x).nextReq = s.nextReq := rfl
@[simp] theorem State.setCore_reqs (s : State) (n : Nat) (x : Core) : (s.setCore n x).reqs = s.reqs := rfl
@[simp] theorem State.setCore_net (s : State) (n : Nat) (x : Core) : (s.setCore n x).net = s.net := rfl
@[simp] theorem State.setCore_rx (s : State) (n : Nat) (x : Core) : (s.setCore n x).rx = s.rx := rfl
@[simp] theorem State.setCore_routers (s : State) (n : Nat) (x : Core) : (s.setCore n x).routers = s.routers := rfl
@[simp] theorem State.setCore_ctlWait (s : State) (n : Nat) (x : Core) : (s.setCore n x).ctlWait = s.ctlWait := rfl
@[simp] theorem State.setCore_txns (s : State) (n : Nat) (x : Core) : (s.setCore n x).txns = s.txns := rfl
@[simp] theorem State.setCore_seqs (s : State) (n : Nat) (x : Core) : (s.setCore n x).seqs = s.seqs := rfl
@[simp] theorem State.setCore_dups (s : State) (n : Nat) (x : Core) : (s.setCore n x).dups = s.dups := rfl
@[simp] theorem State.setCore_windows (s : State) (n : Nat) (x : Core) : (s.setCore n x).windows = s.windows := rfl
@[simp] theorem State.setCore_teams (s : State) (n : Nat) (x : Core) : (s.setCore n x).teams = s.teams := rfl
@[simp] theorem State.setCore_nodes (s : State) (n : Nat) (x : Core) : (s.setCore n x).nodes = s.nodes := rfl
@[simp] theorem State.setCore_transl (s : State) (n : Nat) (x : Core) : (s.setCore n x).transl = s.transl := rfl
@[simp] theorem State.setCore_members (s : State) (n : Nat) (x : Core) : (s.setCore n x).members = s.members := rfl
@[simp] theorem State.setCore_frames (s : State) (n : Nat) (x : Core) : (s.setCore n x).frames = s.frames := rfl
@[simp] theorem State.setCore_nextUid (s : State) (n : Nat) (x : Core) : (s.setCore n x).nextUid = s.nextUid := rfl
@[simp] theorem State.setCore_nextOrder (s : State) (n : Nat) (x : Core) : (s.setCore n x).nextOrder = s.nextOrder := rfl
@[simp] theorem State.setCore_claims (s : State) (n : Nat) (x : Core) : (s.setCore n x).claims = s.claims := rfl
@[simp] theorem State.setCore_queues (s : State) (n : Nat) (x : Core) : (s.setCore n x).queues = s.queues := rfl
@[simp] theorem State.setCore_vfs (s : State) (n : Nat) (x : Core) : (s.setCore n x).vfs = s.vfs := rfl
@[simp] theorem State.setCore_hyper (s : State) (n : Nat) (x : Core) : (s.setCore n x).hyper = s.hyper := rfl
@[simp] theorem State.setCore_modeChg (s : State) (n : Nat) (x : Core) : (s.setCore n x).modeChg = s.modeChg := rfl
@[simp] theorem State.setCore_signed (s : State) (n : Nat) (x : Core) : (s.setCore n x).signed = s.signed := rfl
@[simp] theorem State.setCore_spdmUp (s : State) (n : Nat) (x : Core) : (s.setCore n x).spdmUp = s.spdmUp := rfl
@[simp] theorem State.setCore_tree (s : State) (n : Nat) (x : Core) : (s.setCore n x).tree = s.tree := rfl
@[simp] theorem State.setCore_procTrees (s : State) (n : Nat) (x : Core) : (s.setCore n x).procTrees = s.procTrees := rfl
@[simp] theorem State.setCore_measured (s : State) (n : Nat) (x : Core) : (s.setCore n x).measured = s.measured := rfl
@[simp] theorem State.setDie_cur (s : State) (d : Nat) (x : Die) : (s.setDie d x).cur = s.cur := rfl
@[simp] theorem State.setDie_ctx (s : State) (d : Nat) (x : Die) : (s.setDie d x).ctx = s.ctx := rfl
@[simp] theorem State.setDie_others (s : State) (d : Nat) (x : Die) : (s.setDie d x).others = s.others := rfl
@[simp] theorem State.setDie_tick (s : State) (d : Nat) (x : Die) : (s.setDie d x).tick = s.tick := rfl
@[simp] theorem State.setDie_resetTick (s : State) (d : Nat) (x : Die) : (s.setDie d x).resetTick = s.resetTick := rfl
@[simp] theorem State.setDie_draws (s : State) (d : Nat) (x : Die) : (s.setDie d x).draws = s.draws := rfl
@[simp] theorem State.setDie_late (s : State) (d : Nat) (x : Die) : (s.setDie d x).late = s.late := rfl
@[simp] theorem State.setDie_agenda (s : State) (d : Nat) (x : Die) : (s.setDie d x).agenda = s.agenda := rfl
@[simp] theorem State.setDie_mem (s : State) (d : Nat) (x : Die) : (s.setDie d x).mem = s.mem := rfl
@[simp] theorem State.setDie_cores (s : State) (d : Nat) (x : Die) : (s.setDie d x).cores = s.cores := rfl
@[simp] theorem State.setDie_memStacks (s : State) (d : Nat) (x : Die) : (s.setDie d x).memStacks = s.memStacks := rfl
@[simp] theorem State.setDie_flash (s : State) (d : Nat) (x : Die) : (s.setDie d x).flash = s.flash := rfl
@[simp] theorem State.setDie_pkg (s : State) (d : Nat) (x : Die) : (s.setDie d x).pkg = s.pkg := rfl
@[simp] theorem State.setDie_homeLines (s : State) (d : Nat) (x : Die) : (s.setDie d x).homeLines = s.homeLines := rfl
@[simp] theorem State.setDie_lineBuf (s : State) (d : Nat) (x : Die) : (s.setDie d x).lineBuf = s.lineBuf := rfl
@[simp] theorem State.setDie_presence (s : State) (d : Nat) (x : Die) : (s.setDie d x).presence = s.presence := rfl
@[simp] theorem State.setDie_linePoison (s : State) (d : Nat) (x : Die) : (s.setDie d x).linePoison = s.linePoison := rfl
@[simp] theorem State.setDie_secKey (s : State) (d : Nat) (x : Die) : (s.setDie d x).secKey = s.secKey := rfl
@[simp] theorem State.setDie_races (s : State) (d : Nat) (x : Die) : (s.setDie d x).races = s.races := rfl
@[simp] theorem State.setDie_nextReq (s : State) (d : Nat) (x : Die) : (s.setDie d x).nextReq = s.nextReq := rfl
@[simp] theorem State.setDie_reqs (s : State) (d : Nat) (x : Die) : (s.setDie d x).reqs = s.reqs := rfl
@[simp] theorem State.setDie_net (s : State) (d : Nat) (x : Die) : (s.setDie d x).net = s.net := rfl
@[simp] theorem State.setDie_rx (s : State) (d : Nat) (x : Die) : (s.setDie d x).rx = s.rx := rfl
@[simp] theorem State.setDie_routers (s : State) (d : Nat) (x : Die) : (s.setDie d x).routers = s.routers := rfl
@[simp] theorem State.setDie_ctlWait (s : State) (d : Nat) (x : Die) : (s.setDie d x).ctlWait = s.ctlWait := rfl
@[simp] theorem State.setDie_txns (s : State) (d : Nat) (x : Die) : (s.setDie d x).txns = s.txns := rfl
@[simp] theorem State.setDie_seqs (s : State) (d : Nat) (x : Die) : (s.setDie d x).seqs = s.seqs := rfl
@[simp] theorem State.setDie_dups (s : State) (d : Nat) (x : Die) : (s.setDie d x).dups = s.dups := rfl
@[simp] theorem State.setDie_windows (s : State) (d : Nat) (x : Die) : (s.setDie d x).windows = s.windows := rfl
@[simp] theorem State.setDie_teams (s : State) (d : Nat) (x : Die) : (s.setDie d x).teams = s.teams := rfl
@[simp] theorem State.setDie_nodes (s : State) (d : Nat) (x : Die) : (s.setDie d x).nodes = s.nodes := rfl
@[simp] theorem State.setDie_transl (s : State) (d : Nat) (x : Die) : (s.setDie d x).transl = s.transl := rfl
@[simp] theorem State.setDie_members (s : State) (d : Nat) (x : Die) : (s.setDie d x).members = s.members := rfl
@[simp] theorem State.setDie_frames (s : State) (d : Nat) (x : Die) : (s.setDie d x).frames = s.frames := rfl
@[simp] theorem State.setDie_nextUid (s : State) (d : Nat) (x : Die) : (s.setDie d x).nextUid = s.nextUid := rfl
@[simp] theorem State.setDie_nextOrder (s : State) (d : Nat) (x : Die) : (s.setDie d x).nextOrder = s.nextOrder := rfl
@[simp] theorem State.setDie_claims (s : State) (d : Nat) (x : Die) : (s.setDie d x).claims = s.claims := rfl
@[simp] theorem State.setDie_queues (s : State) (d : Nat) (x : Die) : (s.setDie d x).queues = s.queues := rfl
@[simp] theorem State.setDie_vfs (s : State) (d : Nat) (x : Die) : (s.setDie d x).vfs = s.vfs := rfl
@[simp] theorem State.setDie_hyper (s : State) (d : Nat) (x : Die) : (s.setDie d x).hyper = s.hyper := rfl
@[simp] theorem State.setDie_modeChg (s : State) (d : Nat) (x : Die) : (s.setDie d x).modeChg = s.modeChg := rfl
@[simp] theorem State.setDie_signed (s : State) (d : Nat) (x : Die) : (s.setDie d x).signed = s.signed := rfl
@[simp] theorem State.setDie_spdmUp (s : State) (d : Nat) (x : Die) : (s.setDie d x).spdmUp = s.spdmUp := rfl
@[simp] theorem State.setDie_tree (s : State) (d : Nat) (x : Die) : (s.setDie d x).tree = s.tree := rfl
@[simp] theorem State.setDie_procTrees (s : State) (d : Nat) (x : Die) : (s.setDie d x).procTrees = s.procTrees := rfl
@[simp] theorem State.setDie_measured (s : State) (d : Nat) (x : Die) : (s.setDie d x).measured = s.measured := rfl
@[simp] theorem State.updDie_cur (s : State) (d : Nat) (f : Die → Die) : (s.updDie d f).cur = s.cur := rfl
@[simp] theorem State.updDie_ctx (s : State) (d : Nat) (f : Die → Die) : (s.updDie d f).ctx = s.ctx := rfl
@[simp] theorem State.updDie_others (s : State) (d : Nat) (f : Die → Die) : (s.updDie d f).others = s.others := rfl
@[simp] theorem State.updDie_tick (s : State) (d : Nat) (f : Die → Die) : (s.updDie d f).tick = s.tick := rfl
@[simp] theorem State.updDie_resetTick (s : State) (d : Nat) (f : Die → Die) : (s.updDie d f).resetTick = s.resetTick := rfl
@[simp] theorem State.updDie_draws (s : State) (d : Nat) (f : Die → Die) : (s.updDie d f).draws = s.draws := rfl
@[simp] theorem State.updDie_late (s : State) (d : Nat) (f : Die → Die) : (s.updDie d f).late = s.late := rfl
@[simp] theorem State.updDie_agenda (s : State) (d : Nat) (f : Die → Die) : (s.updDie d f).agenda = s.agenda := rfl
@[simp] theorem State.updDie_mem (s : State) (d : Nat) (f : Die → Die) : (s.updDie d f).mem = s.mem := rfl
@[simp] theorem State.updDie_cores (s : State) (d : Nat) (f : Die → Die) : (s.updDie d f).cores = s.cores := rfl
@[simp] theorem State.updDie_memStacks (s : State) (d : Nat) (f : Die → Die) : (s.updDie d f).memStacks = s.memStacks := rfl
@[simp] theorem State.updDie_flash (s : State) (d : Nat) (f : Die → Die) : (s.updDie d f).flash = s.flash := rfl
@[simp] theorem State.updDie_pkg (s : State) (d : Nat) (f : Die → Die) : (s.updDie d f).pkg = s.pkg := rfl
@[simp] theorem State.updDie_homeLines (s : State) (d : Nat) (f : Die → Die) : (s.updDie d f).homeLines = s.homeLines := rfl
@[simp] theorem State.updDie_lineBuf (s : State) (d : Nat) (f : Die → Die) : (s.updDie d f).lineBuf = s.lineBuf := rfl
@[simp] theorem State.updDie_presence (s : State) (d : Nat) (f : Die → Die) : (s.updDie d f).presence = s.presence := rfl
@[simp] theorem State.updDie_linePoison (s : State) (d : Nat) (f : Die → Die) : (s.updDie d f).linePoison = s.linePoison := rfl
@[simp] theorem State.updDie_secKey (s : State) (d : Nat) (f : Die → Die) : (s.updDie d f).secKey = s.secKey := rfl
@[simp] theorem State.updDie_races (s : State) (d : Nat) (f : Die → Die) : (s.updDie d f).races = s.races := rfl
@[simp] theorem State.updDie_nextReq (s : State) (d : Nat) (f : Die → Die) : (s.updDie d f).nextReq = s.nextReq := rfl
@[simp] theorem State.updDie_reqs (s : State) (d : Nat) (f : Die → Die) : (s.updDie d f).reqs = s.reqs := rfl
@[simp] theorem State.updDie_net (s : State) (d : Nat) (f : Die → Die) : (s.updDie d f).net = s.net := rfl
@[simp] theorem State.updDie_rx (s : State) (d : Nat) (f : Die → Die) : (s.updDie d f).rx = s.rx := rfl
@[simp] theorem State.updDie_routers (s : State) (d : Nat) (f : Die → Die) : (s.updDie d f).routers = s.routers := rfl
@[simp] theorem State.updDie_ctlWait (s : State) (d : Nat) (f : Die → Die) : (s.updDie d f).ctlWait = s.ctlWait := rfl
@[simp] theorem State.updDie_txns (s : State) (d : Nat) (f : Die → Die) : (s.updDie d f).txns = s.txns := rfl
@[simp] theorem State.updDie_seqs (s : State) (d : Nat) (f : Die → Die) : (s.updDie d f).seqs = s.seqs := rfl
@[simp] theorem State.updDie_dups (s : State) (d : Nat) (f : Die → Die) : (s.updDie d f).dups = s.dups := rfl
@[simp] theorem State.updDie_windows (s : State) (d : Nat) (f : Die → Die) : (s.updDie d f).windows = s.windows := rfl
@[simp] theorem State.updDie_teams (s : State) (d : Nat) (f : Die → Die) : (s.updDie d f).teams = s.teams := rfl
@[simp] theorem State.updDie_nodes (s : State) (d : Nat) (f : Die → Die) : (s.updDie d f).nodes = s.nodes := rfl
@[simp] theorem State.updDie_transl (s : State) (d : Nat) (f : Die → Die) : (s.updDie d f).transl = s.transl := rfl
@[simp] theorem State.updDie_members (s : State) (d : Nat) (f : Die → Die) : (s.updDie d f).members = s.members := rfl
@[simp] theorem State.updDie_frames (s : State) (d : Nat) (f : Die → Die) : (s.updDie d f).frames = s.frames := rfl
@[simp] theorem State.updDie_nextUid (s : State) (d : Nat) (f : Die → Die) : (s.updDie d f).nextUid = s.nextUid := rfl
@[simp] theorem State.updDie_nextOrder (s : State) (d : Nat) (f : Die → Die) : (s.updDie d f).nextOrder = s.nextOrder := rfl
@[simp] theorem State.updDie_claims (s : State) (d : Nat) (f : Die → Die) : (s.updDie d f).claims = s.claims := rfl
@[simp] theorem State.updDie_queues (s : State) (d : Nat) (f : Die → Die) : (s.updDie d f).queues = s.queues := rfl
@[simp] theorem State.updDie_vfs (s : State) (d : Nat) (f : Die → Die) : (s.updDie d f).vfs = s.vfs := rfl
@[simp] theorem State.updDie_hyper (s : State) (d : Nat) (f : Die → Die) : (s.updDie d f).hyper = s.hyper := rfl
@[simp] theorem State.updDie_modeChg (s : State) (d : Nat) (f : Die → Die) : (s.updDie d f).modeChg = s.modeChg := rfl
@[simp] theorem State.updDie_signed (s : State) (d : Nat) (f : Die → Die) : (s.updDie d f).signed = s.signed := rfl
@[simp] theorem State.updDie_spdmUp (s : State) (d : Nat) (f : Die → Die) : (s.updDie d f).spdmUp = s.spdmUp := rfl
@[simp] theorem State.updDie_tree (s : State) (d : Nat) (f : Die → Die) : (s.updDie d f).tree = s.tree := rfl
@[simp] theorem State.updDie_procTrees (s : State) (d : Nat) (f : Die → Die) : (s.updDie d f).procTrees = s.procTrees := rfl
@[simp] theorem State.updDie_measured (s : State) (d : Nat) (f : Die → Die) : (s.updDie d f).measured = s.measured := rfl
@[simp] theorem State.setStack_cur (s : State) (k : Nat) (x : Stack) : (s.setStack k x).cur = s.cur := rfl
@[simp] theorem State.setStack_ctx (s : State) (k : Nat) (x : Stack) : (s.setStack k x).ctx = s.ctx := rfl
@[simp] theorem State.setStack_others (s : State) (k : Nat) (x : Stack) : (s.setStack k x).others = s.others := rfl
@[simp] theorem State.setStack_tick (s : State) (k : Nat) (x : Stack) : (s.setStack k x).tick = s.tick := rfl
@[simp] theorem State.setStack_resetTick (s : State) (k : Nat) (x : Stack) : (s.setStack k x).resetTick = s.resetTick := rfl
@[simp] theorem State.setStack_draws (s : State) (k : Nat) (x : Stack) : (s.setStack k x).draws = s.draws := rfl
@[simp] theorem State.setStack_late (s : State) (k : Nat) (x : Stack) : (s.setStack k x).late = s.late := rfl
@[simp] theorem State.setStack_agenda (s : State) (k : Nat) (x : Stack) : (s.setStack k x).agenda = s.agenda := rfl
@[simp] theorem State.setStack_mem (s : State) (k : Nat) (x : Stack) : (s.setStack k x).mem = s.mem := rfl
@[simp] theorem State.setStack_cores (s : State) (k : Nat) (x : Stack) : (s.setStack k x).cores = s.cores := rfl
@[simp] theorem State.setStack_dies (s : State) (k : Nat) (x : Stack) : (s.setStack k x).dies = s.dies := rfl
@[simp] theorem State.setStack_flash (s : State) (k : Nat) (x : Stack) : (s.setStack k x).flash = s.flash := rfl
@[simp] theorem State.setStack_pkg (s : State) (k : Nat) (x : Stack) : (s.setStack k x).pkg = s.pkg := rfl
@[simp] theorem State.setStack_homeLines (s : State) (k : Nat) (x : Stack) : (s.setStack k x).homeLines = s.homeLines := rfl
@[simp] theorem State.setStack_lineBuf (s : State) (k : Nat) (x : Stack) : (s.setStack k x).lineBuf = s.lineBuf := rfl
@[simp] theorem State.setStack_presence (s : State) (k : Nat) (x : Stack) : (s.setStack k x).presence = s.presence := rfl
@[simp] theorem State.setStack_linePoison (s : State) (k : Nat) (x : Stack) : (s.setStack k x).linePoison = s.linePoison := rfl
@[simp] theorem State.setStack_secKey (s : State) (k : Nat) (x : Stack) : (s.setStack k x).secKey = s.secKey := rfl
@[simp] theorem State.setStack_races (s : State) (k : Nat) (x : Stack) : (s.setStack k x).races = s.races := rfl
@[simp] theorem State.setStack_nextReq (s : State) (k : Nat) (x : Stack) : (s.setStack k x).nextReq = s.nextReq := rfl
@[simp] theorem State.setStack_reqs (s : State) (k : Nat) (x : Stack) : (s.setStack k x).reqs = s.reqs := rfl
@[simp] theorem State.setStack_net (s : State) (k : Nat) (x : Stack) : (s.setStack k x).net = s.net := rfl
@[simp] theorem State.setStack_rx (s : State) (k : Nat) (x : Stack) : (s.setStack k x).rx = s.rx := rfl
@[simp] theorem State.setStack_routers (s : State) (k : Nat) (x : Stack) : (s.setStack k x).routers = s.routers := rfl
@[simp] theorem State.setStack_ctlWait (s : State) (k : Nat) (x : Stack) : (s.setStack k x).ctlWait = s.ctlWait := rfl
@[simp] theorem State.setStack_txns (s : State) (k : Nat) (x : Stack) : (s.setStack k x).txns = s.txns := rfl
@[simp] theorem State.setStack_seqs (s : State) (k : Nat) (x : Stack) : (s.setStack k x).seqs = s.seqs := rfl
@[simp] theorem State.setStack_dups (s : State) (k : Nat) (x : Stack) : (s.setStack k x).dups = s.dups := rfl
@[simp] theorem State.setStack_windows (s : State) (k : Nat) (x : Stack) : (s.setStack k x).windows = s.windows := rfl
@[simp] theorem State.setStack_teams (s : State) (k : Nat) (x : Stack) : (s.setStack k x).teams = s.teams := rfl
@[simp] theorem State.setStack_nodes (s : State) (k : Nat) (x : Stack) : (s.setStack k x).nodes = s.nodes := rfl
@[simp] theorem State.setStack_transl (s : State) (k : Nat) (x : Stack) : (s.setStack k x).transl = s.transl := rfl
@[simp] theorem State.setStack_members (s : State) (k : Nat) (x : Stack) : (s.setStack k x).members = s.members := rfl
@[simp] theorem State.setStack_frames (s : State) (k : Nat) (x : Stack) : (s.setStack k x).frames = s.frames := rfl
@[simp] theorem State.setStack_nextUid (s : State) (k : Nat) (x : Stack) : (s.setStack k x).nextUid = s.nextUid := rfl
@[simp] theorem State.setStack_nextOrder (s : State) (k : Nat) (x : Stack) : (s.setStack k x).nextOrder = s.nextOrder := rfl
@[simp] theorem State.setStack_claims (s : State) (k : Nat) (x : Stack) : (s.setStack k x).claims = s.claims := rfl
@[simp] theorem State.setStack_queues (s : State) (k : Nat) (x : Stack) : (s.setStack k x).queues = s.queues := rfl
@[simp] theorem State.setStack_vfs (s : State) (k : Nat) (x : Stack) : (s.setStack k x).vfs = s.vfs := rfl
@[simp] theorem State.setStack_hyper (s : State) (k : Nat) (x : Stack) : (s.setStack k x).hyper = s.hyper := rfl
@[simp] theorem State.setStack_modeChg (s : State) (k : Nat) (x : Stack) : (s.setStack k x).modeChg = s.modeChg := rfl
@[simp] theorem State.setStack_signed (s : State) (k : Nat) (x : Stack) : (s.setStack k x).signed = s.signed := rfl
@[simp] theorem State.setStack_spdmUp (s : State) (k : Nat) (x : Stack) : (s.setStack k x).spdmUp = s.spdmUp := rfl
@[simp] theorem State.setStack_tree (s : State) (k : Nat) (x : Stack) : (s.setStack k x).tree = s.tree := rfl
@[simp] theorem State.setStack_procTrees (s : State) (k : Nat) (x : Stack) : (s.setStack k x).procTrees = s.procTrees := rfl
@[simp] theorem State.setStack_measured (s : State) (k : Nat) (x : Stack) : (s.setStack k x).measured = s.measured := rfl
@[simp] theorem State.updStack_cur (s : State) (k : Nat) (f : Stack → Stack) : (s.updStack k f).cur = s.cur := rfl
@[simp] theorem State.updStack_ctx (s : State) (k : Nat) (f : Stack → Stack) : (s.updStack k f).ctx = s.ctx := rfl
@[simp] theorem State.updStack_others (s : State) (k : Nat) (f : Stack → Stack) : (s.updStack k f).others = s.others := rfl
@[simp] theorem State.updStack_tick (s : State) (k : Nat) (f : Stack → Stack) : (s.updStack k f).tick = s.tick := rfl
@[simp] theorem State.updStack_resetTick (s : State) (k : Nat) (f : Stack → Stack) : (s.updStack k f).resetTick = s.resetTick := rfl
@[simp] theorem State.updStack_draws (s : State) (k : Nat) (f : Stack → Stack) : (s.updStack k f).draws = s.draws := rfl
@[simp] theorem State.updStack_late (s : State) (k : Nat) (f : Stack → Stack) : (s.updStack k f).late = s.late := rfl
@[simp] theorem State.updStack_agenda (s : State) (k : Nat) (f : Stack → Stack) : (s.updStack k f).agenda = s.agenda := rfl
@[simp] theorem State.updStack_mem (s : State) (k : Nat) (f : Stack → Stack) : (s.updStack k f).mem = s.mem := rfl
@[simp] theorem State.updStack_cores (s : State) (k : Nat) (f : Stack → Stack) : (s.updStack k f).cores = s.cores := rfl
@[simp] theorem State.updStack_dies (s : State) (k : Nat) (f : Stack → Stack) : (s.updStack k f).dies = s.dies := rfl
@[simp] theorem State.updStack_flash (s : State) (k : Nat) (f : Stack → Stack) : (s.updStack k f).flash = s.flash := rfl
@[simp] theorem State.updStack_pkg (s : State) (k : Nat) (f : Stack → Stack) : (s.updStack k f).pkg = s.pkg := rfl
@[simp] theorem State.updStack_homeLines (s : State) (k : Nat) (f : Stack → Stack) : (s.updStack k f).homeLines = s.homeLines := rfl
@[simp] theorem State.updStack_lineBuf (s : State) (k : Nat) (f : Stack → Stack) : (s.updStack k f).lineBuf = s.lineBuf := rfl
@[simp] theorem State.updStack_presence (s : State) (k : Nat) (f : Stack → Stack) : (s.updStack k f).presence = s.presence := rfl
@[simp] theorem State.updStack_linePoison (s : State) (k : Nat) (f : Stack → Stack) : (s.updStack k f).linePoison = s.linePoison := rfl
@[simp] theorem State.updStack_secKey (s : State) (k : Nat) (f : Stack → Stack) : (s.updStack k f).secKey = s.secKey := rfl
@[simp] theorem State.updStack_races (s : State) (k : Nat) (f : Stack → Stack) : (s.updStack k f).races = s.races := rfl
@[simp] theorem State.updStack_nextReq (s : State) (k : Nat) (f : Stack → Stack) : (s.updStack k f).nextReq = s.nextReq := rfl
@[simp] theorem State.updStack_reqs (s : State) (k : Nat) (f : Stack → Stack) : (s.updStack k f).reqs = s.reqs := rfl
@[simp] theorem State.updStack_net (s : State) (k : Nat) (f : Stack → Stack) : (s.updStack k f).net = s.net := rfl
@[simp] theorem State.updStack_rx (s : State) (k : Nat) (f : Stack → Stack) : (s.updStack k f).rx = s.rx := rfl
@[simp] theorem State.updStack_routers (s : State) (k : Nat) (f : Stack → Stack) : (s.updStack k f).routers = s.routers := rfl
@[simp] theorem State.updStack_ctlWait (s : State) (k : Nat) (f : Stack → Stack) : (s.updStack k f).ctlWait = s.ctlWait := rfl
@[simp] theorem State.updStack_txns (s : State) (k : Nat) (f : Stack → Stack) : (s.updStack k f).txns = s.txns := rfl
@[simp] theorem State.updStack_seqs (s : State) (k : Nat) (f : Stack → Stack) : (s.updStack k f).seqs = s.seqs := rfl
@[simp] theorem State.updStack_dups (s : State) (k : Nat) (f : Stack → Stack) : (s.updStack k f).dups = s.dups := rfl
@[simp] theorem State.updStack_windows (s : State) (k : Nat) (f : Stack → Stack) : (s.updStack k f).windows = s.windows := rfl
@[simp] theorem State.updStack_teams (s : State) (k : Nat) (f : Stack → Stack) : (s.updStack k f).teams = s.teams := rfl
@[simp] theorem State.updStack_nodes (s : State) (k : Nat) (f : Stack → Stack) : (s.updStack k f).nodes = s.nodes := rfl
@[simp] theorem State.updStack_transl (s : State) (k : Nat) (f : Stack → Stack) : (s.updStack k f).transl = s.transl := rfl
@[simp] theorem State.updStack_members (s : State) (k : Nat) (f : Stack → Stack) : (s.updStack k f).members = s.members := rfl
@[simp] theorem State.updStack_frames (s : State) (k : Nat) (f : Stack → Stack) : (s.updStack k f).frames = s.frames := rfl
@[simp] theorem State.updStack_nextUid (s : State) (k : Nat) (f : Stack → Stack) : (s.updStack k f).nextUid = s.nextUid := rfl
@[simp] theorem State.updStack_nextOrder (s : State) (k : Nat) (f : Stack → Stack) : (s.updStack k f).nextOrder = s.nextOrder := rfl
@[simp] theorem State.updStack_claims (s : State) (k : Nat) (f : Stack → Stack) : (s.updStack k f).claims = s.claims := rfl
@[simp] theorem State.updStack_queues (s : State) (k : Nat) (f : Stack → Stack) : (s.updStack k f).queues = s.queues := rfl
@[simp] theorem State.updStack_vfs (s : State) (k : Nat) (f : Stack → Stack) : (s.updStack k f).vfs = s.vfs := rfl
@[simp] theorem State.updStack_hyper (s : State) (k : Nat) (f : Stack → Stack) : (s.updStack k f).hyper = s.hyper := rfl
@[simp] theorem State.updStack_modeChg (s : State) (k : Nat) (f : Stack → Stack) : (s.updStack k f).modeChg = s.modeChg := rfl
@[simp] theorem State.updStack_signed (s : State) (k : Nat) (f : Stack → Stack) : (s.updStack k f).signed = s.signed := rfl
@[simp] theorem State.updStack_spdmUp (s : State) (k : Nat) (f : Stack → Stack) : (s.updStack k f).spdmUp = s.spdmUp := rfl
@[simp] theorem State.updStack_tree (s : State) (k : Nat) (f : Stack → Stack) : (s.updStack k f).tree = s.tree := rfl
@[simp] theorem State.updStack_procTrees (s : State) (k : Nat) (f : Stack → Stack) : (s.updStack k f).procTrees = s.procTrees := rfl
@[simp] theorem State.updStack_measured (s : State) (k : Nat) (f : Stack → Stack) : (s.updStack k f).measured = s.measured := rfl
@[simp] theorem State.updCtx_ctx (s : State) (f : Ctx → Ctx) : (s.updCtx f).ctx = f s.ctx := rfl

/-! ### Slots, cores, dies and stacks after an update -/

@[simp] theorem State.core_updCtx (s : State) (f : Ctx → Ctx) (j : Nat) : (s.updCtx f).core j = s.core j := rfl
@[simp] theorem State.die_updCtx (s : State) (f : Ctx → Ctx) (j : Nat) : (s.updCtx f).die j = s.die j := rfl
@[simp] theorem State.stack_updCtx (s : State) (f : Ctx → Ctx) (j : Nat) : (s.updCtx f).stack j = s.stack j := rfl
@[simp] theorem State.core_setSlot (s : State) (k : Nat) (x : Ctx) (j : Nat) : (s.setSlot k x).core j = s.core j := by unfold State.setSlot; split <;> rfl
@[simp] theorem State.die_setSlot (s : State) (k : Nat) (x : Ctx) (j : Nat) : (s.setSlot k x).die j = s.die j := by unfold State.setSlot; split <;> rfl
@[simp] theorem State.stack_setSlot (s : State) (k : Nat) (x : Ctx) (j : Nat) : (s.setSlot k x).stack j = s.stack j := by unfold State.setSlot; split <;> rfl
@[simp] theorem State.core_updSlot (s : State) (k : Nat) (f : Ctx → Ctx) (j : Nat) : (s.updSlot k f).core j = s.core j := by unfold State.updSlot State.setSlot; split <;> rfl
@[simp] theorem State.die_updSlot (s : State) (k : Nat) (f : Ctx → Ctx) (j : Nat) : (s.updSlot k f).die j = s.die j := by unfold State.updSlot State.setSlot; split <;> rfl
@[simp] theorem State.stack_updSlot (s : State) (k : Nat) (f : Ctx → Ctx) (j : Nat) : (s.updSlot k f).stack j = s.stack j := by unfold State.updSlot State.setSlot; split <;> rfl
@[simp] theorem State.core_mapSlots (s : State) (f : Nat → Ctx → Ctx) (j : Nat) : (s.mapSlots f).core j = s.core j := rfl
@[simp] theorem State.die_mapSlots (s : State) (f : Nat → Ctx → Ctx) (j : Nat) : (s.mapSlots f).die j = s.die j := rfl
@[simp] theorem State.stack_mapSlots (s : State) (f : Nat → Ctx → Ctx) (j : Nat) : (s.mapSlots f).stack j = s.stack j := rfl
@[simp] theorem State.slot_setCore (s : State) (n : Nat) (x : Core) (j : Nat) : (s.setCore n x).slot j = s.slot j := rfl
@[simp] theorem State.die_setCore (s : State) (n : Nat) (x : Core) (j : Nat) : (s.setCore n x).die j = s.die j := rfl
@[simp] theorem State.stack_setCore (s : State) (n : Nat) (x : Core) (j : Nat) : (s.setCore n x).stack j = s.stack j := rfl
@[simp] theorem State.slot_setDie (s : State) (d : Nat) (x : Die) (j : Nat) : (s.setDie d x).slot j = s.slot j := rfl
@[simp] theorem State.core_setDie (s : State) (d : Nat) (x : Die) (j : Nat) : (s.setDie d x).core j = s.core j := rfl
@[simp] theorem State.stack_setDie (s : State) (d : Nat) (x : Die) (j : Nat) : (s.setDie d x).stack j = s.stack j := rfl
@[simp] theorem State.slot_updDie (s : State) (d : Nat) (f : Die → Die) (j : Nat) : (s.updDie d f).slot j = s.slot j := rfl
@[simp] theorem State.core_updDie (s : State) (d : Nat) (f : Die → Die) (j : Nat) : (s.updDie d f).core j = s.core j := rfl
@[simp] theorem State.stack_updDie (s : State) (d : Nat) (f : Die → Die) (j : Nat) : (s.updDie d f).stack j = s.stack j := rfl
@[simp] theorem State.slot_setStack (s : State) (k : Nat) (x : Stack) (j : Nat) : (s.setStack k x).slot j = s.slot j := rfl
@[simp] theorem State.core_setStack (s : State) (k : Nat) (x : Stack) (j : Nat) : (s.setStack k x).core j = s.core j := rfl
@[simp] theorem State.die_setStack (s : State) (k : Nat) (x : Stack) (j : Nat) : (s.setStack k x).die j = s.die j := rfl
@[simp] theorem State.slot_updStack (s : State) (k : Nat) (f : Stack → Stack) (j : Nat) : (s.updStack k f).slot j = s.slot j := rfl
@[simp] theorem State.core_updStack (s : State) (k : Nat) (f : Stack → Stack) (j : Nat) : (s.updStack k f).core j = s.core j := rfl
@[simp] theorem State.die_updStack (s : State) (k : Nat) (f : Stack → Stack) (j : Nat) : (s.updStack k f).die j = s.die j := rfl

@[simp] theorem State.slot_cur (s : State) : s.slot s.cur = s.ctx := by simp [State.slot]

@[simp] theorem State.slot_setSlot_same (s : State) (k : Nat) (c : Ctx) : (s.setSlot k c).slot k = c := by
  unfold State.setSlot State.slot
  split
  · simp_all
  · simp_all [tabGet]

theorem State.slot_setSlot_ne (s : State) (k j : Nat) (c : Ctx) (h : j ≠ k) : (s.setSlot k c).slot j = s.slot j := by
  unfold State.setSlot State.slot
  split
  · simp_all
  · simp [tabGet, tabFind_put_ne _ _ _ _ h]

@[simp] theorem State.slot_updSlot_same (s : State) (k : Nat) (f : Ctx → Ctx) : (s.updSlot k f).slot k = f (s.slot k) := by
  simp [State.updSlot]

theorem State.slot_updSlot_ne (s : State) (k j : Nat) (f : Ctx → Ctx) (h : j ≠ k) : (s.updSlot k f).slot j = s.slot j := by
  simp [State.updSlot, State.slot_setSlot_ne _ _ _ _ h]

theorem State.slot_updCtx (s : State) (f : Ctx → Ctx) (j : Nat) :
    (s.updCtx f).slot j = if j = s.cur then f s.ctx else s.slot j := by
  unfold State.slot
  by_cases h : j = s.cur <;> simp [h]

@[simp] theorem State.core_setCore_same (s : State) (n : Nat) (x : Core) : (s.setCore n x).core n = x := by
  simp [State.core, State.setCore, tabGet]

theorem State.core_setCore_ne (s : State) (n j : Nat) (x : Core) (h : j ≠ n) : (s.setCore n x).core j = s.core j := by
  simp [State.core, State.setCore, tabGet, tabFind_put_ne _ _ _ _ h]

theorem State.die_setDie_same (s : State) (d : Nat) (x : Die) (h : d < 8) : (s.setDie d x).die d = x := by
  simp [State.die, State.setDie, h]

theorem State.die_setDie_ne (s : State) (d j : Nat) (x : Die) (h : j ≠ d) : (s.setDie d x).die j = s.die j := by
  simp [State.die, State.setDie, Ne.symm h]

theorem State.die_updDie_same (s : State) (d : Nat) (f : Die → Die) (h : d < 8) : (s.updDie d f).die d = f (s.die d) :=
  State.die_setDie_same s d _ h

theorem State.die_updDie_ne (s : State) (d j : Nat) (f : Die → Die) (h : j ≠ d) : (s.updDie d f).die j = s.die j :=
  State.die_setDie_ne s d j _ h

theorem State.stack_setStack_same (s : State) (k : Nat) (x : Stack) (h : k < 12) : (s.setStack k x).stack k = x := by
  simp [State.stack, State.setStack, h]

theorem State.stack_setStack_ne (s : State) (k j : Nat) (x : Stack) (h : j ≠ k) : (s.setStack k x).stack j = s.stack j := by
  simp [State.stack, State.setStack, Ne.symm h]

theorem State.stack_updStack_same (s : State) (k : Nat) (f : Stack → Stack) (h : k < 12) : (s.updStack k f).stack k = f (s.stack k) :=
  State.stack_setStack_same s k _ h

theorem State.stack_updStack_ne (s : State) (k j : Nat) (f : Stack → Stack) (h : j ≠ k) : (s.updStack k f).stack j = s.stack j :=
  State.stack_setStack_ne s k j _ h

end Sys2Proof.Machine
end

