-- ==== Sys2Proof/Laws/Base.lean ====
section
/-! SUPPORT. Laws/Base.lean: what the operations of BaseDie.lean do to memory: which of them leave every byte, and what a write at a
home leaves. -/

namespace Sys2Proof.Machine

/-! ### Operations that leave memory as it is -/

@[simp] theorem State.touchRow_mem (s : State) (a : Nat) : (s.touchRow a).mem = s.mem := rfl
@[simp] theorem State.touchRow_ctx (s : State) (a : Nat) : (s.touchRow a).ctx = s.ctx := rfl
@[simp] theorem State.touchRow_pkg (s : State) (a : Nat) : (s.touchRow a).pkg = s.pkg := rfl
@[simp] theorem State.dramRead_mem (s : State) (l : Nat) (x : List Nat) : (s.dramRead l x).mem = s.mem := rfl
@[simp] theorem State.mscSense_mem (s : State) (l : Nat) (x : List Nat) : (s.mscSense l x).mem = s.mem := rfl
@[simp] theorem State.dramWrite_mem (s : State) (l : Nat) : (s.dramWrite l).mem = s.mem := rfl

@[simp] theorem State.mscOut_mem (s : State) (l : Nat) (d : Bool) : (s.mscOut l d).mem = s.mem := by
  unfold State.mscOut; cases d <;> rfl

@[simp] theorem State.mscPut_mem (s : State) (l : Nat) (d : Bool) : (s.mscPut l d).mem = s.mem := by
  unfold State.mscPut; dsimp only; split <;> simp

@[simp] theorem State.mscPeek_mem (s : State) (a : Nat) : (s.mscPeek a).mem = s.mem := by
  unfold State.mscPeek; split
  · rfl
  · split <;> simp

@[simp] theorem State.mscWrite_mem (s : State) (l : Nat) (w : Bool) (x : List Nat) : (s.mscWrite l w x).mem = s.mem := by
  unfold State.mscWrite; split <;> simp

@[simp] theorem State.mscStore_mem (s : State) (l : Nat) (b : List Nat) (t : KeyTag) : (s.mscStore l b t).mem = s.mem := by simp [State.mscStore]

/-! Packets to a base die (R259) -/

@[simp] theorem State.bdPump_mem (s : State) (k : Nat) : (s.bdPump k).mem = s.mem := rfl
@[simp] theorem State.bdPump_homeLines (s : State) (k : Nat) : (s.bdPump k).homeLines = s.homeLines := rfl
@[simp] theorem State.bdPump_ctx (s : State) (k : Nat) : (s.bdPump k).ctx = s.ctx := rfl
@[simp] theorem State.bdSend_mem (s : State) (r : BdReq) : (s.bdSend r).mem = s.mem := rfl
@[simp] theorem State.bdSend_homeLines (s : State) (r : BdReq) : (s.bdSend r).homeLines = s.homeLines := rfl
@[simp] theorem State.bdSend_ctx (s : State) (r : BdReq) : (s.bdSend r).ctx = s.ctx := rfl

@[simp] theorem State.mscDrop_mem (s : State) (l : Nat) : (s.mscDrop l).mem = s.mem := by unfold State.mscDrop; split <;> simp

@[simp] theorem State.mscClean_mem (s : State) (l : Nat) : (s.mscClean l).mem = s.mem := by unfold State.mscClean; split <;> simp

@[simp] theorem State.unpoison_mem (s : State) (a n : Nat) : (s.unpoison a n).mem = s.mem := by
  unfold State.unpoison; dsimp only; split
  · rfl
  · split <;> rfl

/-- A read of at most a sector meets those of its first and its last byte. -/
theorem State.poisonedIn_small (s : State) {a n : Nat} (h0 : 0 < n) (h : n ≤ 32) :
    s.poisonedIn a n = (s.poisoned a || s.poisoned (a + n - 1)) := by
  have e : (n + 31) / 32 + 1 = 2 := by omega
  have e0 : min (a + 32 * 0) (a + n - 1) = a := by omega
  have e1 : min (a + 32 * 1) (a + n - 1) = a + n - 1 := by omega
  have r : List.range 2 = [0, 1] := rfl
  simp only [State.poisonedIn, e, r, List.any_cons, List.any_nil, e0, e1, Bool.or_false]

/-- A read of a line without poison meets none. -/
theorem State.poisonedIn_clean (s : State) {a n : Nat} (h0 : 0 < n) (h : ∀ x, a ≤ x → x < a + n → s.poisoned x = false) :
    s.poisonedIn a n = false := by
  simp only [State.poisonedIn, List.any_eq_false, Bool.not_eq_true]
  intro i _
  exact h _ (by omega) (by omega)

@[simp] theorem State.notify_mem (s : State) (k : Nat) : (s.notify k).mem = s.mem := rfl
@[simp] theorem State.loseMonitors_mem (s : State) (l : Nat) : (s.loseMonitors l).mem = s.mem := rfl
@[simp] theorem State.dropCopy_mem (s : State) (d l : Nat) : (s.dropCopy d l).mem = s.mem := rfl

theorem State.dropCopies_mem (s : State) (l : Nat) (ds : List Nat) : (ds.foldl (fun s d => s.dropCopy d l) s).mem = s.mem := by
  induction ds generalizing s with
  | nil => rfl
  | cons d ds ih => exact (ih _).trans (State.dropCopy_mem s d l)

@[simp] theorem State.recall_mem (s : State) (l : Nat) : (s.recall l).mem = s.mem := by
  unfold State.recall; dsimp only; exact State.dropCopies_mem s l _

@[simp] theorem State.lineClean_mem (s : State) (l : Nat) : (s.lineClean l).mem = s.mem := by
  unfold State.lineClean; split
  · dsimp only; split
    · rfl
    · rfl
  · rfl

@[simp] theorem State.lineDrop_mem (s : State) (l : Nat) (b : Bool) : (s.lineDrop l b).mem = s.mem := by
  unfold State.lineDrop; cases b <;> simp

/-- Emptying a way of an L2 writes back at most, and leaves every byte. -/
theorem State.l2Take_mem {s t : State} {d line vf w : Nat} (h : s.l2Take d line vf = some (w, t)) : t.mem = s.mem := by
  unfold State.l2Take at h; dsimp only at h
  split at h
  · cases h; rfl
  · split at h
    · cases h
    · split at h
      · cases h; split <;> simp
      · cases h; rfl

@[simp] theorem State.install_mem (s : State) (l v : Nat) (b : BitVec 20) (o : Nat) : (s.install l v b o).mem = s.mem := by
  unfold State.install; dsimp only; split
  · rfl
  · rename_i h; simpa using State.l2Take_mem h

@[simp] theorem State.putCopy_mem (s : State) (d l v : Nat) (bs : List Byte) : (s.putCopy d l v bs).mem = s.mem := by
  unfold State.putCopy; split
  · rfl
  · rename_i h; simpa using State.l2Take_mem h

/-! ### Operations that change memory -/

/-- A granule zeroed reads as zero; the rest as before (R253). -/
theorem State.zeroGranule_mem (s : State) (g : Nat) (tag : Nat → KeyTag) : (s.zeroGranule g tag).mem = memClear s.mem (g * 4096) 4096 := rfl

/-- The granule of a pending location is zeroed, and nothing else changes in memory (R254). -/
theorem State.scrubDone_mem (s : State) (a : Nat) (t : KeyTag) :
    (s.scrubDone a t).mem = if s.scrubPending a then memClear s.mem (a / 4096 * 4096) 4096 else s.mem := by
  unfold State.scrubDone; split <;> rfl

theorem State.scrubDone_of_not_pending {s : State} {a : Nat} (h : s.scrubPending a = false) (t : KeyTag) : s.scrubDone a t = s := by
  simp [State.scrubDone, h]

/-- A sector that is under a tag already stays as it is. -/
theorem State.settle_of_same {s : State} {k : Nat} {t : KeyTag} (h : tabGet KeyTag.zero s.secKey k = t) : s.settle k t = s := by
  simp [State.settle, h]

theorem wf_settle {s : State} (h : s.MemOk) (k : Nat) (t : KeyTag) : (s.settle k t).MemOk := by
  unfold State.settle; dsimp only; split
  · exact h
  · exact wf_write h _

theorem wf_settleLine {s : State} (h : s.MemOk) (a : Nat) (t : KeyTag) : (s.settleLine a t).MemOk := by
  unfold State.settleLine
  generalize countFrom (lineOf a * 4) 4 = l
  induction l generalizing s with
  | nil => exact h
  | cons k l ih => exact ih (wf_settle h k _)

theorem wf_mscRead {s : State} (h : s.MemOk) (a n : Nat) (t : KeyTag) : (s.mscRead a n t).MemOk := by
  unfold State.mscRead; dsimp only; split
  · exact h
  · split
    · unfold State.MemOk; rw [State.mscPut_mem, State.mscSense_mem]; exact h
    · have h1 : (s.dramRead (lineOf a) (lineSectors (lineOf a))).MemOk := h
      have h2 := wf_settleLine h1 a t
      unfold State.MemOk at h2 ⊢
      rw [State.mscPut_mem, State.updStack_mem]; exact h2

theorem wf_homeFill {s : State} (h : s.MemOk) (a v : Nat) (t : KeyTag) (b : BitVec 20) (o : Nat) : (s.homeFill a v t b o).MemOk := by
  unfold State.homeFill; split
  · exact h
  · split
    · split
      · exact h
      · unfold State.MemOk; rw [State.install_mem]; exact wf_mscRead h _ _ _
    · unfold State.MemOk; rw [State.install_mem]; exact h
    · exact h

theorem wf_zeroGranule {s : State} (h : s.MemOk) (g : Nat) (tag : Nat → KeyTag) : (s.zeroGranule g tag).MemOk := wf_clear h _ _

theorem wf_scrubDone {s : State} (h : s.MemOk) (a : Nat) (t : KeyTag) : (s.scrubDone a t).MemOk := by
  unfold State.MemOk; rw [State.scrubDone_mem]; split
  · exact wf_clear h _ _
  · exact h

/-- Memory after a write at a home: what it meets, and then the bytes written. -/
theorem State.apply_mem (s : State) (a : Nat) (bs : List Byte) (t : KeyTag) (h : bs ≠ []) :
    (s.apply a bs t).mem = memWrite (s.beforeApply a bs.length t).mem ((countFrom a bs.length).zip bs) := by
  unfold State.apply
  rw [if_neg h]
  dsimp only
  generalize s.beforeApply a bs.length t = s2
  generalize (countFrom a bs.length).zip bs = l
  generalize a + bs.length - 1 = last
  cases locKind a <;> (by_cases hl : sectorOf last = sectorOf a <;> simp only [hl, if_true, if_false, State.notify_mem, State.unpoison_mem])

@[simp] theorem State.apply_nil (s : State) (a : Nat) (t : KeyTag) : s.apply a [] t = s := by simp [State.apply]

theorem wf_beforeApply {s : State} (h : s.MemOk) (a n : Nat) (t : KeyTag) : (s.beforeApply a n t).MemOk := by
  unfold State.beforeApply; dsimp only; split
  · exact wf_settle (wf_settle (wf_scrubDone h a t) _ _) _ _
  · exact wf_scrubDone h a t

theorem wf_apply {s : State} (h : s.MemOk) (a : Nat) (bs : List Byte) (t : KeyTag) : (s.apply a bs t).MemOk := by
  by_cases e : bs = []
  · subst e; simpa using h
  · unfold State.MemOk; rw [State.apply_mem _ _ _ _ e]; exact wf_write (wf_beforeApply h _ _ _) _

/-- The bytes written at a home are read back from memory. -/
theorem State.apply_bytes (s : State) (a : Nat) (bs : List Byte) (t : KeyTag) (h : bs ≠ []) :
    memBytes (s.apply a bs t).mem a bs.length = bs := by
  rw [State.apply_mem _ _ _ _ h]; exact memBytes_write _ _ _

/-- A write that no granule waits for, outside DRAM or to a line in its slice, changes no other byte. -/
theorem State.apply_other (s : State) (a x : Nat) (bs : List Byte) (t : KeyTag) (hp : s.scrubPending a = false)
    (hk : locKind a ≠ .dram ∨ (tabFind (lineOf a) s.homeLines).isSome = true) (hx : x < a ∨ a + bs.length ≤ x) :
    memGet (s.apply a bs t).mem x = memGet s.mem x := by
  by_cases h : bs = []
  · subst h; simp
  · have hb : s.beforeApply a bs.length t = s := by
      unfold State.beforeApply; dsimp only; rw [State.scrubDone_of_not_pending hp]
      rcases hk with hk | hk
      · simp [hk]
      · cases hf : tabFind (lineOf a) s.homeLines <;> simp_all
    rw [State.apply_mem _ _ _ _ h, memGet_write_range _ _ _ _ hx, hb]

end Sys2Proof.Machine
end

