-- ==== Sys2Proof/Laws/Buffers.lean ====
section
/-! SUPPORT. Laws/Buffers.lean: what an access reads of the tables where no cache holds anything of them, what a use of a translation changes, and
what a fetch reads and fills. -/

namespace Sys2Proof.Machine

/-! ### Caches of the buffer table (R241, R245) -/

/-- Basecamp reads memory itself. -/
@[simp] theorem State.entryFor_basecamp (s : State) (b : BitVec 20) : s.entryFor .basecamp b = s.entry b := rfl

/-- A list with the repeats that stand side by side taken out has the same members. -/
theorem mem_foldr_once {α : Type} (f : α → Nat) (i : Nat) (l : List α) :
    i ∈ l.foldr (fun c l => let i := f c; if l.head? = some i then l else i :: l) [] ↔ ∃ c ∈ l, f c = i := by
  induction l with
  | nil => simp
  | cons x l ih =>
    simp only [List.foldr_cons, List.mem_cons, exists_eq_or_imp, ← ih]
    split
    · rename_i e
      refine ⟨.inr, fun h => h.elim (fun h => ?_) id⟩
      exact h ▸ List.mem_of_mem_head? e
    · simp [eq_comm]

/-- bufs has every valid entry of the table (R241). -/
theorem State.mem_bufs_of_v {s : State} {b : BitVec 20} (hb : b.toNat < s.btCount) (hv : (s.entry b).v = true) : b ∈ s.bufs := by
  let a := s.btBase + 64 * b.toNat
  by_cases h : ∃ c ∈ s.mem, a ≤ c.1 ∧ c.1 < a + 8
  · obtain ⟨c, hc, h1, h2⟩ := h
    have e1 : s.btBase + 64 * b.toNat ≤ c.1 := h1
    have e2 : c.1 < s.btBase + 64 * b.toNat + 8 := h2
    refine List.mem_map.mpr ⟨b.toNat, (mem_foldr_once (fun c : Host.Cell => (c.1 - s.btBase) / 64) _ _).mpr ⟨c, ?_, ?_⟩, by simp⟩
    · simp only [List.mem_filter, Bool.and_eq_true, decide_eq_true_eq]
      exact ⟨hc, by omega, by omega⟩
    · show (c.1 - s.btBase) / 64 = b.toNat
      omega
  · have z : ∀ x, a ≤ x → x < a + 8 → memGet s.mem x = 0 := by
      intro x h1 h2
      cases e : tabFind x s.mem with
      | none => simp [memGet, tabGet, e]
      | some v => exact absurd ⟨_, mem_of_tabFind e, h1, h2⟩ h
    have d : s.dword a = 0 := by
      have m : memBytes s.mem a 8 = memBytes [] a 8 := memBytes_congr a 8 fun x h1 h2 => by rw [z x h1 h2]; rfl
      have k : memBytes [] a 8 = [0, 0, 0, 0, 0, 0, 0, 0] := rfl
      rw [State.dword, m, k]; rfl
    have e : (s.entry b).d0 = 0 := d
    rw [Entry.v, e] at hv
    simp at hv

/-- Memory ports that hold nothing of a buffer read its entry from memory. -/
theorem State.entryFor_of_no_port {s : State} {who : Reader} {b : BitVec 20} (h : s.portEntry who b = none) : s.entryFor who b = s.entry b := by
  simp [State.entryFor, h]

/-- A core whose extent cache holds nothing of a buffer translates it anew. -/
theorem State.extOf_of_no_extent {s : State} {uid k : Nat} {b : BitVec 20} (hk : s.slotOf uid = some k)
    (h : ∀ x ∈ (s.core (coreKey k)).ext, x.buf ≠ b) (off : Nat) : s.extOf (.member uid) b off = none := by
  simp only [State.extOf, hk, Option.bind_some, List.find?_eq_none]
  intro x hx; simp [h x hx]

/-- A member that is bound nowhere meets no extent cache. -/
theorem State.extOf_of_unbound {s : State} {uid : Nat} (h : s.slotOf uid = none) (b : BitVec 20) (off : Nat) :
    s.extOf (.member uid) b off = none := by simp [State.extOf, h]

/-- What a use of a translation leaves: all but the extent caches of the cores and the entry caches of the dies. -/
def ExtFrame (s t : State) : Prop := t = { s with cores := t.cores, dies := t.dies }

theorem ExtFrame.refl (s : State) : ExtFrame s s := rfl

theorem ExtFrame.trans {a b c : State} (h : ExtFrame a b) (k : ExtFrame b c) : ExtFrame a c := by
  unfold ExtFrame at *; rw [k, h]

theorem State.useExtent_frame (s : State) (k : Nat) (b : BitVec 20) (off : Nat) : ExtFrame s (s.useExtent k b off) := by
  unfold State.useExtent; dsimp only; split
  · rfl
  · split
    · rfl
    · split <;> rfl

theorem State.useParts_frame (s : State) (l : List Part) : ExtFrame s (s.useParts l) := by
  unfold State.useParts
  induction l generalizing s with
  | nil => rfl
  | cons p l ih => exact (State.useExtent_frame s _ _ _).trans (ih _)

/-! ### Monitors alone (R172) -/

/-- What the traffic of lines between caches and stacks leaves of the contexts: all but their monitors. -/
def MonFrame (s t : State) : Prop := t.cur = s.cur ∧ ∀ j, ∃ m, t.slot j = { s.slot j with mon := m }

theorem MonFrame.refl (s : State) : MonFrame s s := ⟨rfl, fun j => ⟨(s.slot j).mon, rfl⟩⟩

theorem MonFrame.trans {a b c : State} (h : MonFrame a b) (k : MonFrame b c) : MonFrame a c := by
  refine ⟨k.1.trans h.1, fun j => ?_⟩
  obtain ⟨m, hm⟩ := h.2 j
  obtain ⟨n, hn⟩ := k.2 j
  exact ⟨n, by rw [hn, hm]⟩

/-- The slots are as they were. -/
theorem MonFrame.of_slots {s t : State} (h0 : t.cur = s.cur) (h1 : t.ctx = s.ctx) (h2 : t.others = s.others) : MonFrame s t :=
  ⟨h0, fun j => ⟨(s.slot j).mon, by unfold State.slot; rw [h0, h1, h2]⟩⟩

theorem MonFrame.of_ext {s t : State} (h : ExtFrame s t) : MonFrame s t := by rw [h]; exact MonFrame.of_slots rfl rfl rfl

theorem MonFrame.foldl {α : Type} {f : State → α → State} (h : ∀ s a, MonFrame s (f s a)) (l : List α) (s : State) : MonFrame s (l.foldl f s) := by
  induction l generalizing s with
  | nil => exact MonFrame.refl s
  | cons a l ih => exact (h s a).trans (ih _)

/-- A slot after a change of every slot. -/
theorem State.slot_mapSlots (s : State) (f : Nat → Ctx → Ctx) (j : Nat) :
    (s.mapSlots f).slot j = if j = s.cur then f s.cur s.ctx else ((tabFind j s.others).map (f j)).getD Ctx.free := by
  unfold State.slot State.mapSlots; dsimp only
  split
  · rfl
  · unfold tabGet; rw [tabFind_map f]

theorem State.loseMonitors_frame (s : State) (line : Nat) : MonFrame s (s.loseMonitors line) := by
  have one : ∀ c : Ctx, ∃ m, (match c.mon.armed with
      | some sec => if sec / 4 = line then { c with mon := { c.mon with armed := none, evicted := true } } else c
      | none => c) = { c with mon := m } := by
    intro c; split
    · split
      · exact ⟨_, rfl⟩
      · exact ⟨c.mon, rfl⟩
    · exact ⟨c.mon, rfl⟩
  refine ⟨rfl, fun j => ?_⟩
  unfold State.loseMonitors
  rw [State.slot_mapSlots]
  split
  · rename_i e; subst e; rw [State.slot_cur]; exact one s.ctx
  · rename_i e
    unfold State.slot; rw [if_neg e]; unfold tabGet
    cases tabFind j s.others with
    | none => exact ⟨Ctx.free.mon, rfl⟩
    | some c => exact one c

theorem State.dropCopy_frame (s : State) (d line : Nat) : MonFrame s (s.dropCopy d line) := MonFrame.of_slots rfl rfl rfl

theorem State.recall_frame (s : State) (line : Nat) : MonFrame s (s.recall line) := by
  have h := MonFrame.foldl (fun s d => State.dropCopy_frame s d line) (List.range 8) s
  unfold State.recall; dsimp only
  generalize (List.range 8).foldl (fun s d => s.dropCopy d line) s = t at h ⊢
  exact h.trans (MonFrame.of_slots rfl rfl rfl)

theorem State.lineClean_frame (s : State) (line : Nat) : MonFrame s (s.lineClean line) := by
  unfold State.lineClean; split
  · dsimp only; split <;> exact MonFrame.of_slots rfl rfl rfl
  · exact MonFrame.refl s

theorem State.lineDrop_frame (s : State) (line : Nat) (keep : Bool) : MonFrame s (s.lineDrop line keep) := by
  unfold State.lineDrop
  refine MonFrame.trans (b := (if keep then s.lineClean line else s).recall line) ?_ ?_
  · cases keep
    · exact State.recall_frame s line
    · exact (State.lineClean_frame s line).trans (State.recall_frame _ line)
  · generalize (if keep then s.lineClean line else s).recall line = t
    refine MonFrame.trans ?_ (State.loseMonitors_frame _ line)
    exact MonFrame.of_slots rfl rfl rfl

theorem State.l2Take_frame {s t : State} {d line vf w : Nat} (h : s.l2Take d line vf = some (w, t)) : MonFrame s t := by
  unfold State.l2Take at h; dsimp only at h
  split at h
  · cases h; exact MonFrame.refl s
  · split at h
    · cases h
    · split at h
      · cases h; split
        · exact State.lineDrop_frame s _ _
        · exact MonFrame.of_slots rfl rfl rfl
      · cases h; exact MonFrame.refl s

theorem State.install_frame (s : State) (l v : Nat) (b : BitVec 20) (o : Nat) : MonFrame s (s.install l v b o) := by
  unfold State.install; dsimp only; split
  · exact MonFrame.refl s
  · rename_i w t h; exact MonFrame.trans (b := t) (State.l2Take_frame h) (MonFrame.of_slots rfl rfl rfl)

theorem State.putCopy_frame (s : State) (d l v : Nat) (bs : List Byte) : MonFrame s (s.putCopy d l v bs) := by
  unfold State.putCopy; split
  · exact MonFrame.refl s
  · rename_i w t h; exact MonFrame.trans (b := t) (State.l2Take_frame h) (MonFrame.of_slots rfl rfl rfl)

theorem State.updStack_frame (s : State) (k : Nat) (f : Stack → Stack) : MonFrame s (s.updStack k f) := MonFrame.of_slots rfl rfl rfl

theorem State.dramWrite_frame (s : State) (l : Nat) : MonFrame s (s.dramWrite l) :=
  ((State.updStack_frame s _ _).trans (State.updStack_frame _ _ _)).trans (State.updStack_frame _ _ _)

theorem State.mscOut_frame (s : State) (l : Nat) (d : Bool) : MonFrame s (s.mscOut l d) := by
  unfold State.mscOut
  cases d
  · exact State.updStack_frame s _ _
  · exact (State.dramWrite_frame s l).trans (State.updStack_frame _ _ _)

theorem State.mscPut_frame (s : State) (l : Nat) (d : Bool) : MonFrame s (s.mscPut l d) := by
  unfold State.mscPut; dsimp only
  have h : MonFrame s (s.updStack (paStack (l * 128)) fun k => { k with msc := (l, d) :: k.msc.filter (·.1 != l) }) := MonFrame.of_slots rfl rfl rfl
  generalize (s.updStack (paStack (l * 128)) fun k => { k with msc := (l, d) :: k.msc.filter (·.1 != l) }) = t at h ⊢
  split
  · exact h.trans (State.mscOut_frame _ _ _)
  · exact h

theorem State.settle_frame (s : State) (k : Nat) (t : KeyTag) : MonFrame s (s.settle k t) := by
  unfold State.settle; dsimp only; split <;> exact MonFrame.of_slots rfl rfl rfl

theorem State.mscRead_frame (s : State) (a n : Nat) (t : KeyTag) : MonFrame s (s.mscRead a n t) := by
  unfold State.mscRead; dsimp only; split
  · exact MonFrame.refl s
  · split
    · refine MonFrame.trans (b := s.mscSense _ _) ?_ (State.mscPut_frame _ _ _)
      exact MonFrame.of_slots rfl rfl rfl
    · refine MonFrame.trans ?_ (State.mscPut_frame _ _ _)
      have h : MonFrame s ((s.dramRead (lineOf a) (lineSectors (lineOf a))).settleLine a t) :=
        MonFrame.trans (b := s.dramRead (lineOf a) (lineSectors (lineOf a))) (MonFrame.of_slots rfl rfl rfl)
          (MonFrame.foldl (fun s k => State.settle_frame s k _) _ _)
      generalize (s.dramRead (lineOf a) (lineSectors (lineOf a))).settleLine a t = u at h ⊢
      exact h.trans (MonFrame.of_slots rfl rfl rfl)

theorem State.homeFill_frame (s : State) (a v : Nat) (t : KeyTag) (b : BitVec 20) (o : Nat) : MonFrame s (s.homeFill a v t b o) := by
  unfold State.homeFill; split
  · exact MonFrame.refl s
  · split
    · split
      · exact MonFrame.refl s
      · exact (State.mscRead_frame s _ _ _).trans (State.install_frame _ _ _ _ _)
    · exact State.install_frame _ _ _ _ _
    · exact MonFrame.refl s

/-! ### Fetch (R320) -/

/-- A core whose instruction cache holds no line of the code at the PC fetches what the code object holds. -/
theorem State.fetch_of_no_line {s : State} (h : s.codeLine (s.ctx.regs.pc / 16) = none) : s.fetch = s.fetchHome := by
  simp [State.fetch, State.fetchHit, h]

theorem State.codeFill_frame (s : State) (e : Entry) (a off : Nat) : MonFrame s (s.codeFill e a off) := by
  unfold State.codeFill; dsimp only; split
  · exact MonFrame.refl s
  · split
    · exact State.homeFill_frame s _ _ _ _ _
    · have h := State.homeFill_frame s a s.ctx.launch.vf (s.byteTag e (capBuf s.ctx.launch.code) a off) (capBuf s.ctx.launch.code) off
      generalize s.homeFill a s.ctx.launch.vf (s.byteTag e (capBuf s.ctx.launch.code) a off) (capBuf s.ctx.launch.code) off = t at h ⊢
      have h2 := h.trans (State.putCopy_frame t (slotDie s.cur) (lineOf a) s.ctx.launch.vf (memBytes t.mem (lineOf a * 128) 128))
      generalize t.putCopy (slotDie s.cur) (lineOf a) s.ctx.launch.vf (memBytes t.mem (lineOf a * 128) 128) = u at h2 ⊢
      exact h2.trans (MonFrame.of_slots rfl rfl rfl)

theorem State.codeFills_frame (s : State) (e : Entry) (off : Nat) (l : List Nat) : MonFrame s (s.codeFills e off l) :=
  MonFrame.foldl (f := fun s (x : Nat × Nat) => s.codeFill e x.1 x.2) (fun s x => State.codeFill_frame s e x.1 x.2) (fetchLines off l) s

theorem State.fetchFill_frame (s : State) : MonFrame s s.fetchFill := by
  unfold State.fetchFill; split
  · exact MonFrame.refl s
  · split
    · exact State.codeFills_frame s _ _ _
    · exact MonFrame.refl s

theorem State.loadLine_frame (s : State) (n : Nat) : MonFrame s (s.loadLine n) := by
  have core : ∀ k c, MonFrame s (s.setCore k c) := fun _ _ => MonFrame.of_slots rfl rfl rfl
  unfold State.loadLine; dsimp only; split
  · rename_i x _
    have h := (core (coreKey s.cur) { s.core (coreKey s.cur) with
      l1i := (x :: (s.core (coreKey s.cur)).l1i.filter fun x => !x.is s.ctx.launch n).take 409 }).trans
      (MonFrame.of_ext (State.useExtent_frame _ s.cur x.buf (x.base + s.ctx.launch.lineStart n)))
    generalize State.useExtent _ s.cur x.buf (x.base + s.ctx.launch.lineStart n) = t at h ⊢
    split
    · exact h.trans (State.codeFills_frame _ _ _ _)
    · exact h
  · exact core _ _

/-- A filled instruction cache changes of a context its monitor at most, which a line loses that makes room. -/
theorem State.fillLine_frame (s : State) (n : Nat) : MonFrame s (s.fillLine n) := by
  unfold State.fillLine; split
  · split
    · exact MonFrame.refl s
    · exact State.loadLine_frame s n
  · split
    · exact State.loadLine_frame s n
    · exact MonFrame.refl s

theorem State.fillCode_frame (s : State) : MonFrame s s.fillCode :=
  ((State.fetchFill_frame s).trans (State.fillLine_frame _ _)).trans (State.fillLine_frame _ _)

end Sys2Proof.Machine
end

