-- ==== Sys2Proof/Laws/Ops.lean ====
section
/-! SUPPORT. Laws/Ops.lean: what the shared operations of Ops.lean do: the issue of a word from its checks to its end. -/

namespace Sys2Proof.Machine

/-- A word that starts goes on to its own meaning, from the context that its commits left. -/
theorem runWord_of_starts {w : Issue} {s : State} {c : Ctx} (h : Starts w s c) (body : State → WR State) :
    runWord w body s = finish w (body { s with ctx := c }) := by
  obtain ⟨hr, hw, hi, ht, ⟨c0, c1, h0, h1, rfl⟩, hc⟩ := h
  simp only [runWord, commitThen, hr, hw, hi, ht, h0, h1, hc]
  simp

/-- A word that has begun, and waits for no answer from a home, goes on at its meaning. -/
theorem runWord_of_waits {w : Issue} {s : State} (hr : s.ctx.runs = true) (hw : s.ctx.wait ≠ .none_)
    (hh : s.ctx.wait.atHome = false) (body : State → WR State) : runWord w body s = finish w (body s) := by
  unfold runWord
  split
  · simp_all
  · split <;> simp_all [Wait.atHome]

/-- A word with a request at a home waits for the answer. -/
theorem runWord_of_remote {w : Issue} {s : State} {e : Nat} {acc : List Byte} {r : Req} (hr : s.ctx.runs = true)
    (hw : s.ctx.wait = .remote e acc r) (body : State → WR State) : runWord w body s = .next s := by
  simp [runWord, hr, hw]

/-- A word whose checks find a cause raises it, with nothing committed (R77, R84). -/
theorem runWord_of_check {w : Issue} {s : State} {x : Cause × Word × Word} (hr : s.ctx.runs = true) (hw : s.ctx.wait = .none_)
    (hi : issueCheck w s.ctx = some x) (body : State → WR State) :
    runWord w body s = .next (s.trapped x.1 x.2.1 x.2.2 s.ctx) := by
  obtain ⟨a, b, d⟩ := x
  simp [runWord, hr, hw, hi, State.trapped, State.updCtx]

/-- A word never refuses, and faults only where the slot of State.cur runs no context. -/
theorem runWord_safe (w : Issue) (body : State → WR State) (s : State) (hr : s.ctx.runs = true) : Safe (runWord w body s) := by
  have hf : ∀ r, Safe (finish w r) := by intro r; cases r <;> exact ⟨_, rfl⟩
  unfold runWord
  split
  · simp_all
  · split
    · split
      · exact ⟨_, rfl⟩
      · exact hf _
    · exact ⟨_, rfl⟩
    · exact hf _

@[simp] theorem finish_done (w : Issue) (s : State) : finish w (.done s) = .next (s.retired w.dst s.ctx) := rfl
@[simp] theorem finish_jump (w : Issue) (s : State) (t : Nat) (p : Bool) : finish w (.jump s t p) = .next (s.jumped w.dst t p s.ctx) := rfl
@[simp] theorem finish_trap (w : Issue) (s : State) (x : Cause) (i0 i1 : Word) :
    finish w (.trap s x i0 i1) = .next (s.trapped x i0 i1 s.ctx) := rfl
@[simp] theorem finish_trapW (w : Issue) (s : State) (x : Cause) :
    finish w (.trapW s x) = .next (s.trapped x (wInfo0 w.word) (wInfo1 w.word x s.ctx.vstart) s.ctx) := rfl
@[simp] theorem finish_stall (w : Issue) (s : State) : finish w (.stall s) = .next s := rfl

/-- What a word that acts on its own context does, once it starts. -/
theorem runWord_done {w : Issue} {s : State} {c : Ctx} (h : Starts w s c) {f : Ctx → WR Ctx} {c1 : Ctx} (hf : f c = .done c1) :
    runWord w (onCtx f) s = .next (s.retired w.dst c1) := by
  rw [runWord_of_starts h]; simp only [onCtx, hf, WR.map, finish_done]; rfl

theorem runWord_jump {w : Issue} {s : State} {c : Ctx} (h : Starts w s c) {f : Ctx → WR Ctx} {c1 : Ctx} {t : Nat} {p : Bool}
    (hf : f c = .jump c1 t p) : runWord w (onCtx f) s = .next (s.jumped w.dst t p c1) := by
  rw [runWord_of_starts h]; simp only [onCtx, hf, WR.map, finish_jump]; rfl

theorem runWord_trap {w : Issue} {s : State} {c : Ctx} (h : Starts w s c) {f : Ctx → WR Ctx} {c1 : Ctx} {x : Cause} {i0 i1 : Word}
    (hf : f c = .trap c1 x i0 i1) : runWord w (onCtx f) s = .next (s.trapped x i0 i1 c1) := by
  rw [runWord_of_starts h]; simp only [onCtx, hf, WR.map, finish_trap]; rfl

theorem runWord_trapW {w : Issue} {s : State} {c : Ctx} (h : Starts w s c) {f : Ctx → WR Ctx} {c1 : Ctx} {x : Cause}
    (hf : f c = .trapW c1 x) :
    runWord w (onCtx f) s = .next (s.trapped x (wInfo0 w.word) (wInfo1 w.word x c1.vstart) c1) := by
  rw [runWord_of_starts h]; simp only [onCtx, hf, WR.map, finish_trapW]; rfl

/-! ### Taking a trap (R315, R317) -/

/-- Taking a trap is one of two: the delivery to a handler, or the task fault. -/
theorem takeTrap_cases (c : Ctx) (cause : Cause) (i0 i1 : Word) :
    (∃ h w, c.trapTarget (c.nestedCause cause) = some (h, w) ∧ c.takeTrap cause i0 i1 = c.deliver (c.nestedCause cause) i0 i1 h w) ∨
    (c.trapTarget (c.nestedCause cause) = none ∧ c.takeTrap cause i0 i1 = c.taskFault (c.nestedCause cause) i0 i1) := by
  unfold Ctx.takeTrap
  cases h : c.trapTarget (c.nestedCause cause) with
  | none => exact .inr ⟨rfl, by simp [h]⟩
  | some x => exact .inl ⟨x.1, x.2, rfl, by simp [h]⟩

/-- Inside a handler every trap is a task fault (R317). -/
theorem takeTrap_in_handler {c : Ctx} (hh : c.regs.handler ≠ .none_) (cause : Cause) (i0 i1 : Word) :
    c.takeTrap cause i0 i1 = c.taskFault (c.nestedCause cause) i0 i1 := by
  have h : c.trapTarget (c.nestedCause cause) = none := by
    unfold Ctx.trapTarget; split
    · contradiction
    · rfl
  simp [Ctx.takeTrap, h]

theorem nestedCause_outside {c : Ctx} (hh : c.regs.handler = .none_) (cause : Cause) : c.nestedCause cause = cause := by
  simp [Ctx.nestedCause, hh]

/-- What both outcomes of a trap leave of a context and write to it. -/
theorem takeTrap_frame (c : Ctx) (cause : Cause) (i0 i1 : Word) : let t := c.takeTrap cause i0 i1
    t.launch = c.launch ∧ t.mon = c.mon ∧ t.halt = c.halt ∧ t.wait = .none_ ∧
    t.regs.csr = { c.regs.csr with
      trapcause := BitVec.ofNat 8 (c.nestedCause cause).code, trappc := BitVec.ofNat 32 c.regs.pc, trapinfo0 := i0, trapinfo1 := i1 } ∧
    t.regs = { c.regs with
      pc := t.regs.pc, csr := t.regs.csr, loops := t.regs.loops, aside := t.regs.aside, handler := t.regs.handler,
      barsyncP := t.regs.barsyncP, hbarP := t.regs.hbarP, asideP := t.regs.asideP } := by
  obtain ⟨h, w, -, e⟩ | ⟨-, e⟩ := takeTrap_cases c cause i0 i1 <;> simp only [e] <;> exact ⟨rfl, rfl, rfl, rfl, rfl, rfl⟩

/-! ### Commits (R42, R43, R80) -/

/-- What a context keeps over a commit: all but its s and v registers, tags, landing slots, VFLAGS, the dirty bits of its
frame, and whether a drain is under way. -/
def Ctx.CommitKept (c t : Ctx) : Prop :=
  t.bind = c.bind ∧ t.launch = c.launch ∧ t.hist = c.hist ∧ t.wait = c.wait ∧ t.out = c.out ∧ t.mon = c.mon ∧ t.halt = c.halt ∧
  t.faultRec = c.faultRec ∧ t.moving = c.moving ∧
  t.regs = { c.regs with
    s := t.regs.s, v := t.regs.v, tags := t.regs.tags, slots := t.regs.slots, dirty := t.regs.dirty,
    csr := { c.regs.csr with vflags := t.regs.csr.vflags }, arr := { c.regs.arr with draining := t.regs.arr.draining } }

theorem Ctx.CommitKept.refl (c : Ctx) : c.CommitKept c := ⟨rfl, rfl, rfl, rfl, rfl, rfl, rfl, rfl, rfl, rfl⟩

theorem Ctx.CommitKept.trans {a b c : Ctx} (h : a.CommitKept b) (k : b.CommitKept c) : a.CommitKept c := by
  obtain ⟨h1, h2, h3, h4, h5, h6, h7, h8, h9, h10⟩ := h
  obtain ⟨k1, k2, k3, k4, k5, k6, k7, k8, k9, k10⟩ := k
  refine ⟨k1.trans h1, k2.trans h2, k3.trans h3, k4.trans h4, k5.trans h5, k6.trans h6, k7.trans h7, k8.trans h8, k9.trans h9, ?_⟩
  rw [k10, h10]

theorem commitKept_setTag (c : Ctx) (n : Nat) (g : Tag) : c.CommitKept (c.setTag n g) := ⟨rfl, rfl, rfl, rfl, rfl, rfl, rfl, rfl, rfl, rfl⟩
theorem commitKept_setV (c : Ctx) (n : Nat) (v : VReg) : c.CommitKept (c.setV n v) := ⟨rfl, rfl, rfl, rfl, rfl, rfl, rfl, rfl, rfl, rfl⟩
theorem commitKept_orFlags (c : Ctx) (f : BitVec 5) : c.CommitKept (c.orFlags f) := ⟨rfl, rfl, rfl, rfl, rfl, rfl, rfl, rfl, rfl, rfl⟩

theorem commitKept_setS (c : Ctx) (n : RegNo) (v : Word) : c.CommitKept (c.setS n v) := by
  unfold Ctx.setS; split
  · exact .refl c
  · exact ⟨rfl, rfl, rfl, rfl, rfl, rfl, rfl, rfl, rfl, rfl⟩

theorem commitKept_commit (c : Ctx) (t : Nat) : c.CommitKept (c.commit t) := by
  unfold Ctx.commit; dsimp only
  split
  · split
    · exact (commitKept_setTag c _ _).trans (commitKept_setV _ _ _)
    · exact (commitKept_setTag c _ _).trans (commitKept_setS _ _ _)
  · exact .refl c

theorem commitKept_land (c : Ctx) (t : Nat) : c.CommitKept (c.land t) := by
  unfold Ctx.land; dsimp only
  split
  · split <;> split <;> exact ⟨rfl, rfl, rfl, rfl, rfl, rfl, rfl, rfl, rfl, rfl⟩
  · exact .refl c

/-- What a word that waits for a drain finds of the context (R125). -/
theorem awaitDrain_cases (c : Ctx) (r n : Nat) : c.awaitDrain r n = c ∨ c.awaitDrain r n = c.endDrain := by
  unfold Ctx.awaitDrain; split
  · split
    · exact .inr rfl
    · exact .inl rfl
  · exact .inl rfl

theorem commitKept_awaitDrain (c : Ctx) (r n : Nat) : c.CommitKept (c.awaitDrain r n) := by
  rcases awaitDrain_cases c r n with h | h <;> rw [h]
  · exact .refl c
  · exact ⟨rfl, rfl, rfl, rfl, rfl, rfl, rfl, rfl, rfl, rfl⟩

theorem commitKept_awaitDrains (c : Ctx) (l : List Nat) : c.CommitKept (c.awaitDrains l) := by
  induction l generalizing c with
  | nil => exact .refl c
  | cons r l ih => exact (commitKept_awaitDrain c r 1).trans (ih (c.awaitDrain r 1))

/-- With no drain under way nothing is waited for. -/
theorem awaitDrains_of_none {c : Ctx} (h : c.regs.arr.draining = none) (l : List Nat) : c.awaitDrains l = c := by
  induction l with
  | nil => rfl
  | cons r l ih =>
    have : c.awaitDrain r 1 = c := by simp [Ctx.awaitDrain, h]
    rw [Ctx.awaitDrains, List.foldl_cons, this]; exact ih

/-- A consumed tag that has not failed changes no more than its commit may. -/
theorem consume_kept {c d : Ctx} {t : Nat} (h : c.consume t = .ok d) : c.CommitKept d := by
  unfold Ctx.consume at h
  split at h
  · cases h; exact .refl c
  · dsimp only at h
    split at h <;> cases h
    · exact .refl c
    · exact (commitKept_land c t).trans (commitKept_commit _ t)
    · exact commitKept_commit c t
    · exact .refl c

/-- A failed tag is emptied, and nothing else changes (R42). -/
theorem consume_failed {c d : Ctx} {t : Nat} {f : TagFail} (h : c.consume t = .failed d f) :
    (c.getTag t).st = .failed f ∧ d = c.setTag t { c.getTag t with st := .empty } := by
  unfold Ctx.consume at h
  split at h
  · cases h
  · dsimp only at h
    split at h <;> cases h
    exact ⟨by assumption, rfl⟩

/-- The context of a word that starts keeps all that commits leave. -/
theorem starts_kept {w : Issue} {s : State} {c : Ctx} (h : Starts w s c) : s.ctx.CommitKept c := by
  obtain ⟨-, -, -, -, ⟨c0, c1, h0, h1, rfl⟩, -⟩ := h
  exact ((consume_kept h0).trans (consume_kept h1)).trans (commitKept_awaitDrains _ _)

/-! ### The end test (R109) -/

/-- The end test changes the PC, the loop stack, VL and STRIP. -/
theorem endTest_frame (n pc : Nat) (c : Ctx) : let t := c.endTest n pc
    t.bind = c.bind ∧ t.launch = c.launch ∧ t.hist = c.hist ∧ t.wait = c.wait ∧ t.mon = c.mon ∧ t.halt = c.halt ∧
    t.regs = { c.regs with
      pc := t.regs.pc, loops := t.regs.loops, csr := { c.regs.csr with vl := t.regs.csr.vl, strip := t.regs.csr.strip } } := by
  induction n generalizing c pc with
  | zero => exact ⟨rfl, rfl, rfl, rfl, rfl, rfl, rfl⟩
  | succ n ih =>
    unfold Ctx.endTest
    split
    · exact ⟨rfl, rfl, rfl, rfl, rfl, rfl, rfl⟩
    · rename_i e l _
      split
      · exact ⟨rfl, rfl, rfl, rfl, rfl, rfl, rfl⟩
      · dsimp only
        generalize (if e.sloop = true then e.rem - e.len else e.rem - 1) = r
        split
        · split <;> exact ⟨rfl, rfl, rfl, rfl, rfl, rfl, rfl⟩
        · obtain ⟨h1, h2, h3, h4, h5, h6, h7⟩ := ih pc ((c.upd fun r => { r with loops := l }).restoreSloop)
          have k : ∀ d : Ctx, d.restoreSloop.bind = d.bind ∧ d.restoreSloop.launch = d.launch ∧ d.restoreSloop.hist = d.hist ∧
              d.restoreSloop.wait = d.wait ∧ d.restoreSloop.mon = d.mon ∧ d.restoreSloop.halt = d.halt ∧
              d.restoreSloop.regs = { d.regs with
                csr := { d.regs.csr with vl := d.restoreSloop.regs.csr.vl, strip := d.restoreSloop.regs.csr.strip } } := by
            intro d; unfold Ctx.restoreSloop; split <;> exact ⟨rfl, rfl, rfl, rfl, rfl, rfl, rfl⟩
          obtain ⟨k1, k2, k3, k4, k5, k6, k7⟩ := k (c.upd fun r => { r with loops := l })
          refine ⟨h1.trans k1, h2.trans k2, h3.trans k3, h4.trans k4, h5.trans k5, h6.trans k6, ?_⟩
          rw [h7, k7]; rfl

/-- The innermost entry does not end at this word: the PC goes on. -/
theorem endTest_elsewhere {n pc : Nat} {c : Ctx} (h : ∀ e l, c.regs.loops = e :: l → e.fin ≠ pc) :
    c.endTest (n + 1) pc = c.upd fun r => { r with pc := pc + 1 } := by
  unfold Ctx.endTest
  split
  · rfl
  · rename_i e l he; rw [if_pos (h e l he)]

/-- Outside every loop a retirement in sequence goes to the next word. -/
theorem endTest_no_loop {n pc : Nat} {c : Ctx} (h : c.regs.loops = []) : c.endTest (n + 1) pc = c.upd fun r => { r with pc := pc + 1 } :=
  endTest_elsewhere (by simp [h])

/-! ### Retirement on the machine -/

@[simp] theorem retired_mem (s : State) (d : RegNo) (c : Ctx) : (s.retired d c).mem = s.mem := rfl
@[simp] theorem jumped_mem (s : State) (d : RegNo) (t : Nat) (p : Bool) (c : Ctx) : (s.jumped d t p c).mem = s.mem := rfl
@[simp] theorem trapped_mem (s : State) (x : Cause) (i0 i1 : Word) (c : Ctx) : (s.trapped x i0 i1 c).mem = s.mem := rfl
@[simp] theorem retired_pkg (s : State) (d : RegNo) (c : Ctx) : (s.retired d c).pkg = s.pkg := rfl
@[simp] theorem jumped_pkg (s : State) (d : RegNo) (t : Nat) (p : Bool) (c : Ctx) : (s.jumped d t p c).pkg = s.pkg := rfl
@[simp] theorem trapped_pkg (s : State) (x : Cause) (i0 i1 : Word) (c : Ctx) : (s.trapped x i0 i1 c).pkg = s.pkg := rfl

theorem onlyCtx_retired (s : State) (d : RegNo) (c : Ctx) : OnlyCtx s (s.retired d c) := rfl
theorem onlyCtx_jumped (s : State) (d : RegNo) (t : Nat) (p : Bool) (c : Ctx) : OnlyCtx s (s.jumped d t p c) := rfl
theorem onlyCtx_trapped (s : State) (x : Cause) (i0 i1 : Word) (c : Ctx) : OnlyCtx s (s.trapped x i0 i1 c) := rfl

/-- Whatever a word's meaning gives, memory is that of the state it gives. -/
theorem finish_mem {w : Issue} {r : WR State} {t : State} (h : finish w r = .next t) :
    ∃ s, (r = .done s ∨ (∃ a b, r = .jump s a b) ∨ (∃ a b d, r = .trap s a b d) ∨ (∃ a, r = .trapW s a) ∨ r = .stall s) ∧
      t.mem = s.mem ∧ t.pkg = s.pkg ∧ t.queues = s.queues ∧ t.dies = s.dies := by
  cases r <;> cases h
  · exact ⟨_, .inl rfl, rfl, rfl, rfl, rfl⟩
  · exact ⟨_, .inr (.inl ⟨_, _, rfl⟩), rfl, rfl, rfl, rfl⟩
  · exact ⟨_, .inr (.inr (.inl ⟨_, _, _, rfl⟩)), rfl, rfl, rfl, rfl⟩
  · exact ⟨_, .inr (.inr (.inr (.inl ⟨_, rfl⟩))), rfl, rfl, rfl, rfl⟩
  · exact ⟨_, .inr (.inr (.inr (.inr rfl))), rfl, rfl, rfl, rfl⟩

end Sys2Proof.Machine
end

