-- ==== Sys2Proof/Tests/Slice0.lean ====
section
/-! SUPPORT. Tests/Slice0.lean: ill-formed terms that the checks of WellFormed refuse, words of the spec and what they decode to, small tests
of single steps with values from the reference entries, and witnesses of the hypotheses of the statements. -/

namespace Sys2Proof.Tests

open Sys2Proof Sys2Proof.Machine

-- One theorem after another: each is a small evaluation by the kernel, and many at once take too much memory.
set_option Elab.async false

/-! ### Ill-formed terms: one for each check -/

def h0 : Hdr := Hdr.zero
def a0 : FmtA := ⟨3, 4, 5, 0, 0, 0⟩
def m0 : FmtM := ⟨5, 1, 0, 0, 0, 0, 0, 0, 0, 0, 0x40⟩
def v0 : FmtV := ⟨3, 1, 2, 0, 0, 0, 0, 0, 0, 0, 0, 0⟩
def x0 : FmtX := ⟨24, 8, 16, 7, 7, 0, 0, 0⟩
def y0 : FmtY := FmtY.zero
def s0 : FmtS := ⟨25, 24, 0, 0, 0, 0, 0, 0, 0, 0⟩

/-- R79: TC1 without TC0, TC1 = TC0, a TA on a plain word, no TA on a producer, a mailbox read without a TA, another read with one. -/
theorem test_wf_header :
    (Instr.add ⟨0, 0, 0, 2⟩ a0).wf = false ∧ (Instr.add ⟨0, 0, 2, 2⟩ a0).wf = false ∧ (Instr.add ⟨0, 1, 0, 0⟩ a0).wf = false ∧
    (Instr.ldD h0 m0).wf = false ∧ (Instr.csrr h0 { y0 with d := 3, imm := 0x20 }).wf = false ∧
    (Instr.csrr ⟨0, 3, 0, 0⟩ { y0 with d := 3, imm := 0x40 }).wf = false ∧ (Instr.nop ⟨1, 0, 0, 0⟩ y0).wf = false ∧
    (Instr.vget ⟨0, 3, 0, 1⟩ ⟨7, 24, 0, 0, 0, 0, 0, 0, 0, 0, 0, 11⟩).wf = false := by decide

/-- R85: register fields that name no register. -/
theorem test_wf_registers :
    (Instr.add h0 { a0 with d := 32 }).wf = false ∧ (Instr.add h0 { a0 with a := 63 }).wf = false ∧
    (Instr.add h0 { a0 with b := 32 }).wf = false ∧ (Instr.sel h0 { a0 with e := 40 }).wf = false ∧
    (Instr.ldD ⟨0, 3, 0, 0⟩ { m0 with c := 16 }).wf = false ∧ (Instr.mop h0 { v0 with va := 8 }).wf = false ∧
    (Instr.vcmp h0 { v0 with vd := 0 }).wf = false ∧ (Instr.vcmp h0 { v0 with vd := 8 }).wf = false ∧
    (Instr.vsel h0 { v0 with vc := 8 }).wf = false ∧ (Instr.vaddVs h0 { v0 with vb := 32 }).wf = false ∧
    (Instr.cadd h0 { y0 with d := 16 }).wf = false ∧ (Instr.jmpR h0 ⟨32, 0, 0, 0, 0, 0⟩).wf = false ∧
    (Instr.loop h0 ⟨32, 0, 0, 0, 5⟩).wf = false ∧ (Instr.li h0 ⟨32, 0, 1⟩).wf = false := by decide

/-- R86, R87, R91: condition codes and unused fields of formats A, B, K and J. -/
theorem test_wf_unused :
    (Instr.add h0 { a0 with e := 1 }).wf = false ∧ (Instr.add h0 { a0 with cond := 1 }).wf = false ∧ (Instr.add h0 { a0 with z := 1 }).wf = false ∧
    (Instr.cmp h0 { a0 with cond := 6 }).wf = false ∧ (Instr.clz h0 a0).wf = false ∧ (Instr.sel h0 { a0 with cond := 1 }).wf = false ∧
    (Instr.addI h0 ⟨3, 4, 1, 0, 0⟩).wf = false ∧ (Instr.cmpI h0 ⟨3, 4, 6, 0, 0⟩).wf = false ∧ (Instr.addI h0 ⟨3, 4, 0, 1, 0⟩).wf = false ∧
    (Instr.shlI h0 ⟨3, 4, 0, 0, 64⟩).wf = false ∧ (Instr.shrI h0 ⟨3, 4, 0, 0, 64⟩).wf = false ∧ (Instr.sarI h0 ⟨3, 4, 0, 0, 64⟩).wf = false ∧
    (Instr.li h0 ⟨3, 1, 0⟩).wf = false ∧ (Instr.lih h0 ⟨3, 0, 0x10000⟩).wf = false ∧
    (Instr.br h0 ⟨1, 2, 1, 0, 0, 5⟩).wf = false ∧ (Instr.br h0 ⟨1, 2, 0, 6, 0, 5⟩).wf = false ∧ (Instr.brI h0 ⟨1, 2, 1, 6, 0, 5⟩).wf = false ∧
    (Instr.brz h0 ⟨1, 2, 0, 0, 0, 5⟩).wf = false ∧ (Instr.jmp h0 ⟨1, 0, 0, 0, 0, 5⟩).wf = false ∧ (Instr.jmpR h0 ⟨1, 0, 0, 0, 0, 5⟩).wf = false ∧
    (Instr.jmp h0 ⟨0, 0, 0, 0, 1, 5⟩).wf = false ∧ (Instr.call h0 ⟨0, 0, 0, 1, 0, 5⟩).wf = false ∧ (Instr.ret h0 ⟨0, 0, 0, 0, 0, 5⟩).wf = false ∧
    (Instr.callR h0 ⟨1, 1, 0, 0, 0, 0⟩).wf = false ∧ (Instr.brnz h0 ⟨1, 0, 1, 0, 0, 5⟩).wf = false := by decide

/-- R91: the loop forms: END 0, IMM on LOOP, a register on LOOP.i, EW 11, the low bits of SLOOP's field, the zero fields. -/
theorem test_wf_loops :
    (Instr.loop h0 ⟨3, 0, 0, 0, 0⟩).wf = false ∧ (Instr.loop h0 ⟨3, 0, 1, 0, 5⟩).wf = false ∧ (Instr.loopI h0 ⟨3, 0, 1, 0, 5⟩).wf = false ∧
    (Instr.sloop h0 ⟨3, 0, 0xC000, 0, 5⟩).wf = false ∧ (Instr.sloop h0 ⟨3, 0, 1, 0, 5⟩).wf = false ∧ (Instr.loop h0 ⟨3, 1, 0, 0, 5⟩).wf = false ∧
    (Instr.loop h0 ⟨3, 0, 0, 1, 5⟩).wf = false := by decide

/-- R50, R92 and the entries: format Y. -/
theorem test_wf_format_y :
    (Instr.halt h0 { y0 with imm := 1 }).wf = false ∧ (Instr.tret h0 { y0 with d := 1 }).wf = false ∧ (Instr.yield h0 { y0 with fn := 1 }).wf = false ∧
    (Instr.trap h0 { y0 with fn := 1 }).wf = false ∧ (Instr.brk h0 { y0 with a := 1 }).wf = false ∧ (Instr.pause h0 { y0 with scope := 1 }).wf = false ∧
    (Instr.csrr h0 { y0 with imm := 0x009 }).wf = false ∧ (Instr.csrw h0 { y0 with imm := 0x1000 }).wf = false ∧
    (Instr.csrs h0 { y0 with imm := 0x073 }).wf = false ∧ (Instr.csrc h0 { y0 with d := 1, imm := 0 }).wf = false ∧
    (Instr.locq h0 { y0 with a := 16 }).wf = false ∧ (Instr.launch h0 { y0 with e := 1 }).wf = false ∧ (Instr.region h0 { y0 with imm := 1 }).wf = false ∧
    (Instr.fence h0 { y0 with fn := 0 }).wf = false ∧ (Instr.fence h0 { y0 with fn := 128 }).wf = false ∧
    (Instr.fence h0 { y0 with fn := 1, scope := 7 }).wf = false ∧ (Instr.monitor h0 { y0 with b := 1 }).wf = false ∧
    (Instr.waitm h0 { y0 with imm := 1 }).wf = false ∧ (Instr.ldcap h0 { y0 with imm := 64 }).wf = false ∧
    (Instr.cderive h0 { y0 with fn := 2 }).wf = false ∧ (Instr.cadd h0 { y0 with imm := 1 }).wf = false ∧ (Instr.caddI h0 { y0 with b := 1 }).wf = false ∧
    (Instr.crestrict h0 { y0 with fn := 32 }).wf = false ∧ (Instr.cread h0 { y0 with imm := 3 }).wf = false ∧ (Instr.cwb h0 { y0 with fn := 2 }).wf = false ∧
    (Instr.vbind h0 { y0 with fn := 0 }).wf = false ∧ (Instr.vbind h0 { y0 with fn := 12 }).wf = false ∧
    (Instr.vbind h0 { y0 with e := 1, fn := 8 }).wf = false ∧ (Instr.vunbind h0 { y0 with fn := 1 }).wf = false ∧
    (Instr.copy h0 { y0 with imm := 4 }).wf = false ∧ (Instr.copyq h0 { y0 with imm := 4 }).wf = false ∧ (Instr.copy h0 { y0 with scope := 7 }).wf = false ∧
    (Instr.barinit h0 { y0 with fn := 4 }).wf = false ∧ (Instr.barrive h0 { y0 with imm := 8 }).wf = false ∧ (Instr.barwait h0 { y0 with fn := 1 }).wf = false ∧
    (Instr.barsync h0 { y0 with b := 1 }).wf = false ∧ (Instr.barquery h0 { y0 with fn := 2 }).wf = false ∧ (Instr.barquery h0 { y0 with scope := 1 }).wf = false ∧
    (Instr.hbar h0 { y0 with fn := 4 }).wf = false ∧ (Instr.hbar h0 { y0 with imm := 1 }).wf = false := by decide

/-- R85, R89 and the entries: format M. -/
theorem test_wf_format_m :
    let p : Hdr := ⟨0, 3, 0, 0⟩
    (Instr.ldD p { m0 with scope := 7, ord := 2 }).wf = false ∧ (Instr.ldD p { m0 with scope := 2 }).wf = false ∧ (Instr.ldD p { m0 with ord := 3 }).wf = false ∧
    (Instr.ldB p { m0 with bel := 1 }).wf = false ∧ (Instr.ldH p { m0 with far := 1 }).wf = false ∧ (Instr.ldW p { m0 with mask := 1 }).wf = false ∧
    (Instr.stB h0 { m0 with ord := 2 }).wf = false ∧ (Instr.stD h0 { m0 with x := 1 }).wf = false ∧ (Instr.stH h0 { m0 with e := 1 }).wf = false ∧
    (Instr.stW h0 { m0 with aop := 1 }).wf = false ∧ (Instr.ldBx p { m0 with x := 0, off := 0 }).wf = false ∧
    (Instr.ldHx p { m0 with x := 1, off := 1 }).wf = false ∧ (Instr.ldWx p { m0 with x := 1, off := 0, ord := 1 }).wf = false ∧
    (Instr.stBx h0 { m0 with x := 0, off := 0 }).wf = false ∧ (Instr.ldDx p { m0 with x := 32, off := 0 }).wf = false ∧
    (Instr.amoW p { m0 with aop := 10 }).wf = false ∧ (Instr.amoD p { m0 with aop := 9 }).wf = false ∧ (Instr.amoD p { m0 with bel := 1 }).wf = false ∧
    (Instr.casW p { m0 with aop := 1 }).wf = false ∧ (Instr.casD p { m0 with x := 32 }).wf = false ∧ (Instr.pref h0 { m0 with d := 2 }).wf = false ∧
    (Instr.vld p { m0 with ord := 1 }).wf = false ∧ (Instr.vldS p { m0 with x := 32 }).wf = false ∧ (Instr.vldb p { m0 with mask := 1 }).wf = false ∧
    (Instr.vst h0 { m0 with x := 1 }).wf = false ∧ (Instr.vstS h0 { m0 with x := 0 }).wf = false ∧ (Instr.vstSStream h0 { m0 with x := 1 }).wf = false ∧
    (Instr.vldx p { m0 with x := 1, off := 1 }).wf = false ∧ (Instr.vstx h0 { m0 with x := 0, off := 0 }).wf = false := by decide

/-- R85, R90 and the entries: format V. -/
theorem test_wf_format_v :
    (Instr.vadd h0 { v0 with vc := 1 }).wf = false ∧ (Instr.vadd h0 { v0 with fn := 1 }).wf = false ∧ (Instr.vadd h0 { v0 with imm := 1 }).wf = false ∧
    (Instr.vand h0 { v0 with rm := 1 }).wf = false ∧ (Instr.vand h0 { v0 with sat := 1 }).wf = false ∧ (Instr.vcmp h0 { v0 with fn := 11 }).wf = false ∧
    (Instr.vcmp h0 { v0 with ftzo := 1 }).wf = false ∧ (Instr.vabs h0 v0).wf = false ∧ (Instr.vcvt h0 { v0 with vb := 0, fn := 0 }).wf = false ∧
    (Instr.vcvt h0 { v0 with vb := 0, fn := 12 }).wf = false ∧ (Instr.vcvt h0 { v0 with vb := 0, fn := 9, mask := 1 }).wf = false ∧
    (Instr.vcvtSr h0 { v0 with vb := 0, fn := 2, rm := 1 }).wf = false ∧ (Instr.vsplat h0 { v0 with va := 0, fn := 9 }).wf = false ∧
    (Instr.vred h0 { v0 with vb := 0, mz := 1 }).wf = false ∧ (Instr.vscan h0 { v0 with vb := 1 }).wf = false ∧ (Instr.vslide h0 { v0 with fn := 2 }).wf = false ∧
    (Instr.vperm h0 { v0 with imm := 1 }).wf = false ∧ (Instr.vget h0 { v0 with mask := 1 }).wf = false ∧ (Instr.vput h0 { v0 with va := 32 }).wf = false ∧
    (Instr.viota h0 { v0 with va := 0, vb := 0, fn := 9 }).wf = false ∧ (Instr.vdot h0 { v0 with sat := 1 }).wf = false ∧ (Instr.mop h0 { v0 with fn := 8 }).wf = false ∧
    (Instr.mpop h0 v0).wf = false ∧ (Instr.vfirst h0 { v0 with vb := 0, va := 8 }).wf = false ∧ (Instr.vsetshape h0 { v0 with va := 0, vb := 0, imm := 4 }).wf = false ∧
    (Instr.vsetl h0 { v0 with vb := 0, imm := 1 }).wf = false ∧ (Instr.vsetlI h0 { v0 with vb := 0 }).wf = false ∧
    (Instr.vtag h0 { v0 with va := 0, vb := 0, fn := 12 }).wf = false ∧ (Instr.vtag h0 { v0 with va := 0, vb := 0, vd := 1, imm := 63 }).wf = false ∧
    (Instr.vclz h0 { v0 with vb := 1 }).wf = false ∧ (Instr.vcompress h0 { v0 with vb := 0, rm := 1 }).wf = false := by decide

/-- R93 and the entries: format X. -/
theorem test_wf_format_x :
    (Instr.modeVec h0 { x0 with vd := 0, va := 0, vb := 0, g := 0, n := 0, msel := 1 }).wf = false ∧
    (Instr.modeWs h0 { x0 with msel := 1 }).wf = false ∧ (Instr.modeRs h0 { x0 with vd := 0, va := 0, vb := 0, g := 0, n := 0, msel := 3 }).wf = false ∧
    (Instr.mma h0 { x0 with fn := 1 }).wf = false ∧ (Instr.mma h0 { x0 with imm := 1 }).wf = false ∧ (Instr.mwld h0 x0).wf = false ∧
    (Instr.mdrain h0 x0).wf = false ∧ (Instr.mzero h0 { x0 with va := 1 }).wf = false ∧
    (Instr.rope h0 ⟨0, 0, 0, 0, 0, 0, 0, 0x00⟩).wf = false ∧ (Instr.rope h0 ⟨0, 0, 0, 0, 0, 0, 0, 0x09⟩).wf = false ∧
    (Instr.rope h0 ⟨0, 0, 0, 0, 0, 0, 0, 0x22⟩).wf = false ∧ (Instr.rope h0 ⟨0, 0, 0, 0, 0, 0, 0, 0x112⟩).wf = false ∧
    (Instr.sfn ⟨0, 3, 0, 0⟩ { s0 with z0 := 1 }).wf = false ∧ (Instr.sfn ⟨0, 3, 0, 0⟩ { s0 with z1 := 1 }).wf = false ∧
    (Instr.sfload h0 { s0 with vd := 0, fid := 15 }).wf = false ∧ (Instr.sfload h0 { s0 with fid := 16 }).wf = false ∧
    (Instr.mstat h0 ⟨32, 0, 0, 0, 0, 0, 0, 0⟩).wf = false ∧ (Instr.mstat h0 ⟨3, 0, 0, 0, 0, 0, 0, 4⟩).wf = false := by decide

/-- Table 4-14: a word whose opcode has another fate; and the units that an event names. -/
theorem test_wf_fates_and_units :
    (Instr.illegalOp 0x20000000000000000000).wf = false ∧ (Instr.emulWindow 0xF0000000000000000000).wf = false ∧
    (Instr.undefOp 0xE0000000000000000000).wf = false ∧ (Instr.tagArrival 2048 1).wf = false ∧ (Instr.tagArrival 0 16).wf = false ∧
    (Instr.arrayPowerGrant 8).wf = false ∧ (Instr.arrayPowerDown 4 64).wf = false ∧ (Instr.arrayPowerDown 0 192).wf = false ∧ (Instr.bdRead 12 0).wf = false ∧
    (Instr.backoffEnd 0 64 0).wf = false ∧ (Instr.backoffEnd 0 0 16).wf = false ∧ (Instr.copySector 0 4).wf = false ∧ (Instr.sqNode 64 0).wf = false ∧
    (Instr.sqtailWrite 0 4 0).wf = false ∧ (Instr.pageInComplete (2 ^ 20) 0).wf = false ∧ (Instr.waysplitWrite 8 0).wf = false ∧
    (Instr.partitionModeChange true [(8, 0)]).wf = false ∧ (Instr.linkStop 0 4 0).wf = false ∧ (Instr.linkGo 0 0 4).wf = false ∧
    (Instr.tableEntryChange 4 [0]).wf = false ∧ (Instr.tableEntryChange (2 ^ 40) [0]).wf = false ∧ (Instr.challenge 8).wf = false ∧
    (Instr.recoverableFault (.dieLink 0 4)).wf = false ∧ (Instr.recoverableFault (.mpQueue 12)).wf = false ∧
    (Instr.registerWrite (.poolb 0 0 3) 0).wf = false ∧ (Instr.registerWrite (.bindRec 2048 0) 0).wf = false ∧
    (Instr.registerWrite (.partlog 0 12) 0).wf = false ∧ (Instr.tdispChangeRequest 64 true (.register .btbase 0)).wf = false := by decide

/-! ### Words written out from the spec's encodings -/

/-- Worked examples of 20 to 24, each as its entry writes it in assembly: control words. -/
theorem test_decode_control :
    decodeTableWord 80 0x04000048000000000000 = some (.jmpR h0 ⟨9, 0, 0, 0, 0, 0⟩) ∧
    decodeTableWord 80 0x0500000000000000000C = some (.call h0 ⟨0, 0, 0, 0, 0, 12⟩) ∧
    decodeTableWord 80 0x0A0000300000FFFFFFFD = some (.brz h0 ⟨6, 0, 0, 0, 0, 0xFFFFFFFD⟩) ∧
    decodeTableWord 80 0x0B0000300000FFFFFFFD = some (.brnz h0 ⟨6, 0, 0, 0, 0, 0xFFFFFFFD⟩) ∧
    decodeTableWord 80 0x0E000018800000000005 = some (.sloop h0 ⟨3, 0, 0x8000, 0, 5⟩) ∧
    decodeTableWord 80 0x0F000000000000000042 = some (.trap h0 ⟨0, 0, 0, 0, 0, 0, 0x42⟩) ∧
    decodeTableWord 80 0x11000000000000000123 = some (.brk h0 ⟨0, 0, 0, 0, 0, 0, 0x123⟩) ∧
    decodeTableWord 80 0x15000001200000000004 = some (.csrs h0 ⟨0, 9, 0, 0, 0, 0, 4⟩) ∧
    decodeTableWord 80 0x17000028200000000040 = some (.locq h0 ⟨5, 1, 0, 0, 0, 0, 0x40⟩) ∧
    decodeTableWord 80 0x19000018000000000000 = some (.region h0 ⟨3, 0, 0, 0, 0, 0, 0⟩) ∧
    decodeTableWord 80 0x1B000000600000000040 = some (.monitor h0 ⟨0, 3, 0, 0, 0, 0, 0x40⟩) ∧
    decodeTableWord 80 0x1C000020000000000000 = some (.waitm h0 ⟨4, 0, 0, 0, 0, 0, 0⟩) ∧
    decodeTableWord 80 0x1D000000000000000064 = some (.pause h0 ⟨0, 0, 0, 0, 0, 0, 100⟩) := by decide +kernel

/-- Scalar words. -/
theorem test_decode_scalar :
    decodeTableWord 80 0x22000018828000000000 = some (.sub h0 ⟨3, 4, 5, 0, 0, 0⟩) ∧
    decodeTableWord 80 0x24000050200000000080 = some (.mulI h0 ⟨10, 1, 0, 0, 128⟩) ∧
    decodeTableWord 80 0x25000018828000000000 = some (.mulh h0 ⟨3, 4, 5, 0, 0, 0⟩) ∧
    decodeTableWord 80 0x26000018828000000000 = some (.div h0 ⟨3, 4, 5, 0, 0, 0⟩) ∧
    decodeTableWord 80 0x27000018828000000000 = some (.rem h0 ⟨3, 4, 5, 0, 0, 0⟩) ∧
    decodeTableWord 80 0x29000038E000000000FF = some (.andI h0 ⟨7, 7, 0, 0, 0xFF⟩) ∧
    decodeTableWord 80 0x2B000038E00000000100 = some (.orI h0 ⟨7, 7, 0, 0, 0x100⟩) ∧
    decodeTableWord 80 0x2D0000188000FFFFFFFF = some (.xorI h0 ⟨3, 4, 0, 0, 0xFFFFFFFF⟩) ∧
    decodeTableWord 80 0x3500001884000000000A = some (.cmpI h0 ⟨3, 4, 2, 0, 10⟩) ∧
    decodeTableWord 80 0x36000018828C00000000 = some (.sel h0 ⟨3, 4, 5, 6, 0, 0⟩) ∧
    decodeTableWord 80 0x39000018800000000000 = some (.clz h0 ⟨3, 4, 0, 0, 0, 0⟩) ∧
    decodeTableWord 80 0x3A000018800000000000 = some (.popc h0 ⟨3, 4, 0, 0, 0, 0⟩) := by decide +kernel

/-- Memory, capability, copy and barrier words. -/
theorem test_decode_memory :
    decodeTableWord 80 0x53040020430E00000010 = some (.casD ⟨0, 2, 0, 0⟩ ⟨4, 2, 6, 7, 0, 0, 0, 0, 0, 0, 16⟩) ∧
    decodeTableWord 80 0x55000028441200000000 = some (.cderive h0 ⟨5, 2, 8, 9, 0, 0, 0⟩) ∧
    decodeTableWord 80 0x57000010400000000040 = some (.caddI h0 ⟨2, 2, 0, 0, 0, 0, 0x40⟩) ∧
    decodeTableWord 80 0x58000018600000800000 = some (.crestrict h0 ⟨3, 3, 0, 0, 0, 8, 0⟩) ∧
    decodeTableWord 80 0x59000020400000000001 = some (.cread h0 ⟨4, 2, 0, 0, 0, 0, 1⟩) ∧
    decodeTableWord 80 0x5A000000200000100080 = some (.cwb h0 ⟨0, 1, 0, 0, 0, 1, 0x80⟩) ∧
    decodeTableWord 80 0x5B000008200000000100 = some (.pref h0 ⟨1, 1, 0, 0, 0, 0, 0, 0, 0, 0, 0x100⟩) ∧
    decodeTableWord 80 0x62060028800000000040 = some (.vldb ⟨0, 3, 0, 0⟩ ⟨5, 4, 0, 0, 0, 0, 0, 0, 0, 0, 0x40⟩) ∧
    decodeTableWord 80 0x64000028800000000040 = some (.vstSStream h0 ⟨5, 4, 0, 0, 0, 0, 0, 0, 0, 0, 0x40⟩) ∧
    decodeTableWord 80 0x67000008838400A00040 = some (.vbind h0 ⟨1, 4, 7, 2, 0, 10, 0x40⟩) ∧
    decodeTableWord 80 0x68000038800000000040 = some (.vunbind h0 ⟨7, 4, 0, 0, 0, 0, 0x40⟩) ∧
    decodeTableWord 80 0x69000000A00080000000 = some (.copy h0 ⟨0, 5, 0, 0, 2, 0, 0⟩) ∧
    decodeTableWord 80 0x6A000038000000000002 = some (.copyq h0 ⟨7, 0, 0, 0, 0, 0, 2⟩) ∧
    decodeTableWord 80 0x70000060000100100000 = some (.hbar h0 ⟨12, 0, 0, 0, 4, 1, 0⟩) := by decide +kernel

/-- Vector words. -/
theorem test_decode_vector :
    decodeTableWord 80 0xA0000010218000200000 = some (.vcmp h0 ⟨2, 1, 3, 0, 0, 0, 0, 0, 0, 0, 2, 0⟩) ∧
    decodeTableWord 80 0xA4000038A30400000000 = some (.vsel h0 ⟨7, 5, 6, 2, 0, 0, 0, 0, 0, 0, 0, 0⟩) ∧
    decodeTableWord 80 0xA800A0D3200000200000 = some (.vcvt ⟨0, 0, 5, 0⟩ ⟨26, 25, 0, 0, 0, 0, 0, 0, 0, 0, 2, 0⟩) ∧
    decodeTableWord 80 0xAA000018028000100000 = some (.vsplat h0 ⟨3, 0, 5, 0, 0, 0, 0, 0, 0, 0, 1, 0⟩) ∧
    decodeTableWord 80 0xAB0060D3200000000000 = some (.vred ⟨0, 0, 3, 0⟩ ⟨26, 25, 0, 0, 0, 0, 0, 0, 0, 0, 0, 0⟩) ∧
    decodeTableWord 80 0xAE000028830000000000 = some (.vperm h0 ⟨5, 4, 6, 0, 0, 0, 0, 0, 0, 0, 0, 0⟩) ∧
    decodeTableWord 80 0xAF06003B00000000000B = some (.vget ⟨0, 3, 0, 0⟩ ⟨7, 24, 0, 0, 0, 0, 0, 0, 0, 0, 0, 11⟩) ∧
    decodeTableWord 80 0xB0000018A00000000007 = some (.vput h0 ⟨3, 5, 0, 0, 0, 0, 0, 0, 0, 0, 0, 7⟩) ∧
    decodeTableWord 80 0xB1000018000000800064 = some (.viota h0 ⟨3, 0, 0, 0, 0, 0, 0, 0, 0, 0, 8, 100⟩) ∧
    decodeTableWord 80 0xB2000049080000000010 = some (.vdot h0 ⟨9, 8, 16, 0, 0, 0, 0, 0, 0, 0, 0, 16⟩) ∧
    decodeTableWord 80 0xB3000018210000300000 = some (.mop h0 ⟨3, 1, 2, 0, 0, 0, 0, 0, 0, 0, 3, 0⟩) ∧
    decodeTableWord 80 0xB4000028400000000000 = some (.mpop h0 ⟨5, 2, 0, 0, 0, 0, 0, 0, 0, 0, 0, 0⟩) ∧
    decodeTableWord 80 0xB5000030600000000000 = some (.vfirst h0 ⟨6, 3, 0, 0, 0, 0, 0, 0, 0, 0, 0, 0⟩) ∧
    decodeTableWord 80 0xB7000048800000000000 = some (.vsetl h0 ⟨9, 4, 0, 0, 0, 0, 0, 0, 0, 0, 0, 0⟩) ∧
    decodeTableWord 80 0xB8000048000000000080 = some (.vsetlI h0 ⟨9, 0, 0, 0, 0, 0, 0, 0, 0, 0, 0, 128⟩) := by decide +kernel

/-- Matrix and SFN words. -/
theorem test_decode_matrix :
    decodeTableWord 80 0xC1000018210208000000 = some (.mma h0 ⟨3, 1, 2, 1, 1, 0, 0, 0⟩) ∧
    decodeTableWord 80 0xC2000000081E38000000 = some (.mwld h0 ⟨0, 0, 16, 15, 7, 0, 0, 0⟩) ∧
    decodeTableWord 80 0xC30000C0000E38000000 = some (.mdrain h0 ⟨24, 0, 0, 7, 7, 0, 0, 0⟩) ∧
    decodeTableWord 80 0xC40000C0000E38000000 = some (.mzero h0 ⟨24, 0, 0, 7, 7, 0, 0, 0⟩) ∧
    decodeTableWord 80 0xC5000000000000000012 = some (.rope h0 ⟨0, 0, 0, 0, 0, 0, 0, 0x12⟩) ∧
    decodeTableWord 80 0xC60600CB000000000000 = some (.sfn ⟨0, 3, 0, 0⟩ ⟨25, 24, 0, 0, 0, 0, 0, 0, 0, 0⟩) ∧
    decodeTableWord 80 0xC7000000800001400000 = some (.sfload h0 ⟨0, 4, 0, 0, 0, 0, 0, 0, 20, 0⟩) ∧
    decodeTableWord 80 0xC8000038000000000002 = some (.mstat h0 ⟨7, 0, 0, 0, 0, 0, 0, 2⟩) := by decide +kernel

/-- Table 4-14: values of unassigned opcodes, and words of assigned ones that are not legal: an unused field set, a TA on a plain word. -/
theorem test_decode_fates :
    decodeTableWord 80 0xFF000000000000000000 = some (.illegalOp 0xFF000000000000000000) ∧
    decodeTableWord 80 0xE0000000000000000000 = some (.emulWindow 0xE0000000000000000000) ∧
    decodeTableWord 80 0x1F000000000000000000 = some (.undefOp 0x1F000000000000000000) ∧
    decodeTableWord 80 0x22000018828000000001 = none ∧ decodeTableWord 80 0x22020018828000000000 = none := by decide +kernel

/-! ### A small machine: the terms of the witnesses -/

/-- An instruction or event gives a next state. -/
def nexts (i : Instr) (s : State) : Bool := match exec i s with | .next _ => true | _ => false

theorem ends_of_nexts {i : Instr} {s : State} (h : nexts i s = true) : ∃ t, exec i s = .next t := by
  unfold nexts at h; split at h
  · exact ⟨_, ‹_›⟩
  · exact absurd h (by decide)

/-- A word that consumes no tag starts on a machine. -/
def startsB (w : Issue) (s : State) : Bool :=
  s.ctx.runs && decide (s.ctx.wait = .none_) && (issueCheck w s.ctx).isNone && decide (w.hdr.tc0 = 0) && decide (w.hdr.tc1 = 0) &&
  !s.ctx.waitsTags w.hdr && s.ctx.regs.arr.draining.isNone &&
  decide (classCheck w.cls s.ctx.regs.arr.mode (s.slot (slotMate s.cur)).regs.arr.mode = .allow)

theorem no_drain {c : Ctx} (h : c.regs.arr.draining = none) (l : List Nat) : c.awaitDrains l = c := by
  induction l with
  | nil => rfl
  | cons r l ih => rw [show c.awaitDrains (r :: l) = (c.awaitDrain r 1).awaitDrains l from rfl,
      show c.awaitDrain r 1 = c by simp [Ctx.awaitDrain, h], ih]

theorem starts_of {w : Issue} {s : State} (h : startsB w s = true) : Starts w s s.ctx := by
  simp only [startsB, Bool.and_eq_true, decide_eq_true_eq, Option.isNone_iff_eq_none, Bool.not_eq_true'] at h
  obtain ⟨⟨⟨⟨⟨⟨⟨h1, h2⟩, h3⟩, h4⟩, h5⟩, h6⟩, h7⟩, h8⟩ := h
  exact ⟨h1, h2, h3, h6, ⟨s.ctx, s.ctx, by simp [h4, Ctx.consume], by simp [h5, Ctx.consume], (no_drain h7 _).symm⟩, h8⟩

/-- A machine whose slot 0 runs a context of eight words: buffer 0 is one global page of DRAM, buffer 1 a scratch buffer; c1 is the
whole scratchpad and c2 the page, both with every right and D = 1; c3 is a read-only window without D; c4 is not valid. -/
def base : State :=
  let s := State.reset.withTiny
  { s with
    mem := memWrite s.mem (dwordCells (tinyTable + 64) 0x900F000000010000), pkg := { s.pkg with btcount := 2 }, routers := [],
    ctx := { ((((s.ctx.setC 1 ⟨mkCap 1 15 true true 0 0x10000, true⟩).setC 2 ⟨mkCap 0 15 true false 0 0x10000, true⟩).setC 3
        ⟨mkCap 0 8 false false 0x40 0x40, true⟩).setS 3 0x1122334455667788).setS 4 7 with
      launch := { s.ctx.launch with nativeLen := 8, captab := [mkCap 0 15 true false 0 0x10000, mkCap 1 15 true true 0 0x10000] } } }

/-- base with its context, or its registers, changed. -/
def baseC (f : Ctx → Ctx) : State := base.updCtx f
def baseR (f : Regs → Regs) : State := base.updCtx fun c => c.upd f

/-! ### Witnesses: words, reset, steps -/

theorem ok_of {α β : Type} {x : Except α β} {y : β} (h : x.toOption = some y) : x = .ok y := by
  cases x with
  | error e => exact absurd h (by simp [Except.toOption])
  | ok z => simpa [Except.toOption] using h

theorem test_witness_encode_decode : decodeWord 0x20000018828000000000 = .ok (.add h0 a0) := ok_of (by decide +kernel)

theorem test_witness_decode_encode :
    (Instr.add h0 a0).isWord = true ∧ (Instr.add h0 a0).wf = true ∧ encode (.add h0 a0) = some 0x20000018828000000000 ∧
    (Instr.li ⟨7, 0, 0, 0⟩ ⟨31, 0, 0xFFFFFFFFFFFF⟩).wf = true ∧
    encode (.li ⟨7, 0, 0, 0⟩ ⟨31, 0, 0xFFFFFFFFFFFF⟩) = some 0x37E000F8FFFFFFFFFFFF := by decide +kernel

theorem test_witness_fates :
    (∀ op ∈ [0x00, 0xF0, 0xFF], ((BitVec.ofNat 80 (op * 2 ^ 72)).extractLsb' 72 8).toNat = op) ∧
    (∀ op ∈ [0xE0, 0xEF], ((BitVec.ofNat 80 (op * 2 ^ 72)).extractLsb' 72 8).toNat = op) ∧
    (∀ op ∈ [0x1E, 0x1F, 0x3F, 0x5C, 0x5F, 0x71, 0x7F, 0xBE, 0xBF, 0xC9, 0xDF],
      ((BitVec.ofNat 80 (op * 2 ^ 72)).extractLsb' 72 8).toNat = op) ∧
    decodeWord 0x430000486000B8000040 = .error .illegalEnc := by
  refine ⟨by decide +kernel, by decide +kernel, by decide +kernel, rfl⟩

theorem test_witness_step_mem : State.reset.MemOk ∧ ∃ t, step State.reset = .next t := ⟨by unfold State.MemOk; decide +kernel, _, rfl⟩

/-- A NOP at the PC of slot 0. -/
def stepping : State := base.withFetchWord 80 0x01000000000000000000

theorem test_witness_step_runs :
    stepping.pkg.frozen = false ∧ stepping.freezeDue = false ∧ stepping.agenda = [.issue 0] ∧
    let u := ({ stepping with agenda := [] } : State).focus 0
    u.ctx.runs = true ∧ u.ctx.wdDue = false ∧ u.fetchPoison = none ∧ u.fetchHeld = false ∧ u.fetch = .ok 0x01000000000000000000 ∧
    decodeWord 0x01000000000000000000 = .ok (.nop h0 y0) ∧ (∃ t, exec (.nop h0 y0) u.fillCode = .next t) ∧
    u.codeLine (u.ctx.regs.pc / 16 + 1) = none ∧ u.readLine (u.ctx.regs.pc / 16 + 1) = none :=
  ⟨by decide +kernel, by decide +kernel, by decide +kernel, by decide +kernel, by decide +kernel, by decide +kernel, by decide +kernel,
    ok_of (by decide +kernel), ok_of (by decide +kernel), ends_of_nexts (by decide +kernel), by decide +kernel, by decide +kernel⟩

theorem test_witness_words_keep : (Instr.stD h0 { m0 with c := 1, d := 3 }).isWord = true ∧ nexts (.stD h0 { m0 with c := 1, d := 3 }) base = true := by
  decide +kernel

theorem test_witness_hard_wired :
    (∀ n ∈ [(1 : RegNo), 31], n ≠ 0 ∧ n.toNat < 32) ∧ (Instr.vcmp h0 { v0 with vd := 1 }).wf = true ∧
    (Instr.vcmpVs h0 { v0 with vd := 7 }).wf = true ∧ (Instr.mop h0 { v0 with vd := 1 }).wf = true := by decide

/-! ### Witnesses: retirement and traps -/

/-- Loop entries: of a LOOP and of an SLOOP. -/
def lp (start fin rem : Nat) : LoopEnt := ⟨false, start, fin, rem, 0, 0, 0⟩
def slp (start fin rem vlmax len strip : Nat) : LoopEnt := ⟨true, start, fin, rem, vlmax, len, strip⟩

theorem test_witness_retirement : base.ctx.regs.loops.all (fun e => !e.sloop) = true ∧
    (baseR fun r => { r with loops := [lp 1 4 2] }).ctx.regs.loops.all (fun e => !e.sloop) = true := by decide +kernel

/-- Each case of the end test at word 4: no entry, an entry that ends elsewhere, a last and a further iteration, an inner SLOOP and
a SLOOP below a finished LOOP. -/
theorem test_witness_loop_end :
    let at_ := fun l => (baseR fun r => { r with loops := l }).ctx.regs.loops
    (at_ []).length ≤ 4 ∧ (∀ e ∈ at_ [lp 1 5 2], e.fin ≠ 4) ∧
    (at_ [lp 1 4 2] = [lp 1 4 2] ∧ (lp 1 4 2).fin = 4 ∧ (lp 1 4 2).sloop = false ∧ 0 < (lp 1 4 2).rem - 1) ∧
    (at_ [slp 1 4 9 8 8 0] = [slp 1 4 9 8 8 0] ∧ (slp 1 4 9 8 8 0).sloop = true ∧ 0 < (slp 1 4 9 8 8 0).rem - (slp 1 4 9 8 8 0).len) ∧
    (at_ [lp 1 4 1, lp 0 6 2] = [lp 1 4 1, lp 0 6 2] ∧ (lp 1 4 1).rem - 1 = 0 ∧ (∀ x ∈ [lp 0 6 2], x.sloop = false)) ∧
    (at_ [slp 1 4 8 8 8 0, lp 0 5 2, slp 0 6 9 8 8 1] = [slp 1 4 8 8 8 0] ++ [lp 0 5 2] ++ [slp 0 6 9 8 8 1] ∧
      (slp 1 4 8 8 8 0).rem - (slp 1 4 8 8 8 0).len = 0 ∧ (∀ y ∈ [lp 0 5 2], y.sloop = false) ∧ (slp 0 6 9 8 8 1).sloop = true) := by
  decide +kernel

/-- s[4] was written one word ago, s[5] seven words ago. -/
def written : State := baseC fun c => { c with hist := [some 4, none, none, none, none, none, some 5] }

theorem test_witness_producer_distance :
    written.ctx.runs = true ∧ written.ctx.wait = .none_ ∧ tagCheck written.ctx h0 = none ∧ tagCheck written.ctx ⟨7, 0, 0, 0⟩ = none ∧
    (4 ∈ (issueA 0x20 h0 a0).reads ∧ written.ctx.hist[0]? = some (some 4) ∧ (issueA 0x20 h0 a0).hdr.pd.toNat < 0 + 1) ∧
    (5 ∈ (issueA 0x20 ⟨6, 0, 0, 0⟩ a0).reads ∧ written.ctx.hist[6]? = some (some 5) ∧ (∀ j, j < 6 → written.ctx.hist[j]? ≠ some (some 5)) ∧
      (issueA 0x20 ⟨6, 0, 0, 0⟩ a0).hdr.pd.toNat < 6 + 1) ∧
    (∀ r ∈ (issueA 0x20 ⟨7, 0, 0, 0⟩ a0).reads, r ≠ 0 → ∀ i, i < 7 → written.ctx.hist[i]? = some (some r) → i + 1 ≤ 7) := by
  decide +kernel

/-- A context with both handlers and a policy that has every cause trap. -/
def handled : State := baseC fun c => { c with launch := { c.launch with emulBase := some 3, trapBase := some 5, policy := BitVec.allOnes 64 } }

theorem test_witness_trap_delivery :
    handled.ctx.regs.handler = .none_ ∧ base.ctx.regs.handler = .none_ ∧
    handled.ctx.launch.emulBase = some 3 ∧ base.ctx.launch.emulBase = none ∧ handled.ctx.launch.trapBase = some 5 ∧
    handled.ctx.launch.policy.getLsbD Cause.brk.code = true ∧ base.ctx.launch.trapBase = none ∧
    (baseC fun c => { c with launch := { c.launch with trapBase := some 5 } }).ctx.launch.policy.getLsbD Cause.brk.code = false := by
  decide +kernel

/-- Inside a handler. -/
def inHandler (h : Handler) : State := baseR fun r => { r with handler := h, csr := { r.csr with trappc := 3 }, aside := [lp 2 6 4] }

theorem test_witness_nested_traps : (inHandler .trap).ctx.regs.handler ≠ .none_ ∧ (inHandler .emulation).ctx.regs.handler ≠ .none_ := by
  decide +kernel

theorem test_witness_trap_return :
    (Instr.tret h0 y0).wf = true ∧ Starts (issueY 0x10 h0 y0 [] 0) (inHandler .trap) (inHandler .trap).ctx ∧
    (inHandler .trap).ctx.regs.handler ≠ .none_ ∧
    (let s := baseR fun r => { r with handler := .trap, csr := { r.csr with trappc := 8 } }
     Starts (issueY 0x10 h0 y0 [] 0) s s.ctx ∧ s.ctx.regs.handler ≠ .none_ ∧ s.ctx.launch.nativeLen ≤ s.ctx.regs.csr.trappc.toNat) ∧
    (Starts (issueY 0x10 h0 y0 [] 0) base base.ctx ∧ base.ctx.regs.handler = .none_) :=
  ⟨by decide, starts_of (by decide +kernel), by decide +kernel, ⟨starts_of (by decide +kernel), by decide +kernel, by decide +kernel⟩,
    starts_of (by decide +kernel), by decide +kernel⟩

/-! ### Witnesses: scalar words, transfers and loops -/

theorem test_witness_scalar_register : ∀ opN ∈ [0x20, 0x22, 0x23, 0x25, 0x26, 0x27, 0x28, 0x2A, 0x2C, 0x2E, 0x30, 0x32, 0x3B, 0x3C,
    0x3D, 0x3E, 0x39, 0x3A], let op := BitVec.ofNat 8 opN; Starts (issueA op h0 a0) base base.ctx := by
  intro op h; apply starts_of; revert op; decide +kernel

theorem test_witness_scalar_immediate :
    (∀ opN ∈ [0x21, 0x24, 0x29, 0x2B, 0x2D, 0x2F, 0x31, 0x33], let op := BitVec.ofNat 8 opN; Starts (issueB op h0 ⟨3, 4, 0, 0, 0xFFFFFFFF⟩) base base.ctx) ∧
    Starts (issueK 0x37 h0 ⟨3, 0, 0x800000000000⟩) base base.ctx ∧ Starts (issueK 0x38 h0 ⟨3, 0, 0xFFFF⟩) base base.ctx :=
  ⟨by intro op h; apply starts_of; revert op; decide +kernel, starts_of (by decide +kernel), starts_of (by decide +kernel)⟩

theorem test_witness_compare :
    (∀ condN ∈ [0, 1, 2, 3, 4, 5], let cond := BitVec.ofNat 4 condN; Starts (issueA 0x34 h0 { a0 with cond := cond }) base base.ctx ∧ cond.toNat ≤ 5) ∧
    (∀ condN ∈ [0, 1, 2, 3, 4, 5], let cond := BitVec.ofNat 4 condN; Starts (issueB 0x35 h0 ⟨3, 4, cond, 0, 7⟩) base base.ctx ∧ cond.toNat ≤ 5) ∧
    (Instr.cmp h0 { a0 with cond := 5 }).wf = true ∧ (Instr.cmpI h0 ⟨3, 4, 5, 0, 7⟩).wf = true := by
  refine ⟨fun c h => ⟨starts_of ?_, ?_⟩, fun c h => ⟨starts_of ?_, ?_⟩, by decide, by decide⟩ <;> revert c <;> decide +kernel

theorem test_witness_select :
    (Instr.sel h0 { a0 with e := 3 }).wf = true ∧
    (Starts (issueA 0x36 h0 { a0 with e := 3 }) base base.ctx ∧ base.ctx.getS 3 ≠ 0) ∧
    (Starts (issueA 0x36 h0 { a0 with e := 0 }) base base.ctx ∧ base.ctx.getS 0 = 0) :=
  ⟨by decide, ⟨starts_of (by decide +kernel), by decide +kernel⟩, starts_of (by decide +kernel), by decide +kernel⟩

theorem test_witness_scalar_frame :
    scalarDst (.add h0 a0) = some (h0, 3) ∧ base.ctx.wait = .none_ ∧ nexts (.add h0 a0) base = true := by decide +kernel

/-- s[4] names word 7, s[5] is negative as an offset, s31 is the last word, s[6] the first one past the code. -/
def targets : State := baseC fun c => ((c.setS 5 0xFFFFFFFF).setS 31 7).setS 6 8

/-- Each transfer with the last word of the code as its target, with the first word past it, and with a target before it. -/
theorem test_witness_transfers :
    let st := fun (w : Issue) => startsB w targets = true
    let end_ := targets.ctx.launch.nativeLen
    (st (issueJ 0x03 h0 ⟨0, 0, 0, 0, 0, 7⟩ [] 0) ∧ (targets.ctx.regs.pc : Int) + (7 : BitVec 32).toInt = (7 : Nat) ∧ 7 < end_) ∧
    (st (issueJ 0x05 h0 ⟨0, 0, 0, 0, 0, 8⟩ [] 31) ∧ (end_ : Int) ≤ targets.ctx.regs.pc + (8 : BitVec 32).toInt) ∧
    (st (issueJ 0x03 h0 ⟨0, 0, 0, 0, 0, 0xFFFFFFFF⟩ [] 0) ∧ (targets.ctx.regs.pc : Int) + (0xFFFFFFFF : BitVec 32).toInt < 0) ∧
    (st (issueJ 0x04 h0 ⟨4, 0, 0, 0, 0, 0⟩ [4] 0) ∧ (targets.ctx.getS 4).toNat % 2 ^ 32 < end_) ∧
    (st (issueJ 0x06 h0 ⟨6, 0, 0, 0, 0, 0⟩ [6] 31) ∧ end_ ≤ (targets.ctx.getS 6).toNat % 2 ^ 32) ∧
    (st (issueJ 0x07 h0 ⟨31, 0, 0, 0, 0, 0⟩ [31] 0) ∧ (targets.ctx.getS 31).toNat % 2 ^ 32 < end_) ∧
    (∀ condN ∈ [0, 1, 2, 3, 4, 5], let cond := BitVec.ofNat 4 condN; st (issueJ 0x08 h0 ⟨4, 31, 0, cond, 0, 7⟩ [4, 31] 0) ∧
      st (issueJ 0x09 h0 ⟨4, 0, 7, cond, 0, 8⟩ [4] 0)) ∧ targets.ctx.getS 4 = targets.ctx.getS 31 ∧
    (st (issueJ 0x0A h0 ⟨0, 0, 0, 0, 0, 7⟩ [0] 0) ∧ targets.ctx.getS 0 = 0) ∧ (st (issueJ 0x0B h0 ⟨4, 0, 0, 0, 0, 7⟩ [4] 0) ∧ targets.ctx.getS 4 ≠ 0) ∧
    (Instr.br h0 ⟨4, 31, 0, 5, 0, 7⟩).wf = true ∧ (Instr.brI h0 ⟨4, 0, 7, 5, 0, 7⟩).wf = true ∧
    (let u := (baseR fun r => { r with pc := 8 }).focus 0
     u.ctx.runs = true ∧ u.ctx.wdDue = false ∧ u.ctx.wait = .none_ ∧ u.ctx.regs.pc = u.ctx.launch.nativeLen) := by
  decide +kernel

/-- A transfer to word 3 leaves the inner loop at 4 to 5, and stands in the outer ones. -/
theorem test_witness_transfer_pops :
    let c := (baseR fun r => { r with loops := [lp 4 5 2, lp 3 6 2, slp 1 7 9 8 8 0] }).ctx
    c.regs.loops = [lp 4 5 2] ++ [lp 3 6 2, slp 1 7 9 8 8 0] ∧ (∀ e ∈ [lp 4 5 2], 3 < e.start ∨ e.fin < 3) ∧
    (lp 3 6 2).start ≤ 3 ∧ 3 ≤ (lp 3 6 2).fin ∧ (∀ y ∈ [lp 3 6 2], y.sloop = false) ∧ (slp 1 7 9 8 8 0).sloop = true ∧
    base.ctx.regs.loops = [] := by decide +kernel

/-- The loop words: END at and past the last word; an enclosing loop that ends before END; a zero trip; a full stack; room. -/
theorem test_witness_loops :
    let st := fun (fin : BitVec 16) (l : List LoopEnt) => startsB (issueL 0x0C h0 ⟨4, 0, 0, 0, fin⟩) (baseR fun r => { r with loops := l }) = true ∧
      startsB (issueL 0x0E h0 ⟨4, 0, 0x8000, 0, fin⟩) (baseR fun r => { r with loops := l }) = true ∧
      startsB (issueL 0x0D h0 ⟨0, 0, 3, 0, fin⟩) (baseR fun r => { r with loops := l }) = true
    base.ctx.hasV = true ∧ base.ctx.launch.nativeLen = 8 ∧ (base.ctx.getS 4).toNat = 7 ∧ (base.ctx.getS 0).toNat = 0 ∧
    st 8 [] ∧ st 7 [lp 0 6 2] ∧ (lp 0 6 2).fin < 7 ∧ st 7 [lp 0 7 2] ∧ 7 ≤ (lp 0 7 2).fin ∧
    startsB (issueL 0x0C h0 ⟨0, 0, 0, 0, 7⟩) base = true ∧ startsB (issueL 0x0E h0 ⟨0, 0, 0, 0, 7⟩) base = true ∧
    startsB (issueL 0x0D h0 ⟨0, 0, 0, 0, 7⟩) base = true ∧
    st 7 [lp 0 7 2, lp 0 7 2, lp 0 7 2, lp 0 7 2] ∧ st 7 [lp 0 7 2, lp 0 7 2, lp 0 7 2] ∧
    (let s := baseC fun c => { c with launch := { c.launch with vregKiB := 0 } }
     startsB (issueL 0x0E h0 ⟨4, 0, 0, 0, 7⟩) s = true ∧ s.ctx.hasV = false) := by
  decide +kernel

theorem test_witness_plain_control :
    (∀ opN ∈ [0x01, 0x1D, 0x0F, 0x11], let op := BitVec.ofNat 8 opN; Starts (issueY op h0 { y0 with imm := 0xFFFFF } [] 0) base base.ctx) ∧
    (Instr.nop h0 y0).wf = true ∧ base.ctx.runs = true :=
  ⟨by intro op h; apply starts_of; revert op; decide +kernel, by decide, by decide +kernel⟩

/-! ### Witnesses: CSRs and capabilities -/

theorem test_witness_csr_registers :
    (8192 < (8193 : Word).toNat ∧ (8192 : Word).toNat ≤ 8192) ∧ base.ctx.hasV = true ∧
    (baseC fun c => { c with launch := { c.launch with vregKiB := 0 } }).ctx.hasV = false ∧
    (baseR fun r => { r with loops := [lp 0 6 2, lp 0 6 2, lp 0 6 2, lp 0 6 2] }).ctx.regs.loops.length ≤ 4 ∧
    (baseR fun r => { r with arr := { r.arr with mode := 2 } }).ctx.regs.arr.mode < 4 ∧
    (base.cur = 384 * 0 + 2 * 0 + 0) ∧ (base.focus 1535).cur = 384 * 3 + 2 * 191 + 1 ∧ (base.focus 1536).cur = 1536 + 128 * 0 + 2 * 0 + 0 ∧
    (base.focus 2047).cur = 1536 + 128 * 3 + 2 * 63 + 1 := by decide +kernel

/-- A CSR number in a word of format Y. -/
def yc (n : BitVec 20) : FmtY := { y0 with d := 3, a := 4, imm := n }

theorem test_witness_csr_words :
    (∀ nN ∈ [0x000, 0x01F, 0x030, 0x072], let n := BitVec.ofNat 20 nN; startsB (issueY 0x13 h0 (yc n) [] 3) base = true ∧
      (n.toNat < 0x020 ∨ 0x02F < n.toNat)) ∧
    (∀ nN ∈ [0x020, 0x02F], let n := BitVec.ofNat 20 nN; startsB (issueY 0x13 ⟨0, 3, 0, 0⟩ (yc n) [] 0) base = true ∧ 0x020 ≤ n.toNat ∧ n.toNat ≤ 0x02F) ∧
    (∀ opN ∈ [0x14, 0x15, 0x16], let op := BitVec.ofNat 8 opN; startsB (issueY op h0 (yc 0x051) [4] 0) base = true) ∧
    (match base.ctx.csrWrite 0x051 (base.ctx.getS 4) with | .done _ => true | _ => false) = true ∧
    startsB (issueY 0x14 h0 { yc 0 with a := 3 } [3] 0) base = true ∧ 8192 < (base.ctx.getS 3).toNat := by decide +kernel

/-- s[5] is 0x10000, the length of c1's window; s[6] is one more. -/
def capsM : State := baseC fun c => (c.setS 5 0x10000).setS 6 0x10001

theorem test_witness_capabilities :
    (∀ iN ∈ [0, 1], let i := BitVec.ofNat 20 iN; startsB (issueY 0x54 h0 { y0 with d := 15, imm := i } [] 0) base = true ∧
      (base.ctx.launch.captab[i.toNat]?).isSome = true) ∧
    startsB (issueY 0x54 h0 { y0 with d := 5, imm := 2 } [] 0) base = true ∧ base.ctx.launch.captab.length ≤ 2 ∧
    (∀ eN ∈ [0, 4, 6], let e := BitVec.ofNat 6 eN; startsB (issueY 0x55 h0 { y0 with d := 5, a := 1, b := 5, e := e } [5, e] 0) capsM = true ∧
      startsB (issueY 0x55 h0 { y0 with d := 5, a := 1, b := 0, e := e } [0, e] 0) capsM = true) ∧
    (∀ aN ∈ [1, 3, 4], let a := BitVec.ofNat 6 aN; startsB (issueY 0x55 h0 { y0 with d := 5, a := a, b := 0, e := 4 } [0, 4] 0) capsM = true ∧
      startsB (issueY 0x58 h0 { y0 with d := 5, a := a, fn := 0x18 } [] 0) capsM = true ∧
      startsB (issueY 0x57 h0 { y0 with d := 5, a := a, imm := 0x10000 } [] 0) capsM = true ∧
      (∀ bN ∈ [5, 6], let b := BitVec.ofNat 6 bN; startsB (issueY 0x56 h0 { y0 with d := 5, a := a, b := b } [b] 0) capsM = true) ∧
      ∀ nN ∈ [0, 1, 2], let n := BitVec.ofNat 20 nN; startsB (issueY 0x59 h0 { y0 with d := 5, a := a, imm := n } [] 5) capsM = true) ∧
    (capsM.ctx.getC 1).valid = true ∧ capD (capsM.ctx.getC 1).val = true ∧ capLen (capsM.ctx.getC 1).val = 0x10000 ∧
    (capsM.ctx.getC 3).valid = true ∧ capD (capsM.ctx.getC 3).val = false ∧ (capsM.ctx.getC 4).valid = false ∧
    (capsM.ctx.getS 5).toNat = 0x10000 ∧ (capsM.ctx.getS 6).toNat = 0x10001 := by decide +kernel

theorem test_witness_capabilities_never_widen :
    (Instr.cadd h0 { y0 with d := 5, a := 1, b := 4 }).isWord = true ∧ (∃ t, exec (.cadd h0 { y0 with d := 5, a := 1, b := 4 }) base = .next t) ∧
    CapsOk base.ctx := by
  refine ⟨by decide, ends_of_nexts (by decide +kernel), fun v hv => ?_, fun n => ?_⟩
  · have h : (base.ctx.launch.captab.all fun v => decide (capBase v + capLen v ≤ 2 ^ 48)) = true := by decide +kernel
    exact of_decide_eq_true (List.all_eq_true.mp h v hv)
  have h : ∀ k, k < 64 → (base.ctx.getC (BitVec.ofNat 6 k)).valid = true →
      capBase (base.ctx.getC (BitVec.ofNat 6 k)).val + capLen (base.ctx.getC (BitVec.ofNat 6 k)).val ≤ 2 ^ 48 := by decide +kernel
  simpa using h n.toNat n.isLt

/-! ### Witnesses: memory -/

/-- The location of a scratchpad offset of base's context. -/
def scr (o : Nat) : Nat := locScratch 0 o

def reachesB (s : State) (c : Ctx) (cap : RegNo) (off : Int) (n : Nat) (need : BitVec 4) (align : Nat) (k : AccKind) (store chk : Bool)
    (a : Nat) : Bool :=
  match ({ s with ctx := c } : State).access c cap off n need align k with
  | .ok (_, en, l) => decide (l = countFrom a n) && decide (en.ty ≠ .diagnostic) && decide (a % 128 + n ≤ 128) &&
      decide (c.out = []) && (decide (locKind a ≠ .scratch) || !c.copyWait (scratchOff a) n store) && (chk || !en.chk)
  | .error _ => false

theorem reaches_of {s : State} {c : Ctx} {cap : RegNo} {off : Int} {n : Nat} {need : BitVec 4} {align : Nat} {k : AccKind} {store chk : Bool}
    {a : Nat} (h : reachesB s c cap off n need align k store chk a = true) : Reaches s c cap off n need align k store chk a := by
  unfold reachesB at h
  split at h
  · rename_i w en l e
    simp only [Bool.and_eq_true, decide_eq_true_eq, Bool.or_eq_true, Bool.not_eq_true'] at h
    obtain ⟨⟨⟨⟨⟨h1, h2⟩, h3⟩, h6⟩, h4⟩, h5⟩ := h
    exact ⟨w, en, h1 ▸ e, h2, h3, h6, fun x => h4.resolve_left fun y => y x, fun x => h5.resolve_left (by simp [x])⟩
  · exact absurd h (by decide)

/-- The line at 0x10040 is in its home slice. -/
def home : State := { base with homeLines := [(0x10040 / 128, false)] }

/-- No translation at all is in the core's extent cache. -/
theorem no_extent_of {s : State} {c : Ctx} {cap : RegNo} (h : (s.core (coreKey s.cur)).ext = []) : NoExtent s c cap := by
  intro x hx; rw [h] at hx; exact absurd hx (by simp)

/-- No request stands at a base die. -/
def noQueue (s : State) : Bool := s.memStacks.toList.all fun k => k.queue.isEmpty

theorem no_queue_of {s : State} (h : noQueue s = true) (k : Nat) : (s.stack k).queue = [] := by
  unfold State.stack
  cases hk : s.memStacks[k]? with
  | none => rfl
  | some x =>
    have hx : x ∈ s.memStacks.toList := by simpa using Vector.mem_of_getElem? hk
    simpa using List.all_eq_true.mp h x hx

theorem numbered_of {s : State} (h : 0 < s.nextReq) (h1 : s.reqs = []) (h2 : noQueue s = true) : s.Numbered :=
  ⟨h, fun r hr => by rw [h1] at hr; exact absurd hr (by simp), fun k r hr => by rw [no_queue_of h2] at hr; exact absurd hr (by simp)⟩

/-- An access of n bytes to that line. -/
theorem home_of {s : State} {c : Ctx} {cap : RegNo} {off : Int} {n : Nat} {need : BitVec 4} {align : Nat} {k : AccKind} {store : Bool}
    {a : Nat} (h : reachesB s c cap off n need align k store false a = true)
    (h1 : locKind a = .dram ∧ homeDie a = slotDie s.cur ∧ s.openTxn (lineOf a) = none ∧ (tabFind (lineOf a) s.homeLines).isSome = true ∧
      tabGet 0 s.presence (lineOf a) = 0 ∧ (s.core (coreKey s.cur)).l1d = [] ∧ s.scrubPending a = false ∧ s.poisoned a = false ∧
      s.poisoned (a + n - 1) = false ∧ s.late = false ∧ 0 < s.nextReq ∧ s.reqs = [] ∧ noQueue s = true) :
    HomeAccess s c cap off n need align k store a := by
  obtain ⟨a1, a2, a3, a4, a5, a6, a7, a8, a9, a10, a11, a12, a13⟩ := h1
  exact ⟨reaches_of h, a1, a2, a3, a4, a5, a6, a7, a8, a9, a10, numbered_of a11 a12 a13,
    fun r _ h2 _ => by simp [State.storeBars, a12, h2, a3]⟩

/-- What HomeAccess asks of home at the line, beside the two stages. -/
theorem home_line (n : Nat) (h : n ∈ [1, 2, 4, 8]) : locKind 0x10040 = .dram ∧ homeDie 0x10040 = slotDie home.cur ∧
    home.openTxn (lineOf 0x10040) = none ∧ (tabFind (lineOf 0x10040) home.homeLines).isSome = true ∧
    tabGet 0 home.presence (lineOf 0x10040) = 0 ∧ (home.core (coreKey home.cur)).l1d = [] ∧ home.scrubPending 0x10040 = false ∧
    home.poisoned 0x10040 = false ∧ home.poisoned (0x10040 + n - 1) = false ∧ home.late = false ∧ 0 < home.nextReq ∧ home.reqs = [] ∧
    noQueue home = true := by
  revert n; decide +kernel

/-- A load, a store and an atomic, plain and ordered, in the scratchpad and at home; and at the last bytes of the scratchpad. -/
theorem test_witness_loads :
    ∀ p ∈ ([(0x40, 1), (0x41, 2), (0x42, 4), (0x43, 8)] : List (Nat × Nat)), ∀ oN ∈ [0, 1, 2], let o := BitVec.ofNat 2 oN;
      let b : FmtM := { m0 with ord := o }; let e : FmtM := { m0 with off := BitVec.ofNat 19 (0x10000 - p.2) }
      (Starts (issueM (BitVec.ofNat 8 p.1) ⟨0, 3, 0, 0⟩ b []) base base.ctx ∧ OrderOk base base.ctx b true ∧
        ScratchAccess base base.ctx b.c (offM base.ctx b false) p.2 rRead (if b.ord = 0 then 1 else p.2) .read false (scr 0x40)) ∧
      (Starts (issueM (BitVec.ofNat 8 p.1) ⟨0, 15, 0, 0⟩ e []) base base.ctx ∧ OrderOk base base.ctx e true ∧
        ScratchAccess base base.ctx e.c (offM base.ctx e false) p.2 rRead 1 .read false (scr (0x10000 - p.2))) ∧
      (let x : FmtM := { b with c := 2 }
       Starts (issueM (BitVec.ofNat 8 p.1) ⟨0, 3, 0, 0⟩ x []) home home.ctx ∧
       HomeAccess home home.ctx x.c (offM home.ctx x false) p.2 rRead (if x.ord = 0 then 1 else p.2) .read false 0x10040) := by
  intro p hp o ho
  refine ⟨⟨starts_of ?_, ⟨?_, ?_⟩, reaches_of ?_, ?_, no_extent_of rfl⟩, ⟨starts_of ?_, ⟨?_, ?_⟩, reaches_of ?_, ?_, no_extent_of rfl⟩,
    starts_of ?_, home_of ?_ (home_line _ ?_)⟩ <;>
    (revert o; revert p) <;> decide +kernel

/-- The indexed forms: s[4] = 7, and a shift of 3 in bits 18 to 16 of OFF. -/
theorem test_witness_loads_indexed :
    ∀ p ∈ ([(0x48, 1), (0x49, 2), (0x4A, 4), (0x4B, 8)] : List (Nat × Nat)),
      let b : FmtM := { m0 with x := 4, off := 0x30000 }
      Starts (issueM (BitVec.ofNat 8 p.1) ⟨0, 3, 0, 0⟩ b [b.x]) base base.ctx ∧ OrderOk base base.ctx b true ∧
      ScratchAccess base base.ctx b.c (offM base.ctx b true) p.2 rRead 1 .read false (scr 56) := by
  intro p hp
  refine ⟨starts_of ?_, ⟨?_, ?_⟩, reaches_of ?_, ?_, no_extent_of rfl⟩ <;> revert p <;> decide +kernel

theorem test_witness_stores :
    ∀ p ∈ ([(0x44, 1), (0x45, 2), (0x46, 4), (0x47, 8)] : List (Nat × Nat)), ∀ oN ∈ [0, 1, 3], let o := BitVec.ofNat 2 oN;
      let b : FmtM := { m0 with d := 3, ord := o }
      (Starts (issueM (BitVec.ofNat 8 p.1) h0 b [b.d]) base base.ctx ∧ OrderOk base base.ctx b false ∧
        ScratchAccess base base.ctx b.c (offM base.ctx b false) p.2 rWrite (if b.ord = 0 then 1 else p.2) .write true (scr 0x40)) ∧
      (let x : FmtM := { b with c := 2, bel := 1 }
       Starts (issueM (BitVec.ofNat 8 p.1) h0 x [x.d]) home home.ctx ∧ OrderOk home home.ctx x false ∧
       HomeAccess home home.ctx x.c (offM home.ctx x false) p.2 rWrite (if x.ord = 0 then 1 else p.2) .write true 0x10040) := by
  intro p hp o ho
  refine ⟨⟨starts_of ?_, ⟨?_, ?_⟩, reaches_of ?_, ?_, no_extent_of rfl⟩, starts_of ?_, ⟨?_, ?_⟩, home_of ?_ (home_line _ ?_)⟩ <;> (revert o; revert p) <;> decide +kernel

theorem test_witness_stores_indexed :
    ∀ p ∈ ([(0x4C, 1), (0x4D, 2), (0x4E, 4), (0x4F, 8)] : List (Nat × Nat)),
      let b : FmtM := { m0 with d := 3, x := 4, off := 0x30000 }
      Starts (issueM (BitVec.ofNat 8 p.1) h0 b [b.d, b.x]) base base.ctx ∧ OrderOk base base.ctx b false ∧
      ScratchAccess base base.ctx b.c (offM base.ctx b true) p.2 rWrite 1 .write true (scr 56) := by
  intro p hp
  refine ⟨starts_of ?_, ⟨?_, ?_⟩, reaches_of ?_, ?_, no_extent_of rfl⟩ <;> revert p <;> decide +kernel

theorem test_witness_atomics :
    ∀ p ∈ ([(0x50, 4, 9), (0x51, 8, 8), (0x52, 4, 15), (0x53, 8, 15)] : List (Nat × Nat × Nat)), ∀ oN ∈ [0, 3], let o := BitVec.ofNat 2 oN;
      ∀ aopN ∈ [0, p.2.2], let aop := BitVec.ofNat 4 aopN;
      let b : FmtM := { m0 with e := 3, x := (if p.2.2 = 15 then 4 else 0), ord := o, aop := aop }
      let rd := if p.2.2 = 15 then [b.x, b.e] else [b.e]
      (b.aop.toNat ≤ p.2.2 ∧ Starts (issueM (BitVec.ofNat 8 p.1) ⟨0, 3, 0, 0⟩ b rd) base base.ctx ∧ OrderOk base base.ctx b false ∧
        ScratchAccess base base.ctx b.c b.off.toInt p.2.1 (rRead ||| rWrite ||| rSync) p.2.1 .atomic true (scr 0x40)) ∧
      (let x : FmtM := { b with c := 2 }
       Starts (issueM (BitVec.ofNat 8 p.1) ⟨0, 3, 0, 0⟩ x rd) home home.ctx ∧ OrderOk home home.ctx x false ∧
       HomeAccess home home.ctx x.c x.off.toInt p.2.1 (rRead ||| rWrite ||| rSync) p.2.1 .atomic true 0x10040 ∧ x.far = 0) := by
  intro p hp o ho ow aop ha aw
  refine ⟨⟨?_, starts_of ?_, ⟨?_, ?_⟩, reaches_of ?_, ?_, no_extent_of rfl⟩, starts_of ?_, ⟨?_, ?_⟩, home_of ?_ (home_line _ ?_), ?_⟩ <;>
    (revert aop; revert o; revert p; decide +kernel)

/-- v[5] and v[6] hold 32-bit integers and VL is 2. -/
def vecM : State := baseC fun c => ((c.setV 5 { VReg.zero with ty := .i32, data := 0x0000000600000005 }).setV 6
  { VReg.zero with ty := .i32, data := 0x0000000800000007 }).setVl 2

theorem vecM_vl : vecM.ctx.vl = 2 := by decide +kernel

/-- VLD, VLD.s and VLDX of two words; the stride and the offset are 8 and 0x40. -/
theorem test_witness_vector_loads :
    ∀ p ∈ ([(0x60, 0, 0x40, 4), (0x61, 7, 0x40, 8), (0x65, 7, 0x30000, 4)] : List (Nat × Nat × Nat × Nat)),
      let s := vecM.updCtx fun c => c.setS 7 8; let c := s.ctx
      let b : FmtM := { m0 with x := BitVec.ofNat 6 p.2.1, off := BitVec.ofNat 19 p.2.2.1 }; let rd := if p.2.1 = 0 then [] else [b.x]; let t := (c.getV b.d.toNat).ty
      let adr := fun i => scr (0x40 + i * p.2.2.2)
      Starts (issueMV (BitVec.ofNat 8 p.1) ⟨0, 3, 0, 0⟩ b rd .vprod) s c ∧ c.noSlot 3 = false ∧ (c.getTag 3).slot < 4 ∧ t.isPlain = true ∧ c.vl ≤ c.capacity t ∧
      (c.getC b.c).valid = true ∧ rRead &&& ~~~(capRights (c.getC b.c).val) = 0 ∧ c.out = [] ∧
      ∀ i, i < c.vl → ScratchAccess s c b.c (0x40 + (i : Int) * p.2.2.2) 4 rRead 4 .read false (adr i) := by
  intro p hp
  refine ⟨starts_of ?_, ?_, ?_, ?_, ?_, ?_, ?_, ?_, fun i hi => ?_⟩
  all_goals first | (revert p; decide +kernel) | skip
  all_goals
    have hl : i < 2 := vecM_vl ▸ hi
    match i, hl with
    | 0, _ => refine ⟨reaches_of ?_, ?_, no_extent_of rfl⟩ <;> (revert p; decide +kernel)
    | 1, _ => refine ⟨reaches_of ?_, ?_, no_extent_of rfl⟩ <;> (revert p; decide +kernel)

theorem test_witness_vector_stores :
    ∀ p ∈ [(0x63, 0, 0x40, 4), (0x64, 7, 0x40, 8), (0x66, 7, 0x30000, 4)],
      let s := vecM.updCtx fun c => c.setS 7 8; let c := s.ctx
      let b : FmtM := { m0 with x := BitVec.ofNat 6 p.2.1, off := BitVec.ofNat 19 p.2.2.1 }; let rd := if p.2.1 = 0 then [] else [b.x]
      let v := c.getV b.d.toNat; let adr := fun i => scr (0x40 + i * p.2.2.2)
      Starts (issueMV (BitVec.ofNat 8 p.1) h0 b rd .vstore) s c ∧ v.ty.isPlain = true ∧ c.vl ≤ c.capacity v.ty ∧ c.heldMeets b.d.toNat 1 = false ∧
      (c.getC b.c).valid = true ∧ rWrite &&& ~~~(capRights (c.getC b.c).val) = 0 ∧
      ∀ i, i < c.vl → ScratchAccess s c b.c (0x40 + (i : Int) * p.2.2.2) 4 rWrite 4 .write true (adr i) := by
  intro p hp
  refine ⟨starts_of ?_, ?_, ?_, ?_, ?_, ?_, fun i hi => ?_⟩
  all_goals first | (revert p; decide +kernel) | skip
  all_goals
    have hl : i < 2 := vecM_vl ▸ hi
    match i, hl with
    | 0, _ => refine ⟨reaches_of ?_, ?_, no_extent_of rfl⟩ <;> (revert p; decide +kernel)
    | 1, _ => refine ⟨reaches_of ?_, ?_, no_extent_of rfl⟩ <;> (revert p; decide +kernel)

def recordB (s : State) (c : Ctx) (cap : RegNo) (off : Int) (need : BitVec 4) (k : AccKind) (store : Bool) (a : Nat) : Bool :=
  (match ({ s with ctx := c } : State).access c cap off 64 need 64 k with
   | .ok (w, en, l) => decide (l = countFrom a 64) && decide (en.ty = .scratch) &&
      decide ((({ s with ctx := c } : State).entryFor (.member c.launch.uid) w.buf).ty = .scratch)
   | .error _ => false) &&
  decide (locKind a = .scratch) && decide (a % 64 = 0) && !c.copyWait (scratchOff a) 64 store &&
  !c.blocks ⟨a, 64, true, store, true, false, false⟩

theorem record_of {s : State} {c : Ctx} {cap : RegNo} {off : Int} {need : BitVec 4} {k : AccKind} {store : Bool} {a : Nat}
    (h : recordB s c cap off need k store a = true) : RecordAt s c cap off need k store a := by
  unfold recordB at h
  simp only [Bool.and_eq_true, decide_eq_true_eq, Bool.not_eq_true'] at h
  obtain ⟨⟨⟨⟨h1, h2⟩, h3⟩, h4⟩, h5⟩ := h
  split at h1
  · rename_i w en l e
    simp only [Bool.and_eq_true, decide_eq_true_eq] at h1
    exact ⟨⟨w, en, h1.1.1 ▸ e, h1.1.2, h1.2⟩, h2, h3, h4, h5⟩
  · exact absurd h1 (by decide)

/-- A machine with a binding record at scratchpad offset 0x100, and v[5] of a type. -/
def recM (payc scalc : Nat) (t : Ety) (bound pos spos vl : Nat) : State :=
  let s := baseC fun c => (c.setV 5 { VReg.zero with ty := t, data := 0x3F8000003F800000, scales := 3 }).setVl vl
  { s with mem := memWrite s.mem ((countFrom (scr 0x100) 64).zip (bytesOf 64 (recordNat payc scalc t.tag bound pos spos))) }

theorem test_witness_binding_records :
    (∀ bN ∈ [0, 3], let b : FmtY := ⟨1, 1, BitVec.ofNat 6 bN, 2, 0, 10, 0x100⟩
      Starts (issueY 0x67 h0 b [b.b] 0) base base.ctx ∧ RecordAt base base.ctx b.a b.imm.toNat rWrite .write true (scr 0x100)) ∧
    (let b : FmtY := ⟨7, 1, 0, 0, 0, 0, 0x100⟩
     Starts (issueY 0x68 h0 b [] b.d) base base.ctx ∧ RecordAt base base.ctx b.a b.imm.toNat (rRead ||| rWrite) .write true (scr 0x100)) := by
  refine ⟨fun b hb => ⟨starts_of ?_, record_of ?_⟩, starts_of ?_, record_of ?_⟩
  all_goals first | (revert b; decide +kernel) | decide +kernel

/-- VLDB of two words from offset 4 on, and of two SE4 blocks with their scales at 0. -/
theorem test_witness_stream_loads :
    let h : Hdr := ⟨0, 3, 0, 0⟩; let b : FmtM := { m0 with off := 0x100 }
    (let s := recM 1 15 .i32 0 4 5 2; let c := s.ctx
     Starts (issueMV 0x62 h b [] .vprod) s c ∧ RecordAt s c b.c b.off.toInt rRead .read false (scr 0x100) ∧
     numOf (memBytes s.mem (scr 0x100) 64) = recordNat 1 15 8 0 4 5 ∧ c.noSlot 3 = false ∧ (c.getTag 3).slot < 4 ∧ c.resumes 3 = false ∧
     c.vstart = 0 ∧ 0 < c.vl ∧ c.vl ≤ c.capacity .i32 ∧ c.copyWait (scratchOff (scr 0x100)) 64 true = false ∧ CapReady c 1 rRead ∧
     ScratchAccess s c (BitVec.ofNat 6 1) ((4 + 0) * 4 : Nat) 4 rRead 1 .read false (scr 16) ∧
     ScratchAccess s c (BitVec.ofNat 6 1) ((4 + 1) * 4 : Nat) 4 rRead 1 .read false (scr 20)) ∧
    (let s := recM 1 1 .se4 0 16 0 17; let c := s.ctx
     Starts (issueMV 0x62 h b [] .vprod) s c ∧ RecordAt s c b.c b.off.toInt rRead .read false (scr 0x100) ∧
     numOf (memBytes s.mem (scr 0x100) 64) = recordNat 1 1 10 0 16 0 ∧ c.vl ≤ c.capacity .se4 ∧ (c.vl + 15) / 16 = 2 ∧ CapReady c 1 rRead ∧
     ScratchPlain s c (BitVec.ofNat 6 1) ((16 / 16 + 0) * 10 : Nat) 10 rRead 1 .read false (scr 10) ∧
     ScratchPlain s c (BitVec.ofNat 6 1) ((16 / 16 + 1) * 10 : Nat) 10 rRead 1 .read false (scr 20) ∧
     ScratchPlain s c (BitVec.ofNat 6 1) ((16 / 16 + 0) / 3 * 8 : Nat) 8 rRead 8 .read false (scr 0) ∧
     ScratchPlain s c (BitVec.ofNat 6 1) ((16 / 16 + 1) / 3 * 8 : Nat) 8 rRead 8 .read false (scr 0)) := by
  refine ⟨⟨starts_of ?_, record_of ?_, ?_, ?_, ?_, ?_, ?_, ?_, ?_, ?_, ?_, ⟨reaches_of ?_, ?_, no_extent_of rfl⟩,
      ⟨reaches_of ?_, ?_, no_extent_of rfl⟩⟩,
    starts_of ?_, record_of ?_, ?_, ?_, ?_, ?_, ⟨reaches_of ?_, ?_, no_extent_of rfl⟩, ⟨reaches_of ?_, ?_, no_extent_of rfl⟩,
    ⟨reaches_of ?_, ?_, no_extent_of rfl⟩, reaches_of ?_, ?_, no_extent_of rfl⟩
  all_goals first | decide +kernel | (unfold CapReady; decide +kernel)

/-- VST.s of one FP32 element, and of one SE4 block beyond the record. -/
theorem test_witness_stream_stores :
    let b : FmtM := { m0 with off := 0x100 }
    (let s := recM 1 15 .fp32 0x7F800000 0 4 1; let c := s.ctx
     Starts (issueMV 0x64 h0 b [] .vstore) s c ∧ RecordAt s c b.c b.off.toInt (rRead ||| rWrite) .write true (scr 0x100) ∧
     numOf (memBytes s.mem (scr 0x100) 64) = recordNat 1 15 1 0x7F800000 0 4 ∧ c.heldMeets 5 1 = false ∧ (c.getV 5).ty ≠ .invalid ∧
     c.vl ≤ c.capacity .fp32 ∧ c.vstart = 0 ∧ c.vl = 1 ∧ CapReady c 1 rWrite ∧
     ScratchAccess s c (BitVec.ofNat 6 1) ((4 + 0) * 4 : Nat) 4 rWrite 1 .write true (scr 16) ∧ scr 16 + 4 ≤ scr 0x100) ∧
    (let s := recM 1 1 .se4 0x7F800000 0 (16 * 35) 16; let c := s.ctx
     Starts (issueMV 0x64 h0 b [] .vstore) s c ∧ RecordAt s c b.c b.off.toInt (rRead ||| rWrite) .write true (scr 0x100) ∧
     numOf (memBytes s.mem (scr 0x100) 64) = recordNat 1 1 10 0x7F800000 0 (16 * 35) ∧ (c.getV 5).ty = .se4 ∧ c.vl ≤ 16 ∧ CapReady c 1 rWrite ∧
     ScratchPlain s c (BitVec.ofNat 6 1) (16 * 35 / 16 * 10 : Nat) 10 rWrite 1 .write true (scr 350) ∧
     ScratchPlain s c (BitVec.ofNat 6 1) (16 * 35 / 16 / 3 * 8 : Nat) 8 rWrite 8 .write true (scr 88) ∧
     scr 88 + 8 ≤ scr 350 ∧ scr 0x100 + 64 ≤ scr 350 ∧ scr 88 + 8 ≤ scr 0x100) := by
  refine ⟨⟨starts_of ?_, record_of ?_, ?_, ?_, ?_, ?_, ?_, ?_, ?_, ⟨reaches_of ?_, ?_, no_extent_of rfl⟩, ?_⟩,
    starts_of ?_, record_of ?_, ?_, ?_, ?_, ?_, ⟨reaches_of ?_, ?_, no_extent_of rfl⟩, ⟨reaches_of ?_, ?_, no_extent_of rfl⟩, ?_, ?_, ?_⟩
  all_goals first | decide +kernel | (unfold CapReady; decide +kernel)

/-! ### Witnesses: copies and barriers -/

/-- A copy template: 64 bytes of DRAM to scratchpad offset 0x1000, counted on the object at offset 0x200. -/
def tmplNat : Nat := 2 * 2 ^ 60 + 1 * 2 ^ 56 + 1 * 2 ^ 52 + 0x200 + 0x40 * 2 ^ 64 + 0x1000 * 2 ^ 128 + 32 * 2 ^ 192 + 2 * 2 ^ 224 +
  64 * 2 ^ 256 + 64 * 2 ^ 320

/-- A barrier object at scratchpad offset 0x200: two arrivals expected, pending as given, phase 3. -/
def objM (pending : Nat) (f : Ctx → Ctx) : State :=
  { baseC f with mem := memWrite base.mem ((countFrom (scr 0x200) 16).zip (bytesOf 16 (3 + pending * 2 ^ 8 + 2 * 2 ^ 24))) }

def copyM : State :=
  let s := objM 1 fun c => c.setS 7 4
  { s with mem := memWrite s.mem ((countFrom (scr 0x100) 64).zip (bytesOf 64 tmplNat)) }

theorem test_witness_copy :
    let s := copyM; let c := s.ctx; let b : FmtY := ⟨0, 1, 7, 0, 2, 0, 3⟩; let loc := scr 0x200
    Starts (issueY 0x69 h0 b [b.b] 0) s c ∧ (c.getS b.b).toNat = 4 ∧ ScratchAccess s c b.a (64 * 4 : Nat) 64 rRead 64 .read false (scr 0x100) ∧
    let t : Template := BitVec.ofNat 512 (numOf (memBytes s.mem (scr 0x100) 64)); let u : State := { s with ctx := c }
    u.badTemplate t = false ∧ (checkCap c t.srcc t.srcoff ((t.rows - 1) * t.srcstr + t.rowB) rRead 1).toOption.isSome = true ∧
    (checkCap c t.dstc t.dstoff ((t.rows - 1) * t.dststr + t.rowB) rWrite 1).toOption.isSome = true ∧
    (match checkCap c t.barc t.baroff 16 rSync 16 with
      | .ok w => (match u.translate c w 16 rSync .sync with | .ok (_, l) => decide (l = countFrom loc 16) | .error _ => false)
      | .error _ => false) = true ∧
    u.bufType t.barc = .scratch ∧ locKind loc = .scratch ∧ (c.chan 3).copies.length < 4 ∧ (c.copies.filter c.recorded).length < 8 ∧ t.out = false ∧
    (u.obj loc).insect + t.rows * (t.rowB / 32) * (u.copyTargets t).length < 2 ^ 32 := by
  refine ⟨starts_of ?_, ?_, ⟨reaches_of ?_, ?_, no_extent_of rfl⟩, ?_⟩ <;> decide +kernel

theorem test_witness_copy_query :
    let b : FmtY := ⟨7, 0, 0, 0, 0, 0, 3⟩
    Starts (issueY 0x6A h0 b [] b.d) base base.ctx ∧ (base.ctx.chan 3).copies.length ≤ 4 ∧
    (base.ctx.chan 3).copies.foldl (fun n p => n + p.owed) 0 < 2 ^ 32 :=
  ⟨starts_of (by decide +kernel), by decide +kernel, by decide +kernel⟩

def objectB (s : State) (c : Ctx) (b : FmtY) (loc : Nat) (acq rel : Bool) : Bool :=
  (match ({ s with ctx := c } : State).access c b.a b.imm.toNat 16 rSync 16 .sync with
   | .ok (w, en, l) => decide (l = countFrom loc 16) && (decide (en.ty = .scratch) || decide (en.ty = .dieScratch)) &&
      (({ s with ctx := c } : State).homeBar c w 16 rSync .sync [loc]).isNone
   | .error _ => false) && (decide (locKind loc = .scratch) || decide (locKind loc = .dieScratch)) &&
  (let alone := ({ s with ctx := c } : State).reachesNone b.scope.toNat; !c.blocks (objInfo loc (acq && !alone) (rel && !alone)))

theorem object_of {s : State} {c : Ctx} {b : FmtY} {loc : Nat} {acq rel : Bool} (h : objectB s c b loc acq rel = true) :
    ObjectAt s c b loc acq rel := by
  unfold objectB at h
  simp only [Bool.and_eq_true, Bool.or_eq_true, decide_eq_true_eq, Bool.not_eq_true'] at h
  obtain ⟨⟨h1, h2⟩, h3⟩ := h
  split at h1
  · rename_i w en l e
    simp only [Bool.and_eq_true, Bool.or_eq_true, decide_eq_true_eq, Option.isNone_iff_eq_none] at h1
    exact ⟨⟨w, en, h1.1.1 ▸ e, h1.1.2, h1.2⟩, h2, h3⟩
  · exact absurd h1 (by decide)

/-- A word of format Y on the object at offset 0x200, with s[4] = 7. -/
def yb : FmtY := ⟨3, 1, 4, 0, 0, 1, 0x200⟩

theorem test_witness_barrier_arrivals :
    (∀ bN ∈ [5, 6], let s := objM 1 fun c => (c.setS 5 1).setS 6 65535; let b := { yb with b := BitVec.ofNat 6 bN }
      Starts (issueY 0x6B h0 b [b.b] 0) s s.ctx ∧ ObjectAt s s.ctx b (scr 0x200) false true ∧ Released s s.ctx b.scope ∧
      1 ≤ (s.ctx.getS b.b).toNat ∧ (s.ctx.getS b.b).toNat ≤ 65535) ∧
    (Starts (issueY 0x6F h0 yb [] yb.d) base base.ctx ∧ ObjectAt base base.ctx yb (scr 0x200) false false) ∧
    (∀ pN ∈ [1, 2], let s := objM pN id
      Starts (issueY 0x6C h0 yb [] yb.d) s s.ctx ∧ ObjectAt s s.ctx yb (scr 0x200) false true ∧ Released s s.ctx yb.scope ∧
      s.ctx.regs.csr.regionno ≠ 0xFFFF ∧ (s.obj (scr 0x200)).rsvOk = true ∧ (s.obj (scr 0x200)).pending = pN ∧
      (s.obj (scr 0x200)).insect = 0 ∧ (s.obj (scr 0x200)).outsect = 0 ∧ s.windows.all (fun w => w.team || w.loc != scr 0x200) = true ∧
      pitchNp (s.pitchReg (s.barDie (scr 0x200)) (2 * (s.obj (scr 0x200)).profile)) = 0) := by
  refine ⟨fun b hb => ⟨starts_of ?_, object_of ?_, ?_, ?_, ?_⟩, ⟨starts_of ?_, object_of ?_⟩,
    fun p hp => ⟨starts_of ?_, object_of ?_, ?_, ?_, ?_, ?_, ?_, ?_, ?_, ?_⟩⟩
  all_goals first | decide +kernel | (revert b; decide +kernel) | (revert p; decide +kernel) | (unfold Released; revert b; decide +kernel) |
    (unfold Released; revert p; decide +kernel)

/-- No copy fault at all. -/
theorem no_fault_of {c : Ctx} {loc : Nat} (h : ∀ ch, ch < 4 → (c.chan ch).fault = none) : NoCopyFault c loc := by
  intro ch f hc hf; rw [h ch hc] at hf; exact absurd hf (by simp)

theorem test_witness_barrier_waits :
    (∀ qN ∈ [3, 2], let s := objM 2 fun c => c.setS 4 (BitVec.ofNat 64 qN)
      Starts (issueY 0x6D h0 yb [yb.b] yb.d) s s.ctx ∧ ObjectAt s s.ctx yb (scr 0x200) true false ∧ NoCopyFault s.ctx (scr 0x200) ∧
      (s.obj (scr 0x200)).rsvOk = true ∧ (s.obj (scr 0x200)).phase = 3 ∧ (s.ctx.getS yb.b).toNat = qN ∧ s.ctx.regs.csr.regionno ≠ 0xFFFF) ∧
    (∀ w ∈ [Wait.bar (scr 0x200) 3, Wait.barDone (scr 0x200) 4],
      let s := objM 2 fun c => { c.upd (fun r => { r with barsyncP := some (0, 3) }) with wait := w }
      Waits s w ∧ NoCopyFault s.ctx (scr 0x200) ∧ s.ctx.regs.barsyncP = some (s.ctx.regs.pc, 3) ∧ s.ctx.regs.csr.regionno ≠ 0xFFFF) ∧
    (∀ pN ∈ [1, 2], let s := objM pN id
      Starts (issueY 0x6E h0 yb [] yb.d) s s.ctx ∧ ObjectAt s s.ctx yb (scr 0x200) false true ∧ NoCopyFault s.ctx (scr 0x200) ∧ Released s s.ctx yb.scope ∧
      s.ctx.regs.csr.regionno ≠ 0xFFFF ∧ markedAt s.ctx.regs.barsyncP s.ctx.regs.pc = none ∧ (s.obj (scr 0x200)).rsvOk = true ∧
      (s.obj (scr 0x200)).pending = pN) := by
  refine ⟨fun q hq => ⟨starts_of ?_, object_of ?_, no_fault_of ?_, ?_, ?_, ?_, ?_⟩, fun w hw => ⟨?_, no_fault_of ?_, ?_, ?_⟩,
    fun p hp => ⟨starts_of ?_, object_of ?_, no_fault_of ?_, ?_, ?_, ?_, ?_, ?_⟩⟩
  all_goals first | (revert q; decide +kernel) | (unfold Waits; revert w; decide +kernel) | (revert w; decide +kernel) | (revert p; decide +kernel) |
    (unfold Released; revert p; decide +kernel)

/-- The context in a team, with a second member bound beside it. -/
def teamM : State :=
  let s := baseC fun c => { c with launch := { c.launch with team := true, uid := 1, nid := 5 } }
  { s with others := [(2, { s.ctx with launch := { s.ctx.launch with uid := 2 } })] }

theorem test_witness_team_barrier :
    (Starts (issueY 0x70 h0 { yb with imm := 0 } [] 3) base base.ctx ∧ markedAt base.ctx.regs.hbarP base.ctx.regs.pc = none ∧
      base.ctx.deliverTags.regs.deferred = none ∧ base.ctx.launch.team = false) ∧
    (let s := teamM; let c := s.ctx
     Starts (issueY 0x70 h0 { yb with imm := 0 } [] 3) s c ∧ markedAt c.regs.hbarP c.regs.pc = none ∧ Released s c 0 ∧ c.out = [] ∧
     c.regs.csr.regionno ≠ 0xFFFF ∧ c.launch.team = true ∧
     ∃ x ∈ s.teamSlots (slotDie s.cur) c.launch.vf c.launch.team32, x.2.launch.uid ≠ c.launch.uid ∧
       x.2.launch.uid ∉ (s.team c.launch.vf c.launch.team32).arrived) ∧
    (let s := teamM.updCtx fun c => { c with wait := .hbar 3 1 }; Waits s (.hbar 3 1)) ∧
    (let s := teamM.updCtx fun c => { c with wait := .hbarDone 15 }; Waits s (.hbarDone 15) ∧ s.ctx.regs.csr.regionno ≠ 0xFFFF) := by
  refine ⟨⟨starts_of ?_, ?_, ?_, ?_⟩, ⟨starts_of ?_, ?_, ?_, ?_, ?_, ?_, ?_⟩, ?_, ?_, ?_⟩
  all_goals first | decide +kernel | (unfold Waits; decide +kernel) | (unfold Released; decide +kernel)

/-! ### Witnesses: synchronisation and caches -/

/-- A one-location access that both stages admit, as a check. -/
def oneB (s : State) (cap : RegNo) (off : Nat) (need : BitVec 4) (k : AccKind) (a : Nat) : Bool :=
  match s.access s.ctx cap off 1 need 1 k with | .ok (_, _, l) => decide (l = [a]) | .error _ => false

theorem one_of {s : State} {cap : RegNo} {off : Nat} {need : BitVec 4} {k : AccKind} {a : Nat} (h : oneB s cap off need k a = true) :
    ∃ w en, ({ s with ctx := s.ctx } : State).access s.ctx cap off 1 need 1 k = .ok (w, en, [a]) := by
  unfold oneB at h; split at h
  · rename_i w en l e; exact ⟨w, en, (of_decide_eq_true h) ▸ e⟩
  · exact absurd h (by decide)

/-- The same of MONITOR, which its home admits too. -/
def armB (s : State) (cap : RegNo) (off : Nat) (a : Nat) : Bool :=
  match s.access s.ctx cap off 1 rRead 1 .arm with
  | .ok (w, _, l) => decide (l = [a]) && (s.homeBar s.ctx w 1 rRead .arm [a]).isNone
  | .error _ => false

/-- A machine with its monitor as given. -/
def monM (m : Monitor) : State := baseC fun c => { c with mon := m }

theorem test_witness_sync_words :
    (∀ fN ∈ [0x10, 0x20, 0x40], ∀ sN ∈ [0, 1, 2, 6], let b : FmtY := { y0 with fn := BitVec.ofNat 10 fN, scope := BitVec.ofNat 3 sN }
      Starts (issueY 0x1A h0 b [] 0) base base.ctx ∧ base.ctx.regs.csr.regionno ≠ 0xFFFF ∧ Released base base.ctx b.scope ∧
      base.fenceWaits b.fn b.scope.toNat = false) ∧
    (Starts (issueY 0x19 h0 { y0 with d := 3 } [] 3) base base.ctx ∧ base.ctx.regs.csr.regionno ≠ 0xFFFF) ∧
    (let s := baseR fun r => { r with csr := { r.csr with regionno := 0xFFFF } }
     Starts (issueY 0x19 h0 { y0 with d := 3 } [] 3) s s.ctx ∧ s.stamped s.cur = false) ∧
    (Starts (issueY 0x1B h0 { y0 with a := 2, imm := 0xFFFF } [] 0) base base.ctx ∧ base.ctx.out = [] ∧ armB base 2 0xFFFF 0x1FFFF = true) ∧
    (∀ m ∈ [⟨some 9, true, false, false, 0⟩, ⟨none, false, false, true, 0⟩, ⟨none, false, true, false, 0⟩, Monitor.zero, ⟨some 9, false, false, false, 0⟩],
      Starts (issueY 0x1C h0 { y0 with d := 3, b := 4 } [4] 3) (monM m) (monM m).ctx) ∧
    (let s := (monM ⟨some 9, false, false, false, 0⟩).updCtx fun c => { c with wait := .waitm (some 0) }
     Waits s (.waitm (some 0)) ∧ s.ctx.mon.armed ≠ none ∧ 0 ≤ s.tick) ∧
    (∀ n ∈ [2, 4, 15], let s := (monM ⟨some 9, false, false, false, 0⟩).updCtx fun c => { c with wait := .waitmDone n (some 0) }
     Waits s (.waitmDone n (some 0)) ∧ n < 16 ∧ s.ctx.mon.armed ≠ none) := by
  refine ⟨fun f hf u hu => ⟨starts_of ?_, ?_, ?_, ?_⟩, ⟨starts_of ?_, ?_⟩, ⟨starts_of ?_, ?_⟩, ⟨starts_of ?_, ?_⟩, fun m hm => starts_of ?_,
    ⟨?_, ?_, ?_⟩, fun n hn => ⟨?_, ?_, ?_⟩⟩
  all_goals first | decide +kernel | (revert m; decide +kernel) | (unfold Waits; decide +kernel) | (revert u; revert f; decide +kernel) |
    (unfold Released; revert u; revert f; decide +kernel) | (revert n; decide +kernel) | (unfold Waits; revert n; decide +kernel)

theorem test_witness_cache_words :
    (∀ p ∈ [(2, 0x1FFFF, 0xFFFF), (1, scr 0, 0)], let b : FmtY := { y0 with d := 3, a := BitVec.ofNat 6 p.1, imm := BitVec.ofNat 20 p.2.2 }
      Starts (issueY 0x17 h0 b [] 3) base base.ctx ∧ oneB base b.a b.imm.toNat 0 .query p.2.1 = true) ∧
    (locKind 0x1FFFF = .dram ∧ paStack 0x1FFFF < 12 ∧ locKind (scr 0) = .scratch) ∧
    (∀ p ∈ [(2, 0x10040), (1, scr 0x40)], ∀ fN ∈ [0, 1], ∀ dN ∈ [0, 1], let s := { home with homeLines := [(0x10040 / 128, dN == 1)] }
      let b : FmtY := { y0 with a := BitVec.ofNat 6 p.1, fn := BitVec.ofNat 10 fN, imm := 0x40 }
      Starts (issueY 0x5A h0 b [] 0) s s.ctx ∧ capRights (s.ctx.getC b.a).val &&& 0xC ≠ 0 ∧ s.storesTo (p.2 / 128) = false ∧
      s.openTxn (p.2 / 128) = none ∧ oneB s b.a 0x40 0 .maintain p.2 = true ∧ s.Numbered ∧ s.cwbBusy (p.2 / 128) = false ∧
      s.leaving (0x10040 / 128) = false) ∧
    (let s := home.updCtx fun c => { c with wait := .cwb (0x10040 / 128) none }; Waits s (.cwb (0x10040 / 128) none) ∧
      (checkCap s.ctx 2 0x40 1 0 1).toOption.isSome = true ∧ s.cwbBusy (0x10040 / 128) = false) ∧
    (Starts (issueM 0x5B h0 { m0 with d := 0 } []) base base.ctx ∧ base.ctx.regs.csr.harness = false) := by
  refine ⟨fun p hp => ⟨starts_of ?_, ?_⟩, ?_, fun p hp f hf d hd => ⟨starts_of ?_, ?_, ?_, ?_, ?_, numbered_of ?_ ?_ ?_, ?_, ?_⟩, ⟨?_, ?_, ?_⟩,
    starts_of ?_, ?_⟩
  all_goals first | decide +kernel | (revert p; decide +kernel) | (unfold Waits; decide +kernel) | (revert d; revert f; revert p; decide +kernel)

/-! ### Witnesses: vector words -/

/-- Two registers of a type, VL elements, and mask m1. -/
def vM (t : Ety) (vl : Nat) : State := baseC fun c =>
  ((((c.setV 1 { VReg.zero with ty := t, data := 0x0503070204060801 }).setV 2 { VReg.zero with ty := t, data := 0x0102030405060708 }).setV 3
    { VReg.zero with ty := .i8, data := 0xFFFFFFFFFFFFFFFF }).setM 1 0xA5).setVl vl

/-- The element loop at both ends of VL, with masked-off elements. -/
theorem test_witness_element_loop :
    (∀ p ∈ [(Ety.fp32, 0), (.fp32, 2048), (.i8, 8192)], let c := (vM p.1 p.2).ctx
      c.vl * p.1.width ≤ 65536 ∧ c.vl ≤ 8192) ∧ ((vM .i8 8).ctx.getM 1).getLsbD 0 = true ∧ ((vM .i8 8).ctx.getM 1).getLsbD 1 = false := by
  decide +kernel

/-- Words of two and three vectors on floats and integers of full length, in both forms, with a type that each admits. -/
theorem test_witness_vector_words :
    (∀ opN ∈ [0x80, 0x82, 0x84, 0x8C, 0x8E, 0x90, 0x92, 0x94, 0x96, 0x98, 0x9A, 0x9C, 0x9E, 0xA2], ∀ p ∈ [(Ety.i8, 8192), (.i32, 0)],
      let s := vM p.1 p.2; let c := s.ctx
      Starts (issueV (BitVec.ofNat 8 opN) h0 v0 [] 0 [v0.vd, v0.va, v0.vb] .lane) s c ∧
      Starts (issueV (BitVec.ofNat 8 (opN + 1)) h0 v0 [v0.vb] 0 [v0.vd, v0.va] .lane) s c ∧
      (c.getV 1).ty = p.1 ∧ (c.getV 2).ty = p.1 ∧ c.vl ≤ c.capacity p.1 ∧ p.1.isPlain = true ∧ p.1.isInt = true) ∧
    (∀ opN ∈ [0x86, 0x88, 0x8A], let s := vM .bf16 4096; let c := s.ctx; let b := { v0 with vc := 1 }
      Starts (issueV (BitVec.ofNat 8 opN) h0 b [] 0 [b.vd, b.va, b.vb, b.vc] .lane) s c ∧
      Starts (issueV (BitVec.ofNat 8 (opN + 1)) h0 b [b.vb] 0 [b.vd, b.va, b.vc] .lane) s c ∧
      Ety.isPlain .bf16 = true ∧ Ety.isFloat .bf16 = true ∧ (c.getV 1).ty = .bf16 ∧ c.vl ≤ c.capacity .bf16) := by
  refine ⟨fun o ho p hp => ⟨starts_of ?_, starts_of ?_, ?_, ?_, ?_, ?_, ?_⟩, fun o ho => ⟨starts_of ?_, starts_of ?_, ?_, ?_, ?_, ?_⟩⟩
  all_goals first | decide +kernel | (revert p; decide +kernel) | (revert o; decide +kernel) | (revert p; revert o; decide +kernel)

theorem test_witness_vector_unary :
    ∀ p ∈ [(0xA5, Ety.fp16), (0xA6, .i16), (0xA7, .fp32), (0xBA, .i32), (0xBB, .i8)], let s := vM p.2 8; let c := s.ctx; let b := { v0 with vb := 0 }
      Starts (issueV (BitVec.ofNat 8 p.1) h0 b [] 0 [b.vd, b.va] .lane) s c ∧ (c.getV 1).ty = p.2 ∧ c.vl ≤ c.capacity p.2 ∧
      Starts (issueV 0xA4 h0 v0 [] 0 [v0.vd, v0.va, v0.vb] .lane) s c ∧ p.2.isPlain = true := by
  intro p hp
  refine ⟨starts_of ?_, ?_, ?_, starts_of ?_, ?_⟩ <;> (revert p; decide +kernel)

theorem test_witness_vector_compare :
    (∀ p ∈ [(Ety.fp32, 10), (.i8, 6), (.i8, 9)], ∀ dN ∈ [1, 7], let s := vM p.1 8; let c := s.ctx
      let b := { v0 with fn := BitVec.ofNat 4 p.2, vd := BitVec.ofNat 6 dN, mask := 1 }
      Starts (issueV 0xA0 h0 b [] 0 [b.va, b.vb] .lane) s c ∧ Starts (issueV 0xA1 h0 b [b.vb] 0 [b.va] .lane) s c ∧
      (c.getV 1).ty = p.1 ∧ (c.getV 2).ty = p.1 ∧ vcmpLegal p.1 b.fn.toNat = true ∧ c.vl ≤ c.capacity p.1 ∧ c.vstart ≤ c.vl ∧ c.vl ≤ 8192 ∧ b.vd ≠ 0 ∧
      b.vd.toNat < 8) ∧
    (∀ tN ∈ [1, 8, 10], let s := vM .fp32 16; let c := s.ctx; let b := { v0 with vb := 0, fn := BitVec.ofNat 4 tN }
      Starts (issueV 0xA8 h0 b [] 0 [b.vd, b.va] .lane) s c ∧ Starts (issueV 0xA9 h0 b [] 0 [b.vd, b.va] .lane) s c ∧
      (c.getV 1).ty ≠ .invalid ∧ c.vl ≤ c.capacity .fp32 ∧ c.vl ≤ c.capacity (Ety.ofTag tN) ∧ c.vstart = 0 ∧ c.vl ≤ 8192 ∧ b.ftzi = 0) ∧
    Ety.isSE (.ofTag 10) = true ∧ Ety.isSE (.ofTag 1) = false ∧
    (∀ tN ∈ [1, 8], let s := vM .fp32 2048; let c := s.ctx
      (let b := { v0 with va := 0, vb := 4, fn := BitVec.ofNat 4 tN }; Starts (issueV 0xAA h0 b [b.vb] 0 [b.vd] .lane) s c) ∧
      (let b := { v0 with va := 0, vb := 0, fn := BitVec.ofNat 4 tN }; Starts (issueV 0xB1 h0 b [] 0 [b.vd] .lane) s c) ∧
      c.vl ≤ c.capacity (Ety.ofTag tN)) := by
  refine ⟨fun p hp d hd => ⟨starts_of ?_, starts_of ?_, ?_, ?_, ?_, ?_, ?_, ?_, ?_, ?_⟩,
    fun t ht => ⟨starts_of ?_, starts_of ?_, ?_, ?_, ?_, ?_, ?_, ?_⟩, ?_, ?_, fun t ht => ⟨starts_of ?_, starts_of ?_, ?_⟩⟩
  all_goals first | decide +kernel | (revert t; decide +kernel) | (revert p; decide +kernel) | (revert d; revert p; decide +kernel)

/-- VRED, VSCAN and VDOT, the last with one segment and with segments of two. -/
theorem test_witness_vector_sums :
    (∀ p ∈ [(Ety.fp32, 2048), (.i8, 8192), (.i8, 0)], let s := vM p.1 p.2; let c := s.ctx; let b := { v0 with vb := 0 }
      Starts (issueV 0xAB h0 b [] 0 [b.vd, b.va] .lane) s c ∧ Starts (issueV 0xAC h0 b [] 0 [b.vd, b.va] .lane) s c ∧
      (c.getV 1).ty = p.1 ∧ p.1.isPlain = true ∧ c.vl ≤ c.capacity p.1 ∧ c.vl * p.1.width ≤ 65536 ∧ c.vl ≤ 8192 ∧ c.vstart = 0 ∧ b.sat = 0) ∧
    (∀ p ∈ [(Ety.fp32, 0), (.i8, 2)], let s := vM p.1 8; let c := s.ctx; let b := { v0 with imm := BitVec.ofNat 20 p.2 }
      let seg := if b.imm = 0 then c.vl else b.imm.toNat
      Starts (issueV 0xB2 h0 b [] 0 [b.vd, b.va, b.vb] .lane) s c ∧ (c.getV 1).ty = p.1 ∧ (c.getV 2).ty = p.1 ∧ c.vl ≤ c.capacity p.1 ∧
      0 < c.vl ∧ c.vl % seg = 0 ∧ c.vl / seg ≤ c.len ∧ c.len ≤ 2048 ∧ c.vstart = 0) := by
  refine ⟨fun p hp => ⟨starts_of ?_, starts_of ?_, ?_, ?_, ?_, ?_, ?_, ?_, ?_⟩, fun p hp => ⟨starts_of ?_, ?_, ?_, ?_, ?_, ?_, ?_, ?_, ?_⟩⟩ <;>
    (revert p; decide +kernel)

theorem test_witness_vector_moves :
    (∀ p ∈ [(Ety.i8, 8192), (.fp32, 0), (.i16, 8)], let s := vM p.1 p.2; let c := s.ctx
      (∀ fN ∈ [0, 1], let b := { v0 with vb := 4, fn := BitVec.ofNat 4 fN }; Starts (issueV 0xAD h0 b [b.vb] 0 [b.vd, b.va] .lane) s c) ∧
      (let b := { v0 with vb := 3 }; Starts (issueV 0xAE h0 b [] 0 [b.vd, b.va, b.vb] .lane) s c ∧ (c.getV 3).ty.isInt = true ∧
        c.vl ≤ c.capacity (c.getV 3).ty) ∧
      (let b := { v0 with vb := 0, mask := 1 }; Starts (issueV 0xBC h0 b [] 0 [b.vd, b.va] .lane) s c ∧
        Starts (issueV 0xBD h0 b [] 0 [b.vd, b.va] .lane) s c) ∧
      (c.getV 1).ty = p.1 ∧ p.1.isPlain = true ∧ c.vl ≤ c.capacity p.1 ∧ c.vl * p.1.width ≤ 65536 ∧ c.vl ≤ 8192 ∧ c.vstart = 0) ∧
    (∀ p ∈ [(Ety.i8, 8191 - 7), (.se7, 8191 - 7), (.fp32, 0)], let s := vM p.1 8; let c := s.ctx
      (∀ h ∈ [h0, ⟨0, 3, 0, 0⟩], let b := { v0 with vb := 4, imm := BitVec.ofNat 20 p.2 }
        Starts (issueV 0xAF h b [b.vb] (if h.ta = 0 then b.vd else 0) [b.va] .vgetput) s c ∧ (c.getS b.vb).toNat + b.imm.toNat < c.capacity p.1) ∧
      (let b := { v0 with vd := 1, va := 3, vb := 4, imm := BitVec.ofNat 20 p.2 }
       Starts (issueV 0xB0 h0 b [b.va, b.vb] 0 [b.vd] .vgetput) s c ∧ ((c.getS b.vb).toNat + b.imm.toNat + 1) * p.1.width ≤ 65536) ∧
      c.heldMeets 1 1 = false ∧ (c.getV 1).ty ≠ .invalid) := by
  refine ⟨fun p hp => ⟨fun f hf => starts_of ?_, ⟨starts_of ?_, ?_, ?_⟩, ⟨starts_of ?_, starts_of ?_⟩, ?_, ?_, ?_, ?_, ?_, ?_⟩,
    fun p hp => ⟨fun x hx => ⟨starts_of ?_, ?_⟩, ⟨starts_of ?_, ?_⟩, ?_, ?_⟩⟩
  all_goals first | (revert p; decide +kernel) | (revert f; revert p; decide +kernel) | (revert x; revert p; decide +kernel)

theorem test_witness_masks :
    (∀ f ∈ [0, 7], ∀ d ∈ [1, 7], let s := vM .i8 8192; let c := s.ctx; let b := { v0 with vd := BitVec.ofNat 6 d, fn := BitVec.ofNat 4 f }
      Starts (issueV 0xB3 h0 b [] 0 [] .lane) s c ∧ c.vstart = 0 ∧ c.vl ≤ 8192 ∧ b.vd ≠ 0 ∧ b.vd.toNat < 8) ∧
    (∀ m ∈ [0, 1, 2], let s := vM .i8 8; let c := s.ctx; let b := { v0 with va := BitVec.ofNat 6 m, vb := 0 }
      Starts (issueV 0xB4 h0 b [] b.vd [] .lane) s c ∧ Starts (issueV 0xB5 h0 b [] b.vd [] .lane) s c ∧ c.vstart = 0) := by
  refine ⟨fun f hf d hd => ⟨starts_of ?_, ?_, ?_, ?_, ?_⟩, fun m hm => ⟨starts_of ?_, starts_of ?_, ?_⟩⟩
  all_goals first | (revert m; decide +kernel) | (revert d; revert f; decide +kernel)

theorem test_witness_length_tag_shape :
    (let s := baseC fun c => (c.setS 5 8192).setS 6 8193
     ∀ a ∈ [5, 6], let b := { v0 with va := BitVec.ofNat 6 a, vb := 0 }; Starts (issueV 0xB7 h0 b [b.va] b.vd [] .other) s s.ctx) ∧
    (∀ n ∈ [8192, 8193], let b := { v0 with va := 0, vb := 0, imm := BitVec.ofNat 20 n }; Starts (issueV 0xB8 h0 b [] b.vd [] .other) base base.ctx) ∧
    (∀ p ∈ [(0, 7), (7, 0), (7, 1)], let b := { v0 with vd := BitVec.ofNat 6 p.1, va := 0, vb := 0, fn := 1, imm := BitVec.ofNat 20 p.2 }
      Starts (issueV 0xB9 h0 b [] 0 [b.vd] .other) base base.ctx ∧ base.ctx.count = 8 ∧ base.ctx.heldMeets b.vd.toNat (p.2 + 1) = false) ∧
    (∀ n ∈ [0, 3], let b := { v0 with vd := 3, va := 0, vb := 0, imm := BitVec.ofNat 20 n }
      Starts (issueV 0xB6 h0 b [] b.vd [] .vshape) base base.ctx ∧
      (shapeCount (BitVec.ofNat 2 n) + 4) * shapeLen (BitVec.ofNat 2 n) * 5 ≤ base.ctx.launch.vregKiB * 1024) ∧
    (let s := baseC fun c => { c with launch := { c.launch with vregKiB := 80 } }; let b := { v0 with vd := 3, va := 0, vb := 0, imm := 0 }
      Starts (issueV 0xB6 h0 b [] b.vd [] .vshape) s s.ctx ∧ s.ctx.launch.vregKiB * 1024 < (shapeCount 0 + 4) * shapeLen 0 * 5) := by
  refine ⟨fun a ha => starts_of ?_, fun n hn => starts_of ?_, fun p hp => ⟨starts_of ?_, ?_, ?_⟩, fun n hn => ⟨starts_of ?_, ?_⟩, starts_of ?_, ?_⟩
  all_goals first | decide +kernel | (revert a; decide +kernel) | (revert n; decide +kernel) | (revert p; decide +kernel)

/-! ### Witnesses: the array, the functions and tasks -/

/-- A machine with its array owned in mode m, a tile held or not, four elements, and v1 and v2 of a type. -/
def arrM (m : Nat) (t : Ety) (held : Option Tile) : State := (vM t 4).updCtx fun c => (c.updArr fun a => { a with
  mode := m, held := held, cells := 0x12345678 }).setV 4 { VReg.zero with ty := if t == .i8 then .i32 else .fp32 }

/-- Tile (4, 2, 3): six cells of the register v4. -/
def mx : FmtX := ⟨4, 1, 2, 1, 2, 0, 0, 0⟩

/-- The array of core 0 has power; slot 1 took it last. -/
def powered : State := { base with cores := [(0, { Core.zero with power := .granted 0, lastOwner := some true, asking := 3 })] }

theorem test_witness_modes :
    Starts (issueX 0xC0 h0 mx 0 [] .other) base base.ctx ∧ Starts (issueX 0xC0 h0 mx 0 [] .modeArr) powered powered.ctx ∧
    (∀ m ∈ [0, 1, 2], ∀ t ∈ [none, some mx.tile, some ⟨5, 64, 64⟩], let s := arrM m .bf16 t
      Starts (issueX 0xC0 h0 mx 0 [] .other) s s.ctx ∧ Starts (issueX 0xC0 h0 mx 0 [] .modeArr) s s.ctx ∧ s.ctx.regs.arr.mode = m) ∧
    base.ctx.regs.tags.all (fun t => !t.vec) = true ∧ base.ctx.regs.arr.mode = 0 ∧
    (powered.core (coreKey powered.cur)).loses (slotSide powered.cur) = false ∧
    (powered.core (coreKey powered.cur)).power.on powered.tick = true := by
  refine ⟨starts_of ?_, starts_of ?_, fun m hm t ht => ⟨starts_of ?_, starts_of ?_, ?_⟩, ?_, ?_, ?_, ?_⟩
  all_goals first | decide +kernel | (revert t; revert m; decide +kernel) | (revert m; revert t; decide +kernel) | (revert m; decide +kernel)

/-- VGET of the first and the last cell of a held tile. -/
theorem test_witness_held_cell :
    ∀ eN ∈ [0, 5], let s := arrM 2 .bf16 (some mx.tile); let h : Hdr := ⟨0, 3, 0, 0⟩; let b := { v0 with vd := 3, va := 4, vb := 0, imm := BitVec.ofNat 20 eN }
      Starts (issueV 0xAF h b [b.vb] 0 [b.va] .vgetput) s s.ctx ∧ s.ctx.regs.arr.held = some mx.tile ∧ s.ctx.heldMeets b.va.toNat 1 = true ∧
      (s.ctx.getV b.va.toNat).ty ≠ .invalid ∧ b.imm.toNat < s.ctx.capacity (s.ctx.getV b.va.toNat).ty ∧
      (b.va.toNat - mx.tile.vd) * s.ctx.capacity (s.ctx.getV b.va.toNat).ty + b.imm.toNat < mx.tile.g * mx.tile.n := by
  intro e he
  refine ⟨starts_of ?_, ?_, ?_, ?_, ?_, ?_⟩ <;> (revert e; decide +kernel)

theorem test_witness_weights_drain_zero :
    (∀ t ∈ [Ety.bf16, .i8, .se7], let s := arrM 1 t none; let b := { mx with g := 15 }
      Starts (issueX 0xC2 h0 b 0 [b.vb] .matrix) s s.ctx ∧ s.ctx.vstart = 0 ∧ (pairStep t t).isSome = true ∧
      s.ctx.spanOk b.vb.toNat (groupSpan s.ctx.len (b.rows * b.cols) t.width) = true ∧ b.rows % 16 = 0) ∧
    (Starts (issueX 0xC2 h0 mx 0 [mx.vb] .matrix) (arrM 2 .bf16 none) (arrM 2 .bf16 none).ctx) ∧
    (∀ m ∈ [0, 1, 2], ∀ t ∈ [none, some mx.tile, some ⟨5, 2, 3⟩], let s := arrM m .bf16 t
      Starts (issueX 0xC3 h0 mx 0 [mx.vd] .matrix) s s.ctx ∧ Starts (issueX 0xC4 h0 mx 0 [mx.vd] .matrix) s s.ctx ∧
      mx.vd.toNat + s.ctx.tileSpan mx.tile ≤ s.ctx.count) ∧
    (arrM 2 .bf16 (some ⟨5, 2, 3⟩)).ctx.heldMeets mx.vd.toNat 1 = false ∧ (arrM 2 .bf16 none).ctx.tileSpan mx.tile = 1 ∧
    (∀ n ∈ [0, 1, 2, 3], let b := { mx with vd := 3, imm := BitVec.ofNat 20 n }; let s := arrM 2 .bf16 (some mx.tile)
      Starts (issueX 0xC8 h0 b b.vd [] .mstat) s s.ctx ∧ b.imm.toNat ≤ 3) := by
  refine ⟨fun t ht => ⟨starts_of ?_, ?_, ?_, ?_, ?_⟩, starts_of ?_, fun m hm t ht => ⟨starts_of ?_, starts_of ?_, ?_⟩, ?_, ?_,
    fun n hn => ⟨starts_of ?_, ?_⟩⟩
  all_goals first | decide +kernel | (revert n; decide +kernel) | (revert t; revert m; decide +kernel) | (revert m; revert t; decide +kernel) | (revert m; decide +kernel) | (revert t; decide +kernel)

/-- A ROPE of L and position p. -/
def ropeB (l p : Nat) : FmtX := ⟨0, 0, 0, 0, 0, 0, 0, BitVec.ofNat 20 (l + 16 * p)⟩

/-- A context of a team at core 0, with its array in RS; core 1 runs another one of its gang, which waits at position 1 of 2. -/
def roping (w : Wait) : State :=
  let s := (arrM 2 .bf16 none).updCtx fun c => { c with launch := { c.launch with team := true } }
  { s with others := [(slotIndex 0 1 0, { s.ctx with wait := w, launch := { s.ctx.launch with uid := 7 } })] }

theorem test_witness_rope :
    (let s := roping (.rope 2 1 0); let c := s.ctx; let b := ropeB 2 0
     let at_ := fun (q : Nat) (core : Nat × Nat) (side : Nat) => (s.slot (slotIndex core.1 core.2 side)).waitsRope s.tick c.launch.vf c.launch.team32 2 q
     Starts (issueX 0xC5 h0 b 0 [] .matrix) s c ∧ (b.ropeL = 2 ∧ b.ropeP = 0) ∧ c.regs.arr.mode = 2 ∧ c.regs.arr.roped = false ∧
     c.launch.team = true ∧ (s.slot (slotMate s.cur)).wait = .none_ ∧ s.cur < 2048 ∧
     (chainCore s.cur 0 0 = some (0, 0) ∧ chainCore s.cur 0 1 = some (0, 1) ∧ at_ 1 (0, 1) 0 = true)) ∧
    (let s := roping .none_; let c := s.ctx; let b := ropeB 2 0
     let at_ := fun (q : Nat) (core : Nat × Nat) (side : Nat) => (s.slot (slotIndex core.1 core.2 side)).waitsRope s.tick c.launch.vf c.launch.team32 2 q
     Starts (issueX 0xC5 h0 b 0 [] .matrix) s c ∧ (chainCore s.cur 0 1 = some (0, 1) ∧ at_ 1 (0, 1) 0 = false ∧ at_ 1 (0, 1) 1 = false)) ∧
    (∀ l ∈ [1, 8], ∀ p ∈ [0, l - 1], (Instr.rope h0 (ropeB l p)).wf = true) ∧
    Starts (issueX 0xC5 h0 (ropeB 1 0) 0 [] .matrix) (roping .none_) (roping .none_).ctx ∧
    (let s := vM .bf16 4; Starts (issueX 0xC5 h0 (ropeB 1 0) 0 [] .matrix) s s.ctx ∧ s.ctx.regs.arr.mode = 0) := by
  refine ⟨⟨starts_of ?_, ?_⟩, ⟨starts_of ?_, ?_⟩, ?_, starts_of ?_, starts_of ?_, ?_⟩ <;> decide +kernel

/-- An MMA that its checks turn away, and one that starts in each mode: RS at its first and its last step, WS at its first and last row. -/
theorem test_witness_mma :
    (∀ p ∈ [(Ety.bf16, 0), (.bf16, 3), (.i8, 0), (.i8, 2)], ∀ t ∈ [none, some mx.tile], let s := (arrM 2 p.1 t).updCtx fun c => c.setVstart p.2
      let b := { mx with va := 1, vb := 2 }; let c := s.ctx; let x := mmaIn c b.va.toNat c b
      Starts (issueX 0xC1 h0 b 0 (mmaRegs b c) .matrix) s c ∧ c.mmaCheck b = none ∧ c.regs.arr.roped = false ∧ c.regs.arr.mode = 2 ∧
      x.k = 4 ∧ c.vstart = p.2 ∧ 0 < x.step ∧ Waits (s.updCtx fun c => { c with wait := .mma }) .mma) ∧
    (∀ p ∈ [(Ety.bf16, 0), (.bf16, 1), (.i8, 0), (.i8, 1)],
      let s := (arrM 1 p.1 none).updCtx fun c => (c.loadWeights 2 4 3 p.1).setVstart p.2
      let b := { mx with va := 1 }; let c := s.ctx; let x := mmaIn c b.va.toNat c b
      Starts (issueX 0xC1 h0 b 0 (mmaRegs b c) .matrix) s c ∧ c.mmaCheck b = none ∧ c.regs.arr.mode = 1 ∧ x.m = 2 ∧ c.vstart = p.2) ∧
    (let s := arrM 1 .bf16 none; Starts (issueX 0xC1 h0 mx 0 (mmaRegs mx s.ctx) .matrix) s s.ctx ∧ s.ctx.mmaCheck mx = some .modeErr ∧
      s.ctx.regs.arr.roped = false) ∧
    (let s := (arrM 2 .bf16 none).updCtx fun c => (c.updArr fun a => { a with roped := true, ropeL := 2 }).setV 2 VReg.zero
     Starts (issueX 0xC1 h0 mx 0 (mmaRegs mx s.ctx) .matrix) s s.ctx ∧ s.ctx.mmaCheckA mx = some .type_ ∧ s.ctx.regs.arr.roped = true) ∧
    (mmaIn (arrM 2 .i8 none).ctx 1 (arrM 2 .i8 none).ctx { mx with va := 1, vb := 2 }).ta = .i8 ∧
    (let x := mmaIn (arrM 2 .bf16 none).ctx 1 (arrM 2 .bf16 none).ctx { mx with va := 1, vb := 2 }; x.ta = .bf16 ∧ x.step = 1 ∧ 3 < x.k) := by
  refine ⟨fun p hp t ht => ⟨starts_of ?_, ?_, ?_, ?_, ?_, ?_, ?_, ?_⟩, fun p hp => ⟨starts_of ?_, ?_, ?_, ?_, ?_⟩, ⟨starts_of ?_, ?_, ?_⟩,
    ⟨starts_of ?_, ?_, ?_⟩, ?_⟩
  all_goals first | decide +kernel | (revert t; revert p; decide +kernel) | (revert p; revert t; decide +kernel) | (revert p; decide +kernel) |
    (unfold Waits; revert t; revert p; decide +kernel)

/-- A program of TIE slot 0 in v4: one step word and one table entry, and one of sixteen steps and 192 entries. -/
def loaded (steps tab : Nat) : State := (vM .i32 (1 + steps + tab)).updCtx fun c =>
  c.setV 4 { VReg.zero with ty := .i32, data := BitVec.ofNat 65536 (steps + tab * 2 ^ 16 + 0x10000000 * ((2 ^ 512 - 1) / (2 ^ 32 - 1)) * 2 ^ 32) }

theorem test_witness_functions :
    (∀ fN ∈ [0, 12, 15, 16, 31], ∀ p ∈ [(Ety.fp32, 8), (.bf16, 0)], let s := vM p.1 p.2; let c := s.ctx
      let b := { s0 with vd := 3, va := 1, fid := BitVec.ofNat 5 fN, mask := 1 }; let h : Hdr := ⟨0, 3, 0, 0⟩
      Starts (issueS 0xC6 h b [b.vd, b.va] .vprod) s c ∧ (c.getV b.va.toNat).ty = p.1 ∧ c.noSlot h.ta.toNat = false ∧
      (c.getTag h.ta.toNat).slot < 4 ∧ p.1.isFloat = true ∧ p.1.width ≠ 8 ∧ c.vl ≤ c.capacity p.1 ∧ c.vstart = 0) ∧
    (∀ p ∈ [(1, 0), (16, 192)], ∀ fN ∈ [16, 31], let s := loaded p.1 p.2; let c := s.ctx
      let b := { s0 with va := 4, fid := BitVec.ofNat 5 fN }; let v := c.getV b.va.toNat
      Starts (issueS 0xC7 h0 b [b.va] .other) s c ∧ c.heldMeets b.va.toNat 1 = false ∧ v.ty = .i32 ∧ c.vstart = 0 ∧
      c.vl = 1 + p.1 + p.2 ∧ v.elem 32 0 = p.1 + p.2 * 2 ^ 16 ∧ 16 ≤ b.fid.toNat ∧ b.fid.toNat < 32 ∧
      (List.range p.1).all fun i => microWordOk (BitVec.ofNat 32 (v.elem 32 (i + 1)))) ∧
    (let x := Exact.ofInt 2; x.isNan = false ∧ x.isInf = false ∧ x.isZero = false ∧ x.isNeg = false) ∧
    (base.ctx.regs.tie[0]?).getD none = none ∧ (base.ctx.regs.tie[15]?).getD none = none := by
  refine ⟨fun f hf p hp => ⟨starts_of ?_, ?_, ?_, ?_, ?_, ?_, ?_, ?_⟩, fun p hp f hf => ⟨starts_of ?_, ?_, ?_, ?_, ?_, ?_, ?_, ?_, ?_⟩, ?_, ?_, ?_⟩
  all_goals first | decide +kernel | (revert f; revert p; decide +kernel) | (revert p; revert f; decide +kernel)

/-- A launch record: magic, child 9, code and argument windows 0 and 1, entry, two instances, priority 3, completion at offset 0x400. -/
def launchNat (magic : Nat) : Nat := magic + 9 * 2 ^ 32 + 1 * 2 ^ 80 + 0xFFFFFFFF * 2 ^ 96 + 2 * 2 ^ 128 + 3 * 2 ^ 160 + 0x400 * 2 ^ 384

/-- The record at scratchpad offset 0x100, and so many live children already. -/
def launching (magic kids : Nat) : State :=
  { base with
    mem := memWrite base.mem ((countFrom (scr 0x100) 64).zip (bytesOf 64 (launchNat magic)))
    nextUid := 100
    nodes := (List.range kids).map fun i => { nodeOfRecord [] i base.ctx.launch.vf (BitVec.ofNat 32 (1000 + i)) (.host 0) [] false with
      parent := some base.ctx.launch.uid } }

/-- The window of the record, as both stages let it pass. -/
def launchB (s : State) (b : FmtY) (a : Nat) : Bool :=
  match checkCap s.ctx b.a b.imm.toNat 256 (rRead ||| rWrite) 256 with
  | .error _ => false
  | .ok w => match s.translate s.ctx w 256 (rRead ||| rWrite) .read with
    | .ok (en, l) => decide (l = countFrom a 256) && decide (en.ty = .scratch) && decide (en.chk = false)
    | .error _ => false

theorem launch_of {s : State} {b : FmtY} {a : Nat} (h : launchB s b a = true) :
    ∃ w en, checkCap s.ctx b.a b.imm.toNat 256 (rRead ||| rWrite) 256 = .ok w ∧
      s.translate s.ctx w 256 (rRead ||| rWrite) .read = .ok (en, countFrom a 256) ∧ en.ty = .scratch ∧ en.chk = false := by
  unfold launchB at h
  split at h
  · exact absurd h (by decide)
  · rename_i w e
    split at h
    · rename_i en l e1
      simp only [Bool.and_eq_true, decide_eq_true_eq] at h
      exact ⟨w, en, e, h.1.1 ▸ e1, h.1.2, h.2⟩
    · exact absurd h (by decide)

/-- Trained stacks and an enabled VF 0; member 50, of the priority of slot 0's context, is ready, and every other slot is as given. -/
def member (f : Launch → Launch) : Member :=
  ⟨f { base.ctx.launch with uid := 50, nid := 50 }, Regs.zero, false, BitVec.allOnes 64, 0, 0, false, none, false, Monitor.zero⟩
def sched (f : Launch → Launch) : State :=
  { base with
    dies := base.dies.map fun (d : Die) => { d with trainstat := Vector.replicate 2 1 }
    pkg := { base.pkg with vfEn := 1 }, members := [(50, member f)] }

theorem test_witness_tasks :
    (Starts (issueY 0x02 h0 y0 [] 0) base base.ctx ∧ base.ctx.deliverTags.regs.deferred = none ∧
      (∀ ch, ch < 4 → (base.ctx.chan ch).fault = none) ∧ base.quiet base.cur = true) ∧
    (Starts (issueY 0x12 h0 y0 [] 0) base base.ctx ∧ base.yieldsTo base.cur = none) ∧
    (let s := sched id; Starts (issueY 0x12 h0 y0 [] 0) s s.ctx ∧ s.yieldsTo s.cur = some 50 ∧ s.ctx.launch.team = false) ∧
    (∀ p ∈ [(0, 0), (1, 63), (1, 64), (1, 0)], let s := launching p.1 p.2; let c := s.ctx; let b : FmtY := ⟨3, 1, 0, 0, 0, 0, 0x100⟩
      Starts (issueY 0x18 h0 b [] b.d) s c ∧ Released s c 4 ∧ c.out = [] ∧ c.regs.csr.regionno ≠ 0xFFFF ∧ launchB s b (scr 0x100) = true ∧
      c.copyWait (scratchOff (scr 0x100)) 128 false = false ∧ c.copyWait (scratchOff (scr 0x100) + 128) 128 false = false ∧
      launchOk (memBytes s.mem (scr 0x100) 256) c.launch.captab.length (capLen (c.getC b.a).val) = (p.1 == 1) ∧
      (s.nodes.filter fun n => n.parent == some c.launch.uid).length = p.2 ∧ (s.nodes.filter (·.vf == c.launch.vf)).length < 4096 ∧
      c.launch.captab.all capEntryOk = true ∧ fieldAt (memBytes s.mem (scr 0x100) 256) 0x16 1 = 0 ∧
      s.nodes.all (fun m => m.nid != s.nextUid) = true ∧
      s.nodes.all (fun m => m.node.toNat != fieldAt (memBytes s.mem (scr 0x100) 256) 4 4) = true) := by
  refine ⟨⟨starts_of ?_, ?_, ?_, ?_⟩, ⟨starts_of ?_, ?_⟩, ⟨starts_of ?_, ?_, ?_⟩, fun p hp => ⟨starts_of ?_, ?_, ?_, ?_, ?_, ?_, ?_, ?_, ?_, ?_, ?_, ?_, ?_, ?_⟩⟩
  all_goals first | decide +kernel | (revert p; decide +kernel) | (unfold Released; revert p; decide +kernel)

/-! ### Witnesses: events of the cores -/

/-- base at a tick, with slot 0's context and its core 0 as given. -/
def evM (tick : Nat) (f : Ctx → Ctx) (core : Core) : State := { baseC f with tick := tick, cores := [(0, core)] }

/-- A context with its array in a mode. -/
def modeC (m : Nat) (c : Ctx) : Ctx := c.updArr fun a => { a with mode := m }

/-- Each event of a core at the last tick before it is due, where it depends on time, and at the first one. -/
theorem test_witness_core_events :
    ((baseC fun c => c.setTag 3 ⟨.pending, true, 5, false, 0, 9, true, 5⟩).slot 0).getTag 3 = ⟨.pending, true, 5, false, 0, 9, true, 5⟩ ∧
    ((baseC fun c => c.setTag 3 ⟨.pending, true, 5, false, 0, 9, true, 5⟩).slot 0).tagBusy 3 = false ∧
    ((baseC fun c => c.updArr fun a => { a with mmaFlags := some 3 }).slot 0).regs.arr.mmaFlags = some 3 ∧
    (∀ p ∈ [(0, 0), (8, 15), (8, 16)], let s := { base with tick := p.2, dies := base.dies.setIfInBounds 7 { Die.reset with arrQueue := [1983, 4], arrGrant := p.1 } }
      (s.die 7).arrQueue = 1983 :: [4] ∧ (s.die 7).arrGrant = p.1 ∧ s.tick = p.2 ∧ ((s.die 7).ceGrant ≠ s.tick ∨ s.tick = 0)) ∧
    (let s := { base with tick := 16, dies := base.dies.setIfInBounds 7 { Die.reset with arrQueue := [4], ceGrant := 16 } }
     (s.die 7).arrQueue = 4 :: [] ∧ (s.die 7).ceGrant = s.tick ∧ s.tick ≠ 0) ∧
    (∀ t ∈ [300, 301], ∀ p ∈ [ArrPower.idle 44, .granted 44], let s := evM t id { Core.zero with power := p }
      coreKey (slotIndex 0 0 0) = 0 ∧ (s.slot 0).regs.arr.mode = 0 ∧ (s.slot 1).regs.arr.mode = 0 ∧ (s.core 0).power = p ∧ (44 + 256 < s.tick ↔ t = 301)) ∧
    (∀ t ∈ [4100, 4101], ((evM t (fun c => { c with wait := .rope 2 0 5 }) Core.zero).slot 0).wait = .rope 2 0 5 ∧ (5 + 4096 ≤ t ↔ t = 4101)) ∧
    (∀ t ∈ [65537, 65538], tabFind 7 ((evM t id { Core.zero with l1d := [(7, ⟨[], 2⟩)] }).core 0).l1d = some ⟨[], 2⟩ ∧ (2 + 65536 ≤ t ↔ t = 65538)) ∧
    ((baseC fun c => { c with wait := .regionWrap false }).slot 0).wait = .regionWrap false ∧
    ((baseC fun c => { c with bind := { c.bind with wdleft := 0 } }).slot 0).wdDue = true ∧ (base.slot 0).wdDue = false ∧
    (∀ d ∈ [9, 10], ((evM 9 (fun c => { c with wait := .waitm (some d) }) Core.zero).slot 0).wait = .waitm (some d) ∧ (d ≤ 9 ↔ d = 9)) := by
  decide +kernel

/-! ### Witnesses: events of the die links -/

/-- A request of slot 384 on die 1 for 8 bytes of buffer 0, whose home is die 0: a load (1), a store (2) or an atomic (3). -/
def rq (opc : Nat) : Req :=
  { id := 9, slot := 384, ch := 0, uid := 7, src := 1, dst := 0, opc := opc, bel := false, seq := 3, serial := 0, pc := 0, buf := 0, off := 0x40,
    creg := 2, loc := 0x10040, size := 8, data := bytesOf 8 0x0123456789ABCDEF, aop := 0, opnd := 5, cmp := 6, chk := false, marked := false,
    far := false, region := 0, fill := false, noCopy := false, out := 0, stale := false, vec := false, bar := none, passed := false, wide := false,
    vf := base.ctx.launch.vf, part := base.ctx.launch.part, key := KeyTag.zero,
    need := rRead, s := false, blk := true, e := 2, tries := 0, sent := 10, limit := 4000 }

/-- home with slot 384 at an access that waits for it, with requests in flight and packets on the links. -/
def linked (w : Wait) (reqs : List Req) (net : List Pkt) : State :=
  { home with
    others := [(384, { base.ctx with launch := { base.ctx.launch with uid := 7 }, wait := w })], reqs := reqs, net := net, tick := 4009,
    dies := home.dies.setIfInBounds 1 { Die.reset with copies := [(lineOf 0x10040, [])], stopped := [3] } }

/-- A word of slot 384 at its step 2 that waits for rq's answer. -/
def asked (r : Req) (net : List Pkt) : State := linked (.remote 2 [1] r) [r] net

def atHomeB (s : State) (r : Req) : Bool :=
  decide (s.openTxn (lineOf r.loc) = none ∧ s.homeRefuses r = false ∧ r.chk = false ∧ r.far = false ∧ r.src ≠ r.dst ∧ locKind r.loc = .dram ∧
    0 < r.size ∧ r.loc % 128 + r.size ≤ 128 ∧ (tabFind (lineOf r.loc) s.homeLines).isSome = true ∧ s.scrubPending r.loc = false ∧
    s.linePoison = [])

theorem atHome_of {s : State} {r : Req} (h : atHomeB s r = true) : AtHome s r := by
  unfold atHomeB at h
  rw [decide_eq_true_eq] at h
  obtain ⟨h1, h2, h3, h4, h5, h6, h7, h8, h9, h10, h11⟩ := h
  exact ⟨h1, h2, h3, h4, h5, h6, h7, h8, h9, h10, fun x hx => by simp [State.poisoned, hx, h9, h11]⟩

def arrivesB (s : State) (p : Nat) (x : Pkt) : Bool :=
  decide (s.net[p]? = some x) && !s.pathStopped x && (s.barredAt x).isNone && !(s.slot x.parts.1.slot).regs.csr.injects x.arriveKind

theorem arrives_of {s : State} {p : Nat} {x : Pkt} (h : arrivesB s p x = true) : Arrives s p x := by
  unfold arrivesB at h
  simp only [Bool.and_eq_true, Bool.not_eq_true', Option.isNone_iff_eq_none, decide_eq_true_eq] at h
  exact ⟨h.1.1.1, h.1.1.2, h.1.2, by simp [State.inject, h.2]⟩

theorem test_witness_arrivals_at_home :
    (∀ n ∈ [1, 2, 3], let r := rq n; let s := asked r [.writeAck r, r.packet]
      Arrives s 1 r.packet ∧ AtHome s r ∧ r.opc = n ∧ s.dup r = none ∧ s.othersOf r = 0 ∧ r.data.length = r.size ∧
      (n ≠ 2 → s.storeBars r = false)) ∧
    (let r := { rq 2 with bel := true }; let s := asked r [r.packet]; Arrives s 0 (.write r) ∧ AtHome s r ∧ s.storeBars r = false) ∧
    (let r := { rq 1 with fill := true }; let s := asked r [r.packet]; Arrives s 0 (.read r) ∧ AtHome s r ∧ r.src < 8) ∧
    (let r := rq 2; let s := { asked r [.write r] with dups := [(dupKey r, [⟨3, .writeAck r⟩])] }
     Arrives s 0 (.write r) ∧ s.openTxn (lineOf r.loc) = none ∧ s.dup r = some (.writeAck r)) ∧
    (home.slot 0).mon.armed = none ∧ (rq 3).aop ≤ 15 := by
  refine ⟨fun n hn => ⟨arrives_of ?_, atHome_of ?_, ?_, ?_, ?_, ?_, ?_⟩, ⟨arrives_of ?_, atHome_of ?_, ?_⟩, ⟨arrives_of ?_, atHome_of ?_, ?_⟩,
    ⟨arrives_of ?_, ?_, ?_⟩, ?_, ?_⟩ <;> first | (revert n; decide +kernel) | decide +kernel

theorem test_witness_answers :
    (∀ n ∈ [1, 2, 3], let r := rq n; let s := asked r [.readData r (bytesOf 8 1), .writeAck r, .atomicResult r (bytesOf 8 1), .refusal r .permRemote 0]
      Awaits s r r [1] ∧ r.fill = false ∧ r.opc = n ∧ Arrives s 0 (.readData r (bytesOf 8 1)) ∧ Arrives s 1 (.writeAck r) ∧
      Arrives s 2 (.atomicResult r (bytesOf 8 1)) ∧ Arrives s 3 (.refusal r .permRemote 0)) ∧
    (let r := { rq 1 with fill := true }; let s := asked r [.readData r (List.replicate 128 1)]
     Awaits s r r [1] ∧ r.src ≠ r.dst ∧ r.src < 8 ∧ r.stale = false ∧ 15 ∈ s.l2Ways r.src r.vf ∧ s.l2Line r.src (lineOf r.loc) 15 = none ∧
     Arrives s 0 (.readData r (List.replicate 128 1))) ∧
    (let r := { rq 1 with fill := true, stale := true }; let s := asked r [.readData r (List.replicate 128 1)]
     Awaits s r r [1] ∧ Arrives s 0 (.readData r (List.replicate 128 1))) ∧
    (let r := { rq 2 with blk := false }; let s := linked .none_ [r] [.writeAck r, .refusal r .permRemote 0]
     Arrives s 0 (.writeAck r) ∧ Arrives s 1 (.refusal r .permRemote 0) ∧ r.ch = 0 ∧ r.blk = false ∧ r.out = 0 ∧ s.holds r ∧
     s.slotOf r.uid = some 384 ∧ (s.slot 384).regs.deferred = none) ∧
    (∀ t ∈ [4009, 4010], let r := { rq 2 with tries := if t = 4009 then 2 else 3 }; let s := { asked r [] with tick := t }
      s.reqs.find? (·.id == 9) = some r ∧ r.src ≠ r.dst ∧ (r.sent + r.limit ≤ s.tick ↔ t = 4010) ∧ Awaits s r r [1] ∧
      r.opc ≠ 4 ∧ (s.slot r.slot).regs.csr.harness = false) := by
  refine ⟨fun n hn => ⟨?_, ?_, ?_, arrives_of ?_, arrives_of ?_, arrives_of ?_, arrives_of ?_⟩, ⟨?_, ?_, ?_, ?_, ?_, ?_, arrives_of ?_⟩,
    ⟨?_, arrives_of ?_⟩, ⟨arrives_of ?_, arrives_of ?_, ?_, ?_, ?_, ?_, ?_, ?_⟩, fun t ht => ⟨?_, ?_, ?_, ?_, ?_, ?_⟩⟩ <;>
    (try unfold Awaits) <;> (try unfold State.holds) <;> first | (revert n; decide +kernel) | (revert t; decide +kernel) | decide +kernel

/-- A packet of a die's own: an invalidation (4), an arrival (5) or a release (6). -/
def ctl (opc id src dst : Nat) (b : Option BarMsg) : Req := { rq opc with id := id, ch := 6, src := src, dst := dst, bar := b, vf := 0 }

/-- An invalidation on die 1 of a line that a free store in flight holds, of one that none does, held already, and come again; an open
transaction that waits for dies 1 and 2, or for die 2 alone. -/
theorem test_witness_invalidations :
    (let r := { rq 2 with blk := false }; let v := ctl 4 11 0 1 none; let l := lineOf v.loc
     (∀ q ∈ [[r], []], let s := linked .none_ q [.inval v]; Arrives s 0 (.inval v) ∧ FirstCtl s v 4 ∧ s.holdsInv v.dst l = false ∧ s.reqs = q) ∧
     r.src = v.dst ∧ r.opc = 2 ∧ r.bel = false ∧ lineOf r.loc = l ∧
     (let s := { linked .none_ [r] [.inval v] with dups := [(dupKey r, [⟨3, .writeAck r⟩])] }
      Arrives s 0 (.inval v) ∧ s.holdsInv v.dst l = true) ∧
     (let s := { linked .none_ [] [.inval v] with dups := [(dupKey v, [⟨3, .invalAck v⟩])] }
      Arrives s 0 (.inval v) ∧ s.holdsInv v.dst l = false ∧ v.ch = 6 ∧ s.dup v = some (.invalAck v))) ∧
    (∀ dN ∈ [4, 6], let d := BitVec.ofNat 8 dN; let l := lineOf 0x10040; let v1 := ctl 4 11 0 1 none; let v2 := ctl 4 12 0 2 none
      let s := { linked .none_ [rq 2, v1, v2] [.invalAck v2, .invalAck v1, .invalAck (ctl 4 13 0 2 none)] with txns := [⟨l, rq 2, d, false, none⟩] }
      Arrives s 0 (.invalAck v2) ∧ Arrives s 1 (.invalAck v1) ∧ Arrives s 2 (.invalAck (ctl 4 13 0 2 none)) ∧ s.reqs.map (·.id) = [9, 11, 12] ∧
      s.openTxn l = some ⟨l, rq 2, d, false, none⟩ ∧ d.getLsbD 2 = true ∧ (d.getLsbD 1 = false ↔ dN = 4) ∧ (d &&& ~~~(1#8 <<< 2) ≠ 0 ↔ dN = 6)) := by
  refine ⟨⟨fun q hq => ⟨arrives_of ?_, ?_, ?_, ?_⟩, ?_, ?_, ?_, ?_, ⟨arrives_of ?_, ?_⟩, arrives_of ?_, ?_, ?_, ?_⟩,
    fun d hd => ⟨arrives_of ?_, arrives_of ?_, arrives_of ?_, ?_, ?_, ?_, ?_, ?_⟩⟩ <;>
    (try unfold FirstCtl) <;> first | (revert q; decide +kernel) | (revert d; decide +kernel) | decide +kernel

/-- Twelve packets of read data on one link, and eleven. -/
theorem test_witness_receive_buffer :
    24 ≤ (linked .none_ [] (List.replicate 12 (.readData (rq 1) (List.replicate 32 1)))).flitsOn (0, 0, 2) ∧
    (linked .none_ [] (List.replicate 11 (.readData (rq 1) (List.replicate 32 1)))).flitsOn (0, 0, 2) < 24 ∧
    (∀ n ∈ [8, 9], let s := { home with rx := [(2, List.replicate n (.readData (rq 1) (List.replicate 32 1)))] }
      s.heldFlits (0, 0, 2) ≤ 16 ↔ n = 8) := by decide +kernel

/-- A team of three whose root counts two arrivals, and a waiter of it on die 1. -/
def teamed (got : Nat) (net : List Pkt) : State :=
  { linked (.hbar 3 1) [] net with
    nodes := [{ nodeOfRecord [] 5 0 5 (.host 0) [] false with ninst := 3 }], teams := [⟨0, 5, some 0, 3, got, [], []⟩]
    others := [(384, { base.ctx with wait := .hbar 3 1, launch := { base.ctx.launch with uid := 7, nid := 5, vf := 0, team := true } })] }

theorem test_witness_team_packets :
    (∀ p ∈ [(0, 3, 1), (2, 3, 1), (1, 3, 1), (2, 2, 1)], let r := ctl 5 11 1 0 (some ⟨5, BitVec.ofNat 4 p.2.1, p.2.2⟩)
      let s := teamed p.1 [.barArrival r]
      Arrives s 0 (.barArrival r) ∧ FirstCtl s r 5 ∧ s.teamSize 0 5 = some 3 ∧ (s.team 0 5).got = p.1 ∧ (s.team 0 5).phase = 3) ∧
    (let r := ctl 6 11 0 1 (some ⟨5, 3, 0⟩); let s := teamed 0 [.barRelease r]; let c := s.slot 384
     Arrives s 0 (.barRelease r) ∧ FirstCtl s r 6 ∧ s.windows = [] ∧ slotDie 384 = 1 ∧ c.bound = true ∧ c.launch.vf = 0 ∧ c.launch.team32 = 5 ∧
     c.wait = .hbar 3 1 ∧ pitchNp (s.pitchReg 1 2) = 0) ∧
    (let s := { home with homeLines := [(lineOf 0x10040, true)] }
     s.Numbered ∧ tabFind (lineOf 0x10040) s.homeLines = some true ∧ locKind (lineOf 0x10040 * 128) = .dram ∧
     paStack (lineOf 0x10040 * 128) < 12) := by
  refine ⟨fun p hp => ⟨arrives_of ?_, ?_, ?_, ?_, ?_⟩, ⟨arrives_of ?_, ?_, ?_⟩, numbered_of ?_ ?_ ?_, ?_⟩ <;>
    (try unfold FirstCtl) <;> first | (revert p; decide +kernel) | decide +kernel

/-! ### Witnesses: events of the base dies, the copy engines and the barrier units -/

/-- A request of a kind to stack 0, with a tag, as the header of its kind has it (Table 13-2). -/
def bq (kind : Nat) (who : BdWho) : BdReq :=
  { bdRequest kind 0x10040 0 0 0 0x40 who with
    num := 9, tag := some 7, layout := if kind = 5 then 1 else 0, data := bytesOf 32 (2 ^ 255 + 77), bmask := if kind = 2 then 0x80000001 else 0,
    opnd := 5, cmp := 6, rows := [(0x10040, 0x40), (0x10060, 0x60)] }

/-- A machine with one request at stack 0, at tick 1700. -/
def served (r : BdReq) : State :=
  { linked (.remote 2 [1] (rq 1)) [] [] with
    tick := 1700, homeLines := [(lineOf 0x10080, true)], memStacks := home.memStacks.setIfInBounds 0 { Stack.reset with queue := [r] } }

/-- One and two sectors to read, one written and one written back, masked writes with no byte, with the first and the last one, and with all,
atomics and a compare-and-swap that fails and one that holds, a drop, a tile, and a diagnostic read; and the same of a poisoned sector. -/
theorem test_witness_base_die_requests :
    (∀ r ∈ [bq 0 .none_, { bq 0 .none_ with nsect := 1 }, bq 1 .none_, bq 1 (.writeBack 5), bq 1 (.clean 5 0 7), bq 2 .none_, { bq 2 .none_ with bmask := 0 },
        { bq 2 .none_ with bmask := BitVec.allOnes 32 }, bq 3 .none_, { bq 3 .none_ with aop := 15 },
        { bq 3 .none_ with aop := 15, cmp := 0, asz := true }, bq 4 .none_, bq 5 .none_, { bq 5 .none_ with hurt := 2 }, bq 6 .none_], let s := served r
      (s.stack 0).queue[0]? = some r ∧ paStack r.loc = 0 ∧ r.ok = true ∧ r.lost = false ∧ r.reply = none ∧ s.bdBusy r = false ∧ r.tag = some 7 ∧
      tabFind (tagKeyOf r.pch r.wq 7) (s.stack 0).held = none ∧ r.loc % 32 = 0 ∧ r.loc % 128 + 32 * (r.nsect + 1) ≤ 128 ∧ r.data.length = 32 ∧
      s.scrubPending r.loc = false ∧ s.bdPoisoned r.loc r.nsect = false ∧ s.cached (lineOf r.loc) = false ∧ (s.stack 0).mscPoison = []) ∧
    ((bq 0 .none_).kind = 0 ∧ (bq 1 .none_).kind = 1 ∧ (bq 2 .none_).kind = 2 ∧ (bq 3 .none_).kind = 3 ∧ (bq 4 .none_).kind = 4 ∧ (bq 5 .none_).kind = 5 ∧
      (bq 6 .none_).kind = 6) ∧
    (∀ k ∈ [2, 3], let s := (served (bq k .none_)).updStack 0 fun x => { x with poison := [0x10040 / 32] }
      (s.stack 0).queue[0]? = some (bq k .none_) ∧ s.bdPoisoned 0x10040 0 = true ∧ s.bdBusy (bq k .none_) = false) ∧
    (∀ x ∈ [⟨8, 0, 0, bytesOf 32 3⟩, ⟨11, 2, 0, []⟩, ⟨11, 3, 0, []⟩], let r := { bq 0 (.word 384 7 0) with reply := some x }; let s := served r
      (s.stack 0).queue[0]? = some r ∧ (s.slot 384).launch.uid = 7 ∧ (s.slot 384).wait = .remote 2 [1] (rq 1) ∧ (rq 1).id = r.num) ∧
    (∀ x ∈ [⟨9, 0, 0, []⟩, ⟨11, 3, 0, []⟩], let r := { bq 1 (.writeBack (lineOf 0x10080)) with loc := 0x10080, reply := some x }; let s := served r
      (s.stack 0).queue[0]? = some r ∧ s.openTxn (lineOf 0x10080) = none ∧ lineOf r.loc = lineOf 0x10080 ∧
      (tabFind (lineOf 0x10080) s.homeLines).isSome = true) ∧
    (∀ p ∈ [(0, 2), (0, 3), (1, 3)], let r := { bq 0 (.word 384 7 0) with sent := p.1, tries := p.2 }; let s := served r
      (s.stack 0).queue[0]? = some r ∧ (r.sent + 1700 ≤ s.tick ↔ p.1 = 0) ∧ (rq 1).id = r.num) := by
  refine ⟨?_, ?_, ?_, ?_, ?_, ?_⟩ <;> decide +kernel

/-- Back-off at its last tick and after it; a refresh due since 3,017 ticks after the last one's end; the first, and the last, granule of a
frame, already zeroed or not. -/
theorem test_witness_base_die_time :
    (∀ t ∈ [1700, 1701], let s := { home with tick := 1700, memStacks := home.memStacks.setIfInBounds 11 { Stack.reset with backoff := [(3 * 16 + 5, t)] } }
      tabFind (3 * 16 + 5) (s.stack 11).backoff = some t) ∧
    (let s := { home with tick := 4017, memStacks := home.memStacks.setIfInBounds 11 { Stack.reset with fresh := [(3, 1000)], rows := [(50, 1), (64, 2)] } }
     (s.stack 11).fresh = [(3, 1000)] ∧ 1000 + 3017 ≤ s.tick) ∧
    (∀ t ∈ [5056, 5057], let s := { home with tick := t, resetTick := 1800 }; tabFind 63 (s.stack 11).fresh = none ∧
      (s.resetTick + 51 * 63 + 4 * 11 ≤ s.tick ↔ t = 5057)) ∧
    (∀ f ∈ [(⟨16, 2, 0, []⟩ : Scrub), ⟨16, 2, 1, [17]⟩], let s := { home with memStacks := home.memStacks.setIfInBounds 0 { Stack.reset with scrub := [f] } }
      (s.stack 0).scrub = [f] ∧ (f.next + 1 < f.count ↔ f.next = 0) ∧ (f.base + f.next ∈ f.done ↔ f.next = 1)) := by decide +kernel

/-- A copy of 64 bytes of DRAM to scratchpad offset 0x1000, on channel 3, that has moved nothing yet. -/
def cp (started : Bool) : Copy :=
  { tmpl := 4, pc := 0, serial := 0, region := 0, out := false, bel := false, layout := 0, scope := 2, memBuf := 0, memOff := 0x40, memStr := 0, memCreg := 2,
    memS := false, scrBuf := 1, scrOff := 0x1000, scrStr := 0, rows := 1, rowB := 64, targets := [base.ctx.launch.uid], barLoc := scr 0x200, barDie := 0, num := 1, sect := 0,
    owed := 2, started := started, failed := false, paused := none, acks := 0, tiles := [], ask := false, got := [],
    held := none, barBuf := 1, barOff := 0x200, barCreg := 1, scrCreg := 1 }

def copying (started : Bool) (insect : Nat) : State :=
  let s := objM 1 fun c => c.setChan 3 { copies := [cp started], fault := none }
  { s with
    mem := memWrite s.mem ((countFrom (scr 0x200) 16).zip (bytesOf 16 (3 + 1 * 2 ^ 8 + 2 * 2 ^ 24 + insect * 2 ^ 40))), homeLines := home.homeLines,
    tick := 16, dies := s.dies.setIfInBounds 0 { Die.reset with ceQueue := [3], ceGrant := 0 } }

theorem test_witness_copy_events :
    (let s := copying false 2; (s.die 0).ceQueue = 3 :: [] ∧ s.activeCopy (3 / 4) (3 % 4) = some (cp false) ∧ (s.slot 0).copyBlocked (cp false) = false ∧
     (s.die 0).ceGrant = 0 ∧ s.engines 0 < 6 ∧ s.arrFree 0 = false ∧ (s.die 0).arrGrant ≠ s.tick) ∧
    (let s := copying true 2; let p := cp true; let a := 0x10040
     s.activeCopy 0 3 = some p ∧ p.sect < p.sectors ∧ p.layout = 0 ∧ p.targets = [(s.slot 0).launch.uid] ∧ (s.slot 0).bound = true ∧
     s.slotOf (s.slot 0).launch.uid = some 0 ∧ s.copyAsked 0 3 = false ∧
     (match s.sectorAt (s.slot 0) p (p.memAt p.sect) with
      | .runs en l => decide (l = [⟨a, p.memAt p.sect, 32⟩]) && !en.chk && decide (en.ty ≠ .diagnostic)
      | _ => false) = true ∧
     locKind a = .dram ∧ a % 128 + 32 ≤ 128 ∧ homeDie a = slotDie 0 ∧ s.openTxn (lineOf a) = none ∧ s.linePoison = [] ∧ p.tiles = [] ∧
     (tabFind (lineOf a) s.homeLines).isSome = true ∧ s.scrubPending a = false ∧ p.scrAt p.sect + 32 ≤ (s.slot 0).scrBytes ∧
     locKind (scr 0x1000) = .scratch ∧ locKind p.barLoc = .scratch ∧ (s.obj p.barLoc).insect = 2 ∧ p.owed = 2) := by decide +kernel

/-- A window of two waiters at pitches 1 and 2 before its last pitch but one, and at its last. -/
def window (next : Nat) : Window :=
  { team := false, loc := scr 0x200, vf := 0, die := 0, lo := 2 * 2 ^ 61 + 5 * 2 ^ 10 + 4, hi := 0, phase := 2, st := 3, started := true, next := next,
    last := 10, waiters := [⟨384, 7, 1⟩, ⟨0, 1, 2⟩] }

theorem test_witness_pitches :
    ∀ p ∈ [(1, 13), (1, 14), (2, 15)], let w := window p.1; let s := { linked (.bar (scr 0x200) 2) [] [] with tick := p.2, windows := [w] }
      s.windows[0]? = some w ∧ w.started = true ∧ (s.tick < w.last + pitchGap w.lo w.hi w.next ↔ p.2 = 13) ∧ (w.next < pitchNp w.lo ↔ p.1 = 1) ∧
      locKind w.loc = .scratch ∧ (s.slot 384).launch.uid = 7 ∧ (s.slot 384).wait = .bar w.loc w.phase := by decide +kernel

/-! ### Witnesses: queues and scheduling -/

/-- Bytes of a number at a location. -/
def cells (a n v : Nat) : List (Nat × Byte) := (countFrom a n).zip (bytesOf n v)

/-- A queue of four entries at host address 0x1000 with HEAD 3, which holds one entry; its launch record is at 0x2000 and its capability
table at 0x3000. -/
def queued (entry record : Nat) : State :=
  { base with
    mem := memWrite base.mem (cells (locHost (0x1000 + 192)) 24 entry ++ cells (locHost 0x2000) 56 record ++
      cells (locHost 0x3000) 16 (mkCap 0 15 true false 0 0x10000).toNat)
    queues := [(queueKey 0 0, ⟨0x1000, 4, 0, 3⟩)], nextUid := 100
    nodes := [{ nodeOfRecord [] 5 0 9 (.host 0x4000) [] false with ninst := 2 }] }

/-- A NODE entry for id 8 with so many predecessors, and a MAILBOX entry for node 9 with a mailbox number. -/
def nodeEntry (deps : Nat) : Nat := 1 + deps * 2 ^ 16 + 8 * 2 ^ 32 + 0x2000 * 2 ^ 64
def mboxEntry (box : Nat) : Nat := 2 + box * 2 ^ 8 + 9 * 2 ^ 32 + 0xFFFFFFFF * 2 ^ 64 + 77 * 2 ^ 128

/-- A launch record: two instances, priority 3, a table of one capability at 0x3000, completion at 0x4000. -/
def recordWords : Nat := 1 + 0xFFFFFFFF * 2 ^ 96 + 2 * 2 ^ 128 + 3 * 2 ^ 160 + 0x3000 * 2 ^ 256 + 1 * 2 ^ 320 + 0x4000 * 2 ^ 384

/-- Slot 0 runs a member of node 9. -/
def boxed (b : Nat) : State := (queued (mboxEntry b) 0).updCtx fun c => { c with launch := { c.launch with nid := 5 } }

theorem entry_of {s : State} (h : s.queue 0 0 = ⟨0x1000, 4, 0, 3⟩) (h1 : s.sqStopped 0 = false) :
    s.sqEntry 0 0 = some (s.hostBytes 0x10C0 64) := by
  simp [State.sqEntry, h, h1]

theorem test_witness_queues :
    (∀ v ∈ [1, 2, 3, 4], let x : Queue := ⟨0, 4, 1, 3⟩; x.size ≠ 0 ∧ (x.passes v = true ↔ v = 3 ∨ v = 4)) ∧
    (∀ d ∈ [0, 1], let s := queued (nodeEntry d) recordWords
      ∃ e, s.sqEntry 0 0 = some e ∧ nodeEntryOk e = true ∧ let id := BitVec.ofNat 32 (fieldAt e 4 4); let rec_ := s.hostBytes (fieldAt e 8 8) 256
        fieldAt rec_ 0x16 1 = 0 ∧ s.nodes.all (fun m => m.nid != s.nextUid && !(m.vf == 0 && m.node == id)) = true ∧
        fieldAt rec_ 0x28 2 = 1 ∧ capEntryOk (BitVec.ofNat 128 (numOf (s.hostBytes (fieldAt rec_ 0x20 8) 16))) = true ∧
        (s.vf 0).cancels.contains id = false ∧ fieldAt e 2 2 = d) ∧
    (∀ b ∈ [0, 15], let s := boxed b
      ∃ e, s.sqEntry 0 0 = some e ∧ nodeEntryOk e = false ∧ mboxEntryOk e = true ∧ fieldAt e 1 1 = b ∧ fieldAt e 8 8 = 0xFFFFFFFF ∧
        (∃ n, s.liveNode 0 (BitVec.ofNat 32 (fieldAt e 4 4)) = some n ∧ n.nid = (s.slot 0).launch.nid) ∧ (s.slot 0).bound = true) ∧
    (let s := queued 3 0; ∃ e, s.sqEntry 0 0 = some e ∧ nodeEntryOk e = false ∧ mboxEntryOk e = false) := by
  refine ⟨by decide +kernel, fun d hd => ⟨(queued (nodeEntry d) recordWords).hostBytes 0x10C0 64, entry_of rfl rfl, ?_, ?_, ?_, ?_, ?_, ?_, ?_⟩,
    fun b hb => ⟨(boxed b).hostBytes 0x10C0 64, entry_of rfl rfl, ?_, ?_, ?_, ?_,
      ⟨{ nodeOfRecord [] 5 0 9 (.host 0x4000) [] false with ninst := 2 }, ?_, ?_⟩, ?_⟩,
    ⟨(queued 3 0).hostBytes 0x10C0 64, entry_of (by decide +kernel) (by decide +kernel), by decide +kernel, by decide +kernel⟩⟩
  all_goals first | (revert d; decide +kernel) | (revert b; decide +kernel)

/-- A mailbox entry for a member that has a frame. -/
theorem test_witness_saved_mailbox :
    let m := member fun l => { l with nid := 5 }
    let s := { boxed 15 with members := [(50, m)], frames := [(50, ⟨0, 7, 0, []⟩)] }
    s.sqEntry 0 0 = some (s.hostBytes 0x10C0 64) ∧ nodeEntryOk (s.hostBytes 0x10C0 64) = false ∧ mboxEntryOk (s.hostBytes 0x10C0 64) = true ∧
      (s.liveNode 0 (BitVec.ofNat 32 (fieldAt (s.hostBytes 0x10C0 64) 4 4))).map (·.nid) = some m.launch.nid ∧
      tabFind 50 s.members = some m ∧ tabFind 50 s.frames = some ⟨0, 7, 0, []⟩ :=
  ⟨entry_of rfl rfl, by decide +kernel, by decide +kernel, by decide +kernel, rfl, rfl⟩

/-- A kernel header of four words in the code object of buffer 0. -/
def headerNat : Nat := 0x484B5644 + 1 * 2 ^ 32 + Config.stamp.toNat * 2 ^ 64 + 0x80 * 2 ^ 192 + 4 * 2 ^ 224 + 2 * 2 ^ 384 +
  0xFFFFFFFF * 2 ^ 416 + 0xFFFFFFFF * 2 ^ 448

/-- Node 9, in ready order, whose code object is as given. -/
def nodeB (cap : BitVec 128) (bad : Bool) : Node :=
  { nodeOfRecord [] 5 0 9 (.host 0x4000) [cap] false with ninst := 2, entry := 0xFFFFFFFF, order := some 4, bad := bad }
def readying (cap : BitVec 128) (bad : Bool) : State :=
  { base with
    mem := memWrite base.mem (cells tinyPage 64 headerNat), nextUid := 100,
    nodes := [nodeB cap bad] }

theorem test_witness_ready_nodes :
    (let s := readying (mkCap 0 15 true false 0 0x10000) false
     ∃ n, s.nodes.find? (fun m => m.vf == 0 && m.node == 9 && m.order.isSome && !m.made) = some n ∧ n.ninst = 2 ∧
      ∃ hdr, s.prepare n = .launch hdr none ∧ fieldAt hdr 0x30 4 = 2) ∧
    (let s := readying 0 true
     ∃ n, s.nodes.find? (fun m => m.vf == 0 && m.node == 9 && m.order.isSome && !m.made) = some n ∧ ∃ r, s.prepare n = .ends r) ∧
    (let s := { readying (mkCap 0 15 true false 0 0x10000) false with
        mem := memWrite base.mem (dwordCells tinyRoot (0x8000000000000000 ||| BitVec.ofNat 64 tinyPage)) }
     ∃ n, s.nodes.find? (fun m => m.vf == 0 && m.node == 9 && m.order.isSome && !m.made) = some n ∧ ∃ b o, s.prepare n = .wait b o) := by
  refine ⟨⟨nodeB (mkCap 0 15 true false 0 0x10000) false,
      by decide +kernel, by decide +kernel, bytesOf 128 headerNat, by decide +kernel, by decide +kernel⟩,
    ⟨nodeB 0 true, by decide +kernel, Report.plain 3, by decide +kernel⟩,
    ⟨nodeB (mkCap 0 15 true false 0 0x10000) false,
      by decide +kernel, 0, 0, by decide +kernel⟩⟩

/-- The machine of sched with slot 0's context changed; contexts of priority 63 run in the other slots of its cluster, and no other cluster has
a partition. -/
def crowded (f : Launch → Launch) (g : Ctx → Ctx) : State :=
  let s := sched f
  { s with
    ctx := g s.ctx
    others := (List.range 31).map fun i => (i + 1, { Ctx.tiny with launch := { Ctx.tiny.launch with uid := 100 + i, nid := 60, prio := 63 } })
    dies := (s.dies.map fun (d : Die) => { d with partmap := BitVec.allOnes 48 }).setIfInBounds 0
      { Die.reset with partmap := BitVec.allOnes 48 <<< 4, trainstat := Vector.replicate 2 1 } }

/-- A context whose bind record is in a state, with a start code and a saved monitor. -/
def inState (st : BindSt) (start : BitVec 2) (c : Ctx) : Ctx := { c with bind := { c.bind with st := st, start := start } }

/-- The same with slot 1 free. -/
def open_ : State := { crowded id id with others := (crowded id id).others.drop 1 }

/-- Nothing can be bound before training; member 50 goes to slot 1. -/
theorem test_witness_binds :
    (∀ i, i < base.btCount → (base.entry (BitVec.ofNat 20 i)).v = true) ∧ base.nextBind = none ∧
      ∃ s1, open_.nextBind = some (1, 50, s1) := by
  refine ⟨by decide +kernel, by simp [State.nextBind, show base.trained = false by decide +kernel], ?_⟩
  have h : open_.nextBind.map (fun x => (x.1, x.2.1)) = some (1, 50) := by decide +kernel
  obtain ⟨y, hy, e⟩ := Option.map_eq_some_iff.mp h
  obtain ⟨a, b, d⟩ := y
  simp only [Prod.mk.injEq] at e
  exact ⟨d, by rw [hy, e.1, e.2]⟩

theorem test_witness_dispatch : ∀ b ∈ [0, 1], let s := { sched id with ctx := inState .bind b base.ctx }
    s.mayDispatch 0 = true ∧ (s.slot 0).regs.arr.mode = 0 ∧ (s.slot 0).bind.start = b := by
  decide +kernel

theorem test_witness_preemption : let s := crowded (fun l => { l with prio := 5 }) id
    s.nextVictim = some (0, 50) ∧ (s.slot 0).launch.team = false ∧ (s.slot 0).bind.st = .run := by
  refine ⟨?_, ?_, ?_⟩ <;> decide +kernel

/-- A member of a team waits while another of its team waits for a page; slot 0 gives way to member 50 once its quantum has passed. -/
theorem test_witness_quantum :
    (let m := member fun l => { l with team := true }; let s := { crowded id id with members := [(50, m), (51, { m with waiting := some (0, 0) })] }
     s.ready.find? (·.1 == 50) = some (50, m) ∧ s.quantumVictim (50, m) = none) ∧
    (let s := { crowded id id with tick := 8500000 }
     s.ready.find? (·.1 == 50) = some (50, member id) ∧ s.quantumVictim (50, member id) = some 0 ∧ s.trained = true) := by
  exact ⟨⟨rfl, by decide +kernel⟩, rfl, by decide +kernel, by decide +kernel⟩

/-- A context that may be saved, one that has halted as the first or the last of its node, and one that faulted. -/
theorem test_witness_endings :
    (let s := baseC (inState .save 0); let c := s.slot 0
     s.saveReady 0 = true ∧ s.ropeRunning 0 = [] ∧ c.launch.team = false ∧ c.regs.hbarP = none ∧ c.regs.arr.held = none ∧
     c.regs.arr.mmaFlags = none ∧ c.regs.arr.part = 0 ∧
     (s.vf c.launch.vf).tdisp ≠ .error ∧ c.saveWhy ≠ .pageSwap) ∧
    (((baseC (inState .saved 0)).slot 0).bind.st = .saved ∧ ((baseC (inState .faulted 0)).slot 0).storing = false) ∧
    (let s := baseC (inState .halted 0); (s.slot 0).bind.st = .halted ∧ s.nodeOf (s.slot 0).launch.nid = none) ∧
    (∀ p ∈ [(BindSt.halted, 0), (.halted, 1), (.faulted, 0)], let n := { nodeB 0 true with ended := p.2 }
      let s := { baseC (fun c => { inState p.1 0 c with launch := { c.launch with nid := 5 }, faultRec := some (.brk, 3, 4) }) with nodes := [n] }
      (s.slot 0).bind.st = p.1 ∧ s.nodeOf (s.slot 0).launch.nid = some n ∧ n.done = .host 0x4000 ∧ n.succ = [] ∧
      (n.ended + 1 < n.ninst.toNat ↔ p.2 = 0) ∧ (p.1 = .faulted → (s.firstFault 5).isSome = true)) ∧
    (let m := { member id with waiting := some (0, 0x40) }; let s := { base with members := [(50, m)] }; let e := s.entry (BitVec.ofNat 20 0)
     tabFind 50 s.members = some m ∧ s.leafAddr (tableLevels e.pageBits e.length 6 1) e.ptroot (e.pageNo 0x40) = some tinyRoot) := by
  refine ⟨⟨?_, ?_, ?_, ?_, ?_, ?_, ?_, ?_, ?_⟩, ?_, ?_, fun p hp => ⟨?_, ?_, ?_, ?_, ?_, ?_⟩, ?_, ?_⟩
  all_goals first | decide +kernel | (revert p; decide +kernel)

/-! ### Witnesses: privileged registers, interfaces, faults, freeze, debug and resets -/

/-- base with its package, or VF 0, changed; buffer 0, of VF 0, uses key slot 5. -/
def pkgM (f : Package → Package) : State := { base with pkg := f base.pkg }
def vfM (x : VfState) : State :=
  { base with vfs := [(0, x)], mem := memWrite base.mem (dwordCells (tinyTable + 16) (BitVec.ofNat 64 (tinyRoot + 5))) }
def vfIn (t : Tdisp) : State := vfM { VfState.zero with tdisp := t }

theorem test_witness_invalidation_keys :
    ((pkgM fun p => { p with extBusy := true }).pkg.extBusy = true ∧ base.pkg.extBusy = false) ∧
    (∀ p ∈ [(0, 0), (1, 0), (0, 0x4000000000000000)], let s := { pkgM (fun p' => { p' with extBusy := true, ext0 := BitVec.ofNat 64 (p.2 + p.1 * 2 ^ 42) }) with reqs := [rq 1] }
      ((s.pkg.ext0.getLsbD 62 = true ∨ (rq 1).buf = s.pkg.ext0.extractLsb' 42 20) ↔ p.1 = 0) ∧ rq 1 ∈ s.reqs) ∧
    ((vfIn .configUnlocked).bufs.all (fun b => !(((vfIn .configUnlocked).entry b).key == 5) || !(vfIn .configUnlocked).locked ((vfIn .configUnlocked).entry b).vf) = true ∧
      (vfIn .run).bufs.all (fun b => !(((vfIn .run).entry b).key == 127)) = true) ∧
    (base.usesDieScratch 7 = false ∧ (base.die 7).waysplit.toNat = 0) := by
  refine ⟨⟨?_, ?_⟩, fun p hp => ⟨?_, ?_⟩, ⟨?_, ?_⟩, ?_, ?_⟩
  all_goals first | decide +kernel | (revert p; decide +kernel)

/-- No access is under way in base, so VF 0 can be reset or stopped at once; a VF whose stop waits holds changes back. -/
theorem test_witness_vf_reset :
    (base.reqs = [] ∧ base.accessing (fun _ => true) = false ∧ (∀ st, (base.stack st).queue = []) ∧ (base.vf 0).later = [] ∧
      (base.vf 0).reset ≠ some true) ∧
    (∀ v, ((vfIn .run).vf v).reset ≠ some true) ∧ ((vfM { VfState.zero with tdisp := .error }).vf 0).tdisp = .error := by
  refine ⟨⟨rfl, by decide +kernel, fun k => ?_, rfl, by decide +kernel⟩, fun v => ?_, by decide +kernel⟩
  · by_cases h : k < 12
    · revert k; decide +kernel
    · have e : base.memStacks[k]? = none := Vector.getElem?_eq_none (by omega)
      rw [State.stack, e]; rfl
  show (tabGet VfState.zero (vfIn .run).vfs v).reset ≠ some true
  simp [vfIn, vfM, tabGet, tabFind]
  split <;> simp [VfState.zero]

theorem test_witness_partitions :
    ((vfIn .configUnlocked).locked 0 = false ∧ (vfIn .error).locked 0 = false ∧ (vfIn .configLocked).locked 0 = true ∧ (vfIn .run).locked 0 = true) ∧
    (let s := vfIn .run; s.vfPartition 0 = 0 ∧ (∀ j, j < 64 → s.locked j = true → s.vfPartition j ≠ 11)) ∧
    (let s := { base with ctx := Ctx.free }; s.modeChg = none ∧ s.reqs = [] ∧ s.slots.all (fun x => !x.2.bound) = true) ∧
    (base.modeChg = none ∧ slotDie 0 = 0 ∧ slotCluster 0 < dieCores 0 / 16 ∧ base.clusterPart 0 0 = 0 ∧ (base.slot 0).bind.st = .run ∧
      (base.slot 0).launch.team = false) := by
  refine ⟨?_, ⟨?_, ?_⟩, ?_, ?_⟩ <;> decide +kernel

theorem test_witness_interfaces :
    ((vfIn .configUnlocked).vf 0).tdisp = .configUnlocked ∧ (vfIn .configUnlocked).pkg.partharn.getLsbD ((vfIn .configUnlocked).vfPartition 0) = false ∧
    ((vfIn .configLocked).vf 0).tdisp = .configLocked ∧ ((vfM { VfState.zero with tdisp := .run, session := true }).vf 0).session = true ∧
    (let s := pkgM fun p => { p with partharn := 1 }; s.pkg.partharn.getLsbD (s.vfPartition 0) = true) ∧
    base.spdmUp = true ∧ ({ base with spdmUp := false }).spdmUp = false ∧ ((vfM { VfState.zero with reset := some true }).vf 0).reset = some true := by
  decide +kernel

theorem test_witness_freeze_debug :
    (∀ t ∈ [4, 5], let s := { pkgM (fun p => { p with freezeArm := true, freezeFrom := 5 }) with tick := t }
      (s.pkg.freezeArm = true ∧ s.pkg.freezeFrom ≤ s.tick ∧ s.pkg.frozen = false) ↔ t = 5) ∧
    ((pkgM fun p => { p with frozen := true }).pkg.frozen = true ∧ Move.issue 0 ≠ .event .coldReset ∧ Move.issue 0 ≠ .event .warmReset) ∧
    ((base.slot 0).bound = true ∧ ((baseC fun c => { c with halt := true }).slot 0).halt = true ∧
      ((baseC fun c => { c with halt := true }).slot 0).wait = .none_) := by
  refine ⟨by decide +kernel, ⟨by decide +kernel, by simp, by simp⟩, by decide +kernel⟩

/-- The dword before the entry of buffer 0, its own first dword, and the last one. -/
theorem test_witness_table_changes :
    (∀ pa ∈ [tinyTable - 8, tinyTable + 128], let s := vfIn .run
      s.bufs.all (fun b => !rangesMeet (s.btBase + 64 * b.toNat) 64 pa 8) = true) ∧
    (∀ pa ∈ [tinyTable, tinyTable + 56], ∀ x ∈ [Tdisp.run, .error], let s := vfIn x
      0 ∈ s.bufs ∧ (s.entry 0).v = true ∧ rangesMeet (s.btBase + 64 * 0) 64 pa 8 = true ∧ (s.entry 0).vf = 0 ∧ (s.vf 0).tdisp = x ∧
      s.bufs.all (fun b => b == 0 || !rangesMeet (s.btBase + 64 * b.toNat) 64 pa 8)) := by
  refine ⟨by decide +kernel, fun pa h x hx => ⟨?_, ?_, ?_, ?_, ?_, ?_⟩⟩ <;> (revert x pa; decide +kernel)

/-! ### Witnesses: race records, invalidations, the device tree -/

/-- base with CHK set in buffer 0, whose page slot 2's member 5 has written in its region 3. -/
def checked : State :=
  let c := { Ctx.tiny with launch := { Ctx.tiny.launch with uid := 5 }, regs := { Ctx.tiny.regs with csr := { Csrs.zero with regionno := 3 } } }
  { base with mem := memWrite base.mem (dwordCells tinyTable 0x880F000000010000), others := [(2, c)],
              races := [(0x10040 / 32, ⟨some ⟨2, 5, 0, 3, false⟩, none, none, false⟩)] }

/-- A stamp of member 5 of slot 2, and one of slot 0's member. -/
def st5 (region : BitVec 16) (marked : Bool) : Stamp := ⟨2, 5, 0, region, marked⟩
def st0 (marked : Bool) : Stamp := ⟨0, 0, 0, 0, marked⟩

theorem test_witness_races :
    checked.live (st5 3 false) = true ∧ checked.live (st5 2 false) = false ∧
    (∀ m ∈ [true, false], ∀ w ∈ [true, false], let x : RaceAcc := ⟨st0 m, !w, w⟩; let t := st5 3 (!m)
      ¬ (t.slot = x.stamp.slot ∧ t.uid = x.stamp.uid) ∧ checked.live t = true ∧ ¬ (t.marked = true ∧ x.stamp.marked = true)) ∧
    (let r : RaceRec := ⟨none, none, some (st5 2 false), true⟩
     ∀ t, r.r0 = some t ∨ r.r1 = some t → checked.live t = false ∧ ¬ (t.slot = (st0 false).slot ∧ t.uid = (st0 false).uid)) ∧
    0x10040 % 32 + 8 ≤ 32 ∧ 0x10058 % 32 + 8 ≤ 32 := by
  refine ⟨by decide +kernel, by decide +kernel, by decide +kernel, ?_, by decide, by decide⟩
  intro r t h
  rcases h with h | h
  · cases h
  · cases h; decide +kernel

/-- A store by slot 0 meets the writer stamp of slot 2. -/
theorem test_witness_race_store :
    let b : FmtM := { m0 with d := 3, c := 2 }
    Starts (issueM 0x47 h0 b [b.d]) checked checked.ctx ∧
    (∃ w en, checked.access checked.ctx b.c b.off.toInt 8 rWrite 1 .write = .ok (w, en, countFrom 0x10040 8) ∧ en.ty ≠ .diagnostic ∧
      en.chk = true) ∧
    homeDie 0x10040 = slotDie checked.cur ∧ (∀ r ∈ checked.reqs, r.id ≠ checked.nextReq) ∧
    checked.raceTest 0x10040 8 ⟨⟨checked.cur, checked.ctx.launch.uid, checked.ctx.regs.saves, checked.ctx.regs.csr.regionno, false⟩, false, true⟩ =
      some (.raceWW, 2) := by
  refine ⟨starts_of (by decide +kernel), ?_, by decide +kernel, by decide +kernel, by decide +kernel⟩
  have h : (match checked.access checked.ctx 2 0x40 8 rWrite 1 .write with
    | .ok (_, en, l) => decide (l = countFrom 0x10040 8) && decide (en.ty ≠ .diagnostic) && en.chk
    | .error _ => false) = true := by decide +kernel
  split at h
  · rename_i w en l e
    simp only [Bool.and_eq_true, decide_eq_true_eq] at h
    exact ⟨w, en, h.1.1 ▸ e, h.1.2, h.2⟩
  · exact absurd h (by decide)

/-- An entry that a memory port holds is met as it was until its invalidation is complete, and then as it stands (R249). -/
theorem test_entry_after_invalidation :
    let s : State := { base with
      pkg := { base.pkg with extBusy := true }, dies := base.dies.setIfInBounds 0 { Die.reset with entries := [⟨0, ⟨0, 0, 0, 0, true⟩, 0, 0⟩] } }
    (s.entryFor (.member 0) 0).v = false ∧ s.extWaits = false ∧ (s.extDone.entryFor (.member 0) 0).v = true := by decide +kernel

/-- Table 16-5: 8 dies, 7 scopes, 8 pitch nodes, 12 stacks, the engines and the peers; M-dies have 12 clusters and B-dies 4; SCOPETAB3 on die 0
takes in dies 0, 1, 3 and 4 (Table 8-1). -/
theorem test_device_tree :
    State.reset.deviceTree.length = 37 ∧ (State.reset.deviceTree.take 8).map (fun n => n.children.length) = [12, 12, 12, 12, 4, 4, 4, 4] ∧
    ((State.reset.deviceTree[11]?).map (·.props)) = some [("dvorik,scopetab", .cells [0x1B, 0x0FFFFFFF])] := by decide +kernel

/-- Table 15-9: v25, v26 and scratch granule 1 are dirty, of 96 KiB and 8 KiB in shape 3; and the first save writes the whole frame. -/
theorem test_second_save :
    let d : Dirty := { Dirty.zero with vregs := setBits (setBits 0 25 1 1) 26 1 1, granules := setBits 0 1 1 1 }
    let c : Ctx := { Ctx.free with launch := { Launch.zero with vregKiB := 96, scrKiB := 8 }, regs := { Regs.zero with shape := 3, dirty := d, image := true } }
    c.frameWrites = [(0, 0x8400), (0xE800, 0x400), (0x1AD00, 0x100), (0xEC00, 0x400), (0x1AE00, 0x100), (0x20500, 0x100)] ∧
    ((c.frameWrites.map (·.2)).foldl (· + ·) 0) = 36608 ∧
    ({ c with regs := { c.regs with image := false } }).frameWrites = [(0, 140288)] := by decide +kernel

/-- Table 9-5: the header of an invalidation from die 0 to die 2 has OPC 0x04, CLS 0, CH 6 and PART 3; it is taken, and one with OPC 0x07 or CLS 2
is not (R191). -/
theorem test_packet_header :
    let h := (Pkt.inval (ctlReq 4 0 2 0x180 0 3 none)).header 1
    headerTaken h = true ∧ (h.extractLsb' 252 4, h.extractLsb' 250 2, h.extractLsb' 249 1, h.extractLsb' 240 8) = (3, 0, 1, 4) ∧
    (h.extractLsb' 237 3, h.extractLsb' 223 3, h.extractLsb' 220 3, h.extractLsb' 80 40) = (6, 0, 2, 0x180) ∧
    headerTaken (setBits h 240 8 7) = false ∧ headerTaken (setBits h 250 2 2) = false := by decide +kernel

/-- FIPS 197, C.3: AES-256 of its example block, both ways (R250). -/
theorem test_aes256 :
    aesEnc (roundKeys (List.range 32)) ((List.range 16).map (17 * ·)) =
      [0x8E, 0xA2, 0xB7, 0xCA, 0x51, 0x67, 0x45, 0xBF, 0xEA, 0xFC, 0x49, 0x90, 0x4B, 0x49, 0x60, 0x89] ∧
    aesDec (roundKeys (List.range 32)) [0x8E, 0xA2, 0xB7, 0xCA, 0x51, 0x67, 0x45, 0xBF, 0xEA, 0xFC, 0x49, 0x90, 0x4B, 0x49, 0x60, 0x89] =
      (List.range 16).map (17 * ·) := by decide +kernel

/-- IEEE 1619, vector 10: the first two blocks of its data unit 0xFF under XTS-AES-256 (R250). -/
theorem test_xts256 :
    xtsEnc (BitVec.ofNat 512 (leNum ((leBytes 32 0x2718281828459045235360287471352662497757247093699959574966967627).reverse ++
      (leBytes 32 0x3141592653589793238462643383279502884197169399375105820974944592).reverse))) 0 0xFF (List.range 32) =
    (leBytes 32 0x1C3B3A102F770386E4836C99E370CF9BEA00803F5E482357A4AE12D414A3E63B).reverse := by decide +kernel

end Sys2Proof.Tests
end

section
/-! PROOFS. The hard-wired registers s0 and m0 (02 R31, R45). -/

open Sys2Proof Sys2Proof.Machine
namespace Sys2Proof.Machine

/-- A field that `mDst` admits as the destination of a mask word does not name m0 (R45). -/
theorem ne_zero_of_mDst {r : BitVec 6} (h : mDst r = true) : r ≠ 0 := by
  simp only [mDst, Bool.and_eq_true, bne_iff_ne, ne_eq] at h
  exact h.2

end Sys2Proof.Machine

/-- Settles O10: the laws of `getS`/`setS` and `getM`/`setM`, and `mDst` in the well-formedness of the mask words. -/
theorem hardWiredRegisters : Obligations.HardWiredRegisters := by
  intro c v x
  refine ⟨Ctx.getS_zero c, Ctx.setS_zero c v, Ctx.getM_zero c, ?_, ?_, ?_, ?_, ?_⟩
  · exact fun n hn h32 => ⟨Ctx.getS_setS_same c n v hn h32, fun r hr => Ctx.getS_setS_ne c n r v hr⟩
  · exact fun n hn h8 => ⟨Ctx.getM_setM_same c n x (by omega) h8, fun r hr => Ctx.getM_setM_ne c n r x hr⟩
  all_goals
    intro h b hw
    simp only [Instr.wf, Bool.and_eq_true] at hw
    exact ne_zero_of_mDst (by simp only [hw])
end

section
/-! PROOFS. The registers after a retirement, and the mask words (02 R45; 22 R414, R415; 23 R451). -/

open Sys2Proof Sys2Proof.Machine
namespace Sys2Proof.Machine

/-- Bit i of a mask function of MOP is its function on bits i (Table 22-5). -/
theorem getLsbD_mopFn (fn : BitVec 4) (x y : BitVec 8192) (i : Nat) (hi : i < 8192) :
    (mopFn fn x y).getLsbD i =
      (let a := x.getLsbD i; let b := y.getLsbD i; let f := fn.toNat
       if f = 0 then a && b else if f = 1 then a || b else if f = 2 then a ^^ b else if f = 3 then a && !b
         else if f = 4 then a || !b else if f = 5 then !(a && b) else if f = 6 then !(a || b) else !(a ^^ b)) := by
  have e : ∀ k : BitVec 4, (fn = k) = (fn.toNat = k.toNat) := fun k => propext BitVec.toNat_inj.symm
  simp only [mopFn, e]
  simp only [apply_ite (fun z : BitVec 8192 => z.getLsbD i)]
  simp [hi]

/-- The bits of a mask cut off at n. -/
theorem getLsbD_maskBelow (n : Nat) (x : BitVec 8192) (i : Nat) :
    (maskBelow n x).getLsbD i = (x.getLsbD i && decide (i < n)) := by
  by_cases hi : i < 8192
  · simp [maskBelow, hi]
  · simp [maskBelow, BitVec.getLsbD_of_ge x i (by omega)]

/-- The positions that two masks share. -/
theorem setPositions_and (x y : BitVec 8192) (n : Nat) :
    setPositions (x &&& y) n = (List.range n).filter fun i => x.getLsbD i && y.getLsbD i := by
  simp [setPositions]

/-- MOP from VSTART 0 leaves its function's bits below VL in m[VD] (R414). -/
theorem exec_mop {h : Hdr} {b : FmtV} {s : State} {c : Ctx} (hs : Starts (issueV 0xB3 h b [] 0 [] .lane) s c) (hv : c.vstart = 0) :
    exec (.mop h b) s =
      .next (s.retired 0 (c.setM b.vd.toNat (maskBelow c.vl (mopFn b.fn (c.getM b.va.toNat) (c.getM b.vb.toNat))))) :=
  runWord_done hs (by simp [hv])

/-- MPOP from VSTART 0 counts the selected bits (R415). -/
theorem exec_mpop {h : Hdr} {b : FmtV} {s : State} {c : Ctx} (hs : Starts (issueV 0xB4 h b [] b.vd [] .lane) s c) (hv : c.vstart = 0) :
    exec (.mpop h b) s = .next (s.retired b.vd (c.setS b.vd
      (BitVec.ofNat 64 (setPositions (c.getM b.va.toNat &&& c.getM b.mask.toNat) c.vl).length))) :=
  runWord_done hs (by simp [hv])

/-- VFIRST from VSTART 0 gives the first selected position, and all ones where there is none (R451). -/
theorem exec_vfirst {h : Hdr} {b : FmtV} {s : State} {c : Ctx} (hs : Starts (issueV 0xB5 h b [] b.vd [] .lane) s c)
    (hv : c.vstart = 0) :
    exec (.vfirst h b) s = .next (s.retired b.vd (c.setS b.vd
      (((setPositions (c.getM b.va.toNat &&& c.getM b.mask.toNat) c.vl).head?.map (BitVec.ofNat 64)).getD (BitVec.allOnes 64)))) := by
  refine (runWord_done hs (c1 := _) ?_)
  simp only [hv, bne_self_eq_false, Bool.false_eq_true, if_false]
  cases (setPositions (c.getM b.va.toNat &&& c.getM b.mask.toNat) c.vl).head? <;> rfl

/-- What a retirement leaves of the registers: all but the PC, the loop stack, VL, STRIP and RETIRED (R105, R109). -/
theorem retired_regs (s : State) (d : RegNo) (c : Ctx) : let t := (s.retired d c).ctx
    t.regs = { c.regs with
      pc := t.regs.pc, loops := t.regs.loops,
      csr := { c.regs.csr with vl := t.regs.csr.vl, strip := t.regs.csr.strip, retired := c.regs.csr.retired + 1 } } := by
  obtain ⟨-, -, -, -, -, -, h⟩ := endTest_frame 5 c.regs.pc (c.retire d)
  exact h

@[simp] theorem retired_getS (s : State) (d : RegNo) (c : Ctx) (r : RegNo) : (s.retired d c).ctx.getS r = c.getS r := by
  unfold Ctx.getS; rw [congrArg Regs.s (retired_regs s d c)]

@[simp] theorem retired_getC (s : State) (d : RegNo) (c : Ctx) (r : RegNo) : (s.retired d c).ctx.getC r = c.getC r := by
  unfold Ctx.getC; rw [congrArg Regs.c (retired_regs s d c)]

@[simp] theorem retired_getV (s : State) (d : RegNo) (c : Ctx) (n : Nat) : (s.retired d c).ctx.getV n = c.getV n := by
  unfold Ctx.getV; rw [congrArg Regs.v (retired_regs s d c)]

@[simp] theorem retired_getM (s : State) (d : RegNo) (c : Ctx) (n : Nat) : (s.retired d c).ctx.getM n = c.getM n := by
  unfold Ctx.getM; rw [congrArg Regs.m (retired_regs s d c)]

end Sys2Proof.Machine

/-- Settles O50: MOP bit by bit through `getLsbD_mopFn`, MPOP and VFIRST by the list of selected positions. -/
theorem maskWords : Obligations.MaskWords := by
  refine ⟨fun h b s c hs hv hl hd h8 => ⟨_, exec_mop hs hv, ?_⟩, fun h b s c hv => ⟨fun hs => ?_, fun hs => ?_⟩⟩
  · have hd' : b.vd.toNat ≠ 0 := fun e => hd (BitVec.eq_of_toNat_eq e)
    simp only [retired_getM, retired_getV, retired_getS, Ctx.getM_setM_same c _ _ hd' h8, getLsbD_maskBelow]
    refine ⟨fun i hi => ?_, fun i hi => ?_, rfl, fun n hn => Ctx.getM_setM_ne c _ _ _ hn, fun n => rfl, fun n => rfl⟩
    · rw [getLsbD_mopFn _ _ _ _ (by omega)]; simp [hi]
    · simp [Nat.not_lt.mpr hi]
  · rw [exec_mpop hs hv, setPositions_and]
  · rw [exec_vfirst hs hv, setPositions_and]
    cases (List.range c.vl).filter _ <;> rfl
end

section
/-! PROOFS. What CSRs read and what a write of one leaves (02 R50, R51). -/

open Sys2Proof Sys2Proof.Machine
namespace Sys2Proof.Machine

/-! ### Values of CSRs (Table 2-6) -/

/-- ACKTIMEOUT after a write is the value held between 2 and 64 (Table 2-6). -/
theorem acktimeoutRule_toNat (w : Word) : (acktimeoutRule w).toNat = max 2 (min 64 w.toNat) := by
  unfold acktimeoutRule
  split
  · simp; omega
  · split <;> simp <;> omega

/-- The bits that a write of FAULTINJ keeps (Table 9-6). -/
theorem getLsbD_faultinjMask : ∀ i : Fin 64, (0xFC0000000000FFFF : Word).getLsbD i = (decide (i.val < 16) || decide (58 ≤ i.val)) := by
  decide

/-- The bits that remain of them where KIND is reserved. -/
theorem getLsbD_armMask : ∀ i : Fin 64, (0x7FFFFFFFFFFFFFFF : Word).getLsbD i = decide (i.val < 63) := by decide

/-- Bit i of a number with a high part at bit 58 and a low part of 16 bits. -/
theorem testBit_highLow (a b i : Nat) : (a * 2 ^ 58 + b % 2 ^ 16).testBit i = if i < 58 then (b % 2 ^ 16).testBit i else a.testBit (i - 58) := by
  rw [Nat.mul_comm a, Nat.testBit_two_pow_mul_add a (Nat.lt_of_lt_of_le (Nat.mod_lt _ (by decide)) (by decide))]

/-- FAULTINJ after a write: its RSV bits are zero, and a reserved KIND leaves ARM 0 (Table 9-6). -/
theorem faultinjRule_eq (w : Word) : faultinjRule w = BitVec.ofNat 64
    (if w.getLsbD 62 then w.toNat % 2 ^ 63 / 2 ^ 58 * 2 ^ 58 + w.toNat % 2 ^ 16 else w.toNat / 2 ^ 58 * 2 ^ 58 + w.toNat % 2 ^ 16) := by
  apply BitVec.eq_of_getLsbD_eq
  intro i hi
  have hm := getLsbD_faultinjMask ⟨i, hi⟩
  have ha := getLsbD_armMask ⟨i, hi⟩
  simp only at hm ha
  unfold faultinjRule
  dsimp only
  split
  · simp only [BitVec.getLsbD_and, hm, ha, BitVec.getLsbD_ofNat, testBit_highLow, Nat.testBit_div_two_pow, Nat.testBit_mod_two_pow, hi,
      BitVec.testBit_toNat]
    grind
  · simp only [BitVec.getLsbD_and, hm, BitVec.getLsbD_ofNat, testBit_highLow, Nat.testBit_div_two_pow, Nat.testBit_mod_two_pow, hi,
      BitVec.testBit_toNat]
    grind

/-- With c for the focused context, CSR n reads v and every other one as before. -/
def CsrReads (s : State) (n : Nat) (v : Word) (c : Ctx) : Prop :=
  (∀ m, m ≠ n → ({ s with ctx := c }).csrRead m = s.csrRead m) ∧ ({ s with ctx := c }).csrRead n = v

/-- A field of k bits cut from a word reads as the word modulo 2^k. -/
theorem setWidth_extract (w : Word) (k : Nat) : (w.extractLsb' 0 k).setWidth 64 = BitVec.ofNat 64 (w.toNat % 2 ^ k) := by
  apply BitVec.eq_of_toNat_eq
  simp

theorem csrReads_vl (s : State) (w : Word) : CsrReads s 0x000 w (s.ctx.setVl w.toNat) :=
  ⟨fun m hm => by simp only [State.csrRead, hm, ↓reduceIte]; rfl, (BitVec.ofNat_toNat 64 w).trans (BitVec.setWidth_eq w)⟩

theorem csrReads_vstart (s : State) (w : Word) :
    CsrReads s 0x002 (BitVec.ofNat 64 (w.toNat % 2 ^ 13)) (s.ctx.setVstart (getBits w 0 13)) :=
  ⟨fun m hm => by simp only [State.csrRead, hm, ↓reduceIte]; rfl, by
    show BitVec.ofNat 64 (getBits w 0 13) = _
    simp [getBits]⟩

theorem csrReads_vflags (s : State) (w : Word) :
    CsrReads s 0x004 (BitVec.ofNat 64 (w.toNat % 2 ^ 5)) (s.ctx.updCsr fun r => { r with vflags := w.extractLsb' 0 5 }) :=
  ⟨fun m hm => by simp only [State.csrRead, hm, ↓reduceIte]; rfl, setWidth_extract w 5⟩

theorem csrReads_clampb (s : State) (w : Word) :
    CsrReads s 0x005 (BitVec.ofNat 64 (w.toNat % 2 ^ 32)) (s.ctx.updCsr fun r => { r with clampb := w.extractLsb' 0 32 }) :=
  ⟨fun m hm => by simp only [State.csrRead, hm, ↓reduceIte]; rfl, setWidth_extract w 32⟩

theorem csrReads_srseed (s : State) (w : Word) : CsrReads s 0x006 (BitVec.ofNat 64 (w.toNat % 2 ^ 32))
    ((s.ctx.updCsr fun r => { r with srseed := w.extractLsb' 0 32 }).upd fun r => { r with g := srStates (w.extractLsb' 0 32) }) :=
  ⟨fun m hm => by simp only [State.csrRead, hm, ↓reduceIte]; rfl, setWidth_extract w 32⟩

theorem csrReads_trappc (s : State) (w : Word) :
    CsrReads s 0x051 (BitVec.ofNat 64 (w.toNat % 2 ^ 32)) (s.ctx.updCsr fun r => { r with trappc := w.extractLsb' 0 32 }) :=
  ⟨fun m hm => by simp only [State.csrRead, hm, ↓reduceIte]; rfl, setWidth_extract w 32⟩

theorem csrReads_acktimeout (s : State) (w : Word) :
    CsrReads s 0x071 (BitVec.ofNat 64 (max 2 (min 64 w.toNat))) (s.ctx.updCsr fun r => { r with acktimeout := acktimeoutRule w }) :=
  ⟨fun m hm => by simp only [State.csrRead, hm, ↓reduceIte]; rfl, by
    rw [← acktimeoutRule_toNat, BitVec.ofNat_toNat]; rfl⟩

theorem csrReads_faultinj {s : State} (w : Word) (hh : s.ctx.regs.csr.harness = true) :
    CsrReads s 0x072 (faultinjRule w) (s.ctx.updCsr fun r => r.inject w) :=
  ⟨fun m hm => by simp only [State.csrRead, hm, ↓reduceIte]; rfl, if_pos hh⟩

theorem csrReads_mbox (s : State) {n : Nat} (w : Word) (hn : 0x020 ≤ n ∧ n ≤ 0x02F) :
    CsrReads s n w (s.ctx.updCsr fun r => { r with mbox := r.mbox.setIfInBounds (n - 0x020) w }) := by
  constructor
  · intro m hm
    unfold State.csrRead Ctx.updCsr
    by_cases h : 0x020 ≤ m ∧ m ≤ 0x02F
    · have e : (s.ctx.regs.csr.mbox.setIfInBounds (n - 0x020) w)[m - 0x020]? = s.ctx.regs.csr.mbox[m - 0x020]? :=
        Vector.getElem?_setIfInBounds_ne (by omega)
      simp only [e]; rfl
    · simp only [h, if_false]; rfl
  · have e : (s.ctx.regs.csr.mbox.setIfInBounds (n - 0x020) w)[n - 0x020]? = some w := by
      rw [Vector.getElem?_setIfInBounds_self, if_pos (by omega)]
    have h : ¬ n = 0 ∧ ¬ n = 1 ∧ ¬ n = 2 ∧ ¬ n = 3 ∧ ¬ n = 4 ∧ ¬ n = 5 ∧ ¬ n = 6 ∧ ¬ n = 7 ∧ ¬ n = 8 ∧ ¬ n = 0x10 := by omega
    unfold State.csrRead Ctx.updCsr
    simp only [e, h, hn, if_false, and_self, if_true, Option.getD_some]

/-- The end of a slot number's CTXID (Table 2-6). -/
theorem ctxidWord_eq {k d n side : Nat} (hs : side < 2)
    (h : (d < 4 ∧ n < 192 ∧ k = 384 * d + 2 * n + side) ∨ (4 ≤ d ∧ d < 8 ∧ n < 64 ∧ k = 1536 + 128 * (d - 4) + 2 * n + side)) :
    ctxidWord k = d * 2 ^ 29 + n / 16 * 2 ^ 25 + n * 2 ^ 17 + side * 2 ^ 16 + k := by
  have hd : slotDie k = d := by unfold slotDie; split <;> omega
  have hc : slotCore k = n := by unfold slotCore; split <;> omega
  have hk : slotSide k = side := by unfold slotSide; omega
  rw [ctxidWord, slotCluster, hd, hc, hk]; omega

/-- A handler word is below 2^33 (Table 2-6). -/
theorem handlerWord_toNat (o : Option (BitVec 32)) :
    (BitVec.ofNat 64 (handlerWord o)).toNat = match o with | none => 0 | some w => 2 ^ 32 + w.toNat := by
  cases o <;> simp [handlerWord]
  omega

/-- COUNT and LEN fit their fields of VSHAPE (Table 2-2). -/
theorem vshapeWord_lt (c : Ctx) : c.vshapeWord < 2 ^ 64 := by
  have h1 : c.len ≤ 2048 := by
    unfold Ctx.len shapeLen
    repeat' split
    all_goals omega
  have h2 : c.count ≤ 64 := by
    unfold Ctx.count shapeCount
    repeat' split
    all_goals omega
  have := c.regs.shape.isLt
  unfold Ctx.vshapeWord; omega

/-- A CSR that holds a number below 2^64 reads as that number. -/
theorem csrRead_toNat {s : State} {n v : Nat} (h : s.csrRead n = BitVec.ofNat 64 v) (hv : v < 2 ^ 64) : (s.csrRead n).toNat = v := by
  rw [h, BitVec.toNat_ofNat, Nat.mod_eq_of_lt hv]

/-- A CSR that holds a field of at most 64 bits reads as its value. -/
theorem csrRead_toNat_field {s : State} {n k : Nat} {v : BitVec k} (h : s.csrRead n = v.setWidth 64) (hk : k ≤ 64) :
    (s.csrRead n).toNat = v.toNat := by
  rw [h, BitVec.toNat_setWidth_of_le hk]

end Sys2Proof.Machine

/-- Settles O27: a write goes to one register (`CsrReads`) or to none; the read values are those of the fields. -/
theorem csrRegisters : Obligations.CsrRegisters := by
  refine ⟨fun s n w => ⟨fun hn hw => ?_, fun hw => ?_⟩, fun s => ?_⟩
  · subst hn; simp [Ctx.csrWrite, hw]
  · unfold Ctx.csrWrite
    split
    · rename_i hn
      subst hn
      exact ⟨_, if_neg (by have := hw rfl; omega), csrReads_vl s w⟩
    split
    · rename_i hn; subst hn; exact ⟨_, rfl, csrReads_vstart s w⟩
    split
    · rename_i hn; subst hn; exact ⟨_, rfl, csrReads_vflags s w⟩
    split
    · rename_i hn; subst hn; exact ⟨_, rfl, csrReads_clampb s w⟩
    split
    · rename_i hn; subst hn; exact ⟨_, rfl, csrReads_srseed s w⟩
    split
    · rename_i hn
      rw [if_pos (.inr hn)]
      exact ⟨_, rfl, csrReads_mbox s w hn⟩
    split
    · rename_i hn; subst hn; exact ⟨_, rfl, csrReads_trappc s w⟩
    split
    · rename_i hn; subst hn; exact ⟨_, rfl, csrReads_acktimeout s w⟩
    split
    · rename_i hn
      subst hn
      refine ⟨_, rfl, ?_⟩
      split
      · rename_i hh
        obtain ⟨hframe, hread⟩ := csrReads_faultinj w hh
        exact ⟨hframe, hread.trans (by simp [hh, faultinjRule_eq])⟩
      · rename_i hh
        exact ⟨fun m hm => rfl, by simp [hh]⟩
    · rename_i h0 _ _ h5 h6 hm h51 _ h72
      refine ⟨_, rfl, fun m hm => rfl, ?_⟩
      simp only [h0, h5, h6, hm, h51, h72, or_self, false_and, if_false]
  · intro c rd
    have hlt := vshapeWord_lt c
    refine ⟨fun h => ?_, fun h => ?_, fun h => ?_, fun h => ?_, fun d n side hd hn hs hk => ?_, fun d n side hd hn hs hk => ?_,
      csrRead_toNat_field rfl (by decide), csrRead_toNat_field rfl (by decide), csrRead_toNat_field rfl (by decide),
      BitVec.toNat_ofNat _ _, rfl, handlerWord_toNat _, handlerWord_toNat _⟩
    · exact csrRead_toNat rfl hlt
    · refine (csrRead_toNat rfl hlt).trans ?_
      simp [Ctx.vshapeWord, Ctx.len, Ctx.count, h]
    · exact csrRead_toNat rfl (Nat.lt_of_le_of_lt h (by decide))
    · have e : c.modeState = c.regs.arr.mode + (if c.regs.arr.draining.isSome then 4 else 0) + (if c.regs.arr.roped then 8 else 0) := by
        rw [Ctx.modeState, Nat.mod_eq_of_lt h]
      rw [← e]
      exact csrRead_toNat rfl (by rw [e]; split <;> split <;> omega)
    · have e := ctxidWord_eq hs (.inl ⟨hd, hn, hk⟩)
      rw [← e]
      exact csrRead_toNat rfl (by rw [e]; omega)
    · have e := ctxidWord_eq (k := s.cur) (d := d + 4) hs (.inr ⟨by omega, by omega, hn, by omega⟩)
      rw [← e]
      exact csrRead_toNat rfl (by rw [e]; omega)
end

section
/-! PROOFS. What the operations of the words leave of the capabilities of the focused slot (02 R32): one lemma per operation, in the order of the
model. -/

open Sys2Proof Sys2Proof.Machine
namespace Sys2Proof.Machine

/-! ### The capabilities of a context and of the focused slot -/

/-- The capabilities that a context holds: its capability registers, and the table that LDCAP reads (R32, R399). -/
def Ctx.caps (c : Ctx) : Vector CReg 16 × List (BitVec 128) := (c.regs.c, c.launch.captab)

/-- The focused slot, and the capabilities of its context. -/
def State.caps (s : State) : Nat × Vector CReg 16 × List (BitVec 128) := (s.cur, s.ctx.caps)

@[simp] theorem Ctx.caps_mk (bind : BindRec) (launch : Launch) (regs : Regs) (hist : List (Option (BitVec 6))) (wait : Wait) (out : List Out)
    (rest : List Part) (mon : Monitor) (halt : Bool) (bindTick : Nat) (moving : Bool) (saveWhy : SaveReason)
    (faultRec : Option (Cause × Nat × Word)) (faultAt : Option Nat) :
    Ctx.caps ⟨bind, launch, regs, hist, wait, out, rest, mon, halt, bindTick, moving, saveWhy, faultRec, faultAt⟩ =
      (regs.c, launch.captab) := (rfl)
@[simp] theorem Ctx.caps_eta (c : Ctx) : (c.regs.c, c.launch.captab) = c.caps := (rfl)
@[simp] theorem Ctx.caps_ite (p : Prop) [Decidable p] (a b : Ctx) :
    (if p then a else b).caps = if p then a.caps else b.caps := apply_ite _ _ _ _
@[simp] theorem Ctx.caps_upd (c : Ctx) (f : Regs → Regs) : (c.upd f).caps = ((f c.regs).c, c.launch.captab) := (rfl)
@[simp] theorem Ctx.caps_updCsr (c : Ctx) (f : Csrs → Csrs) : (c.updCsr f).caps = c.caps := (rfl)
@[simp] theorem Ctx.caps_updArr (c : Ctx) (f : Arr → Arr) : (c.updArr f).caps = c.caps := (rfl)
@[simp] theorem Ctx.caps_setS (c : Ctx) (n : RegNo) (v : Word) : (c.setS n v).caps = c.caps := by unfold Ctx.setS; split <;> rfl
@[simp] theorem Ctx.caps_setV (c : Ctx) (n : Nat) (v : VReg) : (c.setV n v).caps = c.caps := (rfl)
@[simp] theorem Ctx.caps_setSlot (c : Ctx) (n : Nat) (v : LSlot) : (c.setSlot n v).caps = c.caps := (rfl)
@[simp] theorem Ctx.caps_setM (c : Ctx) (n : Nat) (v : BitVec 8192) : (c.setM n v).caps = c.caps := (rfl)
@[simp] theorem Ctx.caps_setTag (c : Ctx) (n : Nat) (v : Tag) : (c.setTag n v).caps = c.caps := (rfl)
@[simp] theorem Ctx.caps_setVstart (c : Ctx) (n : Nat) : (c.setVstart n).caps = c.caps := (rfl)
@[simp] theorem Ctx.caps_setVl (c : Ctx) (n : Nat) : (c.setVl n).caps = c.caps := (rfl)

@[simp] theorem Ctx.caps_foldl {α : Type} {f : Ctx → α → Ctx} (h : ∀ c x, (f c x).caps = c.caps) (l : List α) (c : Ctx) :
    (l.foldl f c).caps = c.caps := by
  induction l generalizing c with
  | nil => rfl
  | cons x l ih => exact (ih _).trans (h c x)

@[simp] theorem State.caps_mk (cur : Nat) (ctx : Ctx) (others : Tab Ctx) (tick resetTick draws : Nat) (late : Bool) (agenda : List Move)
    (mem : List Host.Cell) (cores : Tab Core) (dies : Vector Die 8) (memStacks : Vector Stack 12) (flash : Tab (List Byte)) (pkg : Package)
    (homeLines : Tab Bool) (lineBuf : Tab (BitVec 20 × Nat)) (presence : Tab (BitVec 8)) (linePoison : List Nat) (secKey : Tab KeyTag)
    (races : Tab RaceRec) (nextReq : Nat) (reqs : List Req) (net : List Pkt) (rx : Tab (List Pkt)) (routers : List (Nat × Nat × Nat))
    (ctlWait : List Req) (txns : List HomeTxn) (seqs : Tab (BitVec 16)) (dups : Tab (List Dup)) (windows : List Window) (teams : List Team)
    (nodes : List Node) (transl : List Transl) (members : Tab Member) (frames : Tab FrameImg) (nextUid nextOrder : Nat)
    (claims : Tab (Nat × Nat)) (queues : Tab Queue) (vfs : Tab VfState) (hyper : HyperState) (modeChg : Option ModeChange)
    (signed : List Signed) (spdmUp : Bool) (tree : List DtNode) (procTrees : Tab (List DtNode)) (measured : Nat) :
    State.caps ⟨cur, ctx, others, tick, resetTick, draws, late, agenda, mem, cores, dies, memStacks, flash, pkg, homeLines, lineBuf, presence,
      linePoison, secKey, races, nextReq, reqs, net, rx, routers, ctlWait, txns, seqs, dups, windows, teams, nodes, transl, members, frames,
      nextUid, nextOrder, claims, queues, vfs, hyper, modeChg, signed, spdmUp, tree, procTrees, measured⟩ = (cur, ctx.caps) := (rfl)
@[simp] theorem State.caps_eta (s : State) : (s.cur, s.ctx.caps) = s.caps := (rfl)
@[simp] theorem State.caps_ite (p : Prop) [Decidable p] (a b : State) : (if p then a else b).caps = if p then a.caps else b.caps :=
  apply_ite _ _ _ _
@[simp] theorem State.caps_setCore (s : State) (n : Nat) (x : Core) : (s.setCore n x).caps = s.caps := (rfl)
@[simp] theorem State.caps_updDie (s : State) (d : Nat) (f : Die → Die) : (s.updDie d f).caps = s.caps := (rfl)
@[simp] theorem State.caps_updStack (s : State) (k : Nat) (f : Stack → Stack) : (s.updStack k f).caps = s.caps := (rfl)

theorem State.caps_updCtx_of {s : State} {f : Ctx → Ctx} (h : (f s.ctx).caps = s.ctx.caps) : (s.updCtx f).caps = s.caps := by
  unfold State.caps; rw [State.updCtx_ctx, h]; rfl

@[simp] theorem State.caps_updCtx {s : State} {f : Ctx → Ctx} (h : ∀ c, (f c).caps = c.caps) : (s.updCtx f).caps = s.caps :=
  State.caps_updCtx_of (h _)

@[simp] theorem State.caps_setSlot {s : State} {k : Nat} {c : Ctx} (h : c.caps = (s.slot k).caps) : (s.setSlot k c).caps = s.caps := by
  unfold State.setSlot; split
  · rename_i e; subst e; rw [State.slot_cur] at h; simp [h]
  · rfl

@[simp] theorem State.caps_updSlot {s : State} {k : Nat} {f : Ctx → Ctx} (h : ∀ c, (f c).caps = c.caps) : (s.updSlot k f).caps = s.caps :=
  State.caps_setSlot (h _)

@[simp] theorem State.caps_mapSlots {s : State} {f : Nat → Ctx → Ctx} (h : ∀ k c, (f k c).caps = c.caps) :
    (s.mapSlots f).caps = s.caps := by
  unfold State.mapSlots; simp [h]

@[simp] theorem State.caps_foldl {α : Type} {f : State → α → State} (h : ∀ s x, (f s x).caps = s.caps) (l : List α) (s : State) :
    (l.foldl f s).caps = s.caps := by
  induction l generalizing s with
  | nil => rfl
  | cons x l ih => exact (ih _).trans (h s x)

theorem MonFrame.caps {s t : State} (h : MonFrame s t) : t.caps = s.caps := by
  obtain ⟨m, hm⟩ := h.2 s.cur
  have e : t.ctx = { s.ctx with mon := m } := by rw [← State.slot_cur t, h.1, hm, State.slot_cur]
  unfold State.caps; rw [h.1, e]; rfl

theorem ExtFrame.caps {s t : State} (h : ExtFrame s t) : t.caps = s.caps := by rw [h]; rfl

theorem Ctx.CommitKept.caps {c t : Ctx} (h : c.CommitKept t) : t.caps = c.caps := by
  obtain ⟨-, hl, -, -, -, -, -, -, -, hr⟩ := h
  unfold Ctx.caps; rw [hl, hr]

/-! ### Results of words -/

/-- The state that the result of a word carries. -/
def WR.out {σ : Type} : WR σ → σ
  | .done s => s
  | .jump s _ _ => s
  | .trap s _ _ _ => s
  | .trapW s _ => s
  | .stall s => s

@[simp] theorem WR.out_done {σ : Type} (s : σ) : (WR.done s).out = s := (rfl)
@[simp] theorem WR.out_jump {σ : Type} (s : σ) (t : Nat) (p : Bool) : (WR.jump s t p).out = s := (rfl)
@[simp] theorem WR.out_trap {σ : Type} (s : σ) (c : Cause) (i0 i1 : Word) : (WR.trap s c i0 i1).out = s := (rfl)
@[simp] theorem WR.out_trapW {σ : Type} (s : σ) (c : Cause) : (WR.trapW s c).out = s := (rfl)
@[simp] theorem WR.out_stall {σ : Type} (s : σ) : (WR.stall s).out = s := (rfl)
@[simp] theorem WR.out_map {σ τ : Type} (f : σ → τ) (r : WR σ) : (r.map f).out = f r.out := by cases r <;> rfl
@[simp] theorem WR.out_ite {σ : Type} (p : Prop) [Decidable p] (a b : WR σ) : (if p then a else b).out = if p then a.out else b.out :=
  apply_ite _ _ _ _

/-- The state that an access leaves. -/
def Did.out : Did → State
  | .got s _ => s
  | .wait s => s
  | .bad s _ _ _ => s

@[simp] theorem Did.out_got (s : State) (bs : List Byte) : (Did.got s bs).out = s := (rfl)
@[simp] theorem Did.out_wait (s : State) : (Did.wait s).out = s := (rfl)
@[simp] theorem Did.out_bad (s : State) (r : Req) (c : Cause) (n : Nat) : (Did.bad s r c n).out = s := (rfl)

theorem Did.caps_of_eq {d e : Did} {s : State} (h : d = e) (hd : d.out.caps = s.caps) : e.out.caps = s.caps := h ▸ hd

/-- The capabilities after a part of an access: those of the state that it leaves, or v where it has not begun. -/
def PartDid.capsOr (v : Nat × Vector CReg 16 × List (BitVec 128)) : PartDid → Nat × Vector CReg 16 × List (BitVec 128)
  | .got t _ => t.caps
  | .busy => v
  | .sent t => t.caps
  | .bad t _ _ _ => t.caps

section
variable (v : Nat × Vector CReg 16 × List (BitVec 128)) (t : State)
@[simp] theorem PartDid.capsOr_got (bs : List Byte) : (PartDid.got t bs).capsOr v = t.caps := (rfl)
@[simp] theorem PartDid.capsOr_busy : PartDid.busy.capsOr v = v := (rfl)
@[simp] theorem PartDid.capsOr_sent : (PartDid.sent t).capsOr v = t.caps := (rfl)
@[simp] theorem PartDid.capsOr_bad (r : Req) (c : Cause) (n : Nat) : (PartDid.bad t r c n).capsOr v = t.caps := (rfl)
@[simp] theorem PartDid.capsOr_ite (p : Prop) [Decidable p] (a b : PartDid) :
    (if p then a else b).capsOr v = if p then a.capsOr v else b.capsOr v := apply_ite _ _ _ _
end

@[simp] theorem onCtx_caps {f : Ctx → WR Ctx} {s : State} (h : ∀ c, (f c).out.caps = c.caps) : (onCtx f s).out.caps = s.caps := by
  simp [onCtx, h]

/-! ### Machine/Operands.lean -/

@[simp] theorem Ctx.endDrain_caps (c : Ctx) : c.endDrain.caps = c.caps := Ctx.caps_updArr _ _

@[simp] theorem Ctx.awaitDrain_caps (c : Ctx) (r n : Nat) : (c.awaitDrain r n).caps = c.caps := by
  unfold Ctx.awaitDrain; repeat' split
  all_goals rfl

/-! ### Machine/Flags.lean -/

@[simp] theorem Ctx.orFlags_caps (c : Ctx) (f : Flags) : (Ctx.orFlags c f).caps = c.caps := by simp [Ctx.orFlags]

/-! ### Machine/Ops.lean -/

@[simp] theorem Ctx.noteTrap_caps (c : Ctx) (cause : Cause) (i0 i1 : Word) :
    (Ctx.noteTrap c cause i0 i1).caps = c.caps := by simp [Ctx.noteTrap]

@[simp] theorem Ctx.taskFault_caps (c : Ctx) (cause : Cause) (i0 i1 : Word) :
    (Ctx.taskFault c cause i0 i1).caps = c.caps := by simp [Ctx.taskFault]

@[simp] theorem Ctx.deliver_caps (c : Ctx) (cause : Cause) (i0 i1 : Word) (h : Handler) (w : BitVec 32) :
    (Ctx.deliver c cause i0 i1 h w).caps = c.caps := by simp [Ctx.deliver]

@[simp] theorem Ctx.takeTrap_caps (c : Ctx) (cause : Cause) (i0 i1 : Word) : (Ctx.takeTrap c cause i0 i1).caps = c.caps := by
  unfold Ctx.takeTrap; dsimp only; split <;> simp

@[simp] theorem Ctx.trapReturn_caps (c : Ctx) : (Ctx.trapReturn c).caps = c.caps := by simp [Ctx.trapReturn]

@[simp] theorem Ctx.deferFault_caps (c : Ctx) (d : DeferRec) : (Ctx.deferFault c d).caps = c.caps := by
  unfold Ctx.deferFault; split <;> rfl

@[simp] theorem Ctx.deferTag_caps (c : Ctx) (t : Nat) : (Ctx.deferTag c t).caps = c.caps := by
  unfold Ctx.deferTag; dsimp only; split <;> simp

@[simp] theorem Ctx.commit_caps (c : Ctx) (t : Nat) : (Ctx.commit c t).caps = c.caps := by
  unfold Ctx.commit; dsimp only; split <;> simp

@[simp] theorem Ctx.land_caps (c : Ctx) (t : Nat) : (Ctx.land c t).caps = c.caps := by
  unfold Ctx.land; dsimp only; split <;> simp

@[simp] theorem Ctx.retag_caps (c : Ctx) (t : Nat) : (Ctx.retag c t).caps = c.caps := by
  unfold Ctx.retag; dsimp only; split <;> simp

@[simp] theorem Ctx.landAll_caps (c : Ctx) : (Ctx.landAll c).caps = c.caps := by simp [Ctx.landAll]

@[simp] theorem Ctx.allocS_caps (c : Ctx) (t : Nat) (d : RegNo) (latch : Word) :
    (Ctx.allocS c t d latch).caps = c.caps := by simp [Ctx.allocS]

@[simp] theorem Ctx.endTest_caps (n pc : Nat) (c : Ctx) : (c.endTest n pc).caps = c.caps := by
  obtain ⟨-, hl, -, -, -, -, hr⟩ := endTest_frame n pc c
  unfold Ctx.caps; rw [hl, hr]

@[simp] theorem Ctx.popFor_caps (t : Nat) (c : Ctx) : (Ctx.popFor t c).caps = c.caps := by simp [Ctx.popFor]

@[simp] theorem Ctx.retire_caps (c : Ctx) (dst : RegNo) : (Ctx.retire c dst).caps = c.caps := by simp [Ctx.retire]

@[simp] theorem Ctx.awaitDrains_caps (c : Ctx) (l : List Nat) : (Ctx.awaitDrains c l).caps = c.caps := by
  exact (commitKept_awaitDrains c l).caps

/-! ### Machine/Buffers.lean -/

@[simp] theorem State.usePort_caps (s : State) (d : Nat) (buf : BitVec 20) :
    (State.usePort s d buf).caps = s.caps := by simp [State.usePort]

@[simp] theorem State.useExtent_caps (s : State) (k : Nat) (buf : BitVec 20) (off : Nat) : (State.useExtent s k buf off).caps = s.caps := by
  exact (State.useExtent_frame s k buf off).caps

@[simp] theorem State.extTurn_caps (s : State) (e : Nat) : (State.extTurn s e).caps = s.caps := by simp [State.extTurn]

@[simp] theorem Ctx.startSwap_caps (c : Ctx) (buf : BitVec 20) (off : Nat) :
    (Ctx.startSwap c buf off).caps = c.caps := by simp [Ctx.startSwap]

@[simp] theorem State.countRefusal_caps (s : State) (d part : Nat) (buf : BitVec 20) :
    (State.countRefusal s d part buf).caps = s.caps := by simp [State.countRefusal]

@[simp] theorem stopWord_caps (s : State) (x0 : Stop) : (stopWord s x0).out.caps = s.caps := by
  cases x0 <;> simp [stopWord]

/-! ### Machine/BaseDie.lean -/

@[simp] theorem State.settle_caps (s : State) (sec : Nat) (t : KeyTag) : (State.settle s sec t).caps = s.caps := by simp [State.settle]

@[simp] theorem State.zeroGranule_caps (s : State) (g : Nat) (tag : Nat → KeyTag) :
    (State.zeroGranule s g tag).caps = s.caps := by simp [State.zeroGranule]

@[simp] theorem State.scrubDone_caps (s : State) (a : Nat) (t : KeyTag) : (State.scrubDone s a t).caps = s.caps := by simp [State.scrubDone]

@[simp] theorem State.unpoison_caps (s : State) (a n : Nat) : (State.unpoison s a n).caps = s.caps := by simp [State.unpoison]

@[simp] theorem State.bdPump_caps (s : State) (st : Nat) : (State.bdPump s st).caps = s.caps := by simp [State.bdPump]

@[simp] theorem State.bdSend_caps (s : State) (r : BdReq) : (State.bdSend s r).caps = s.caps := by simp [State.bdSend]

@[simp] theorem State.notify_caps (s : State) (sec : Nat) : (State.notify s sec).caps = s.caps := by simp [State.notify]

@[simp] theorem State.loseMonitors_caps (s : State) (line : Nat) : (State.loseMonitors s line).caps = s.caps := by
  exact (State.loseMonitors_frame s line).caps

@[simp] theorem State.dropCopy_caps (s : State) (d line : Nat) : (State.dropCopy s d line).caps = s.caps := by simp [State.dropCopy]

@[simp] theorem State.recall_caps (s : State) (line : Nat) : (State.recall s line).caps = s.caps := by simp [State.recall]

@[simp] theorem State.lineClean_caps (s : State) (line : Nat) : (State.lineClean s line).caps = s.caps := by
  unfold State.lineClean; dsimp only; split <;> simp

@[simp] theorem State.lineDrop_caps (s : State) (line : Nat) (keep : Bool) :
    (State.lineDrop s line keep).caps = s.caps := by simp [State.lineDrop]

@[simp] theorem State.putCopy_caps (s : State) (d line vf : Nat) (bs : List Byte) : (State.putCopy s d line vf bs).caps = s.caps := by
  exact (State.putCopy_frame s d line vf bs).caps

@[simp] theorem State.homeFill_caps (s : State) (a vf : Nat) (t : KeyTag) (buf : BitVec 20) (off : Nat) :
    (State.homeFill s a vf t buf off).caps = s.caps := by
  exact (State.homeFill_frame s a vf t buf off).caps

@[simp] theorem State.beforeApply_caps (s : State) (a n : Nat) (t : KeyTag) :
    (State.beforeApply s a n t).caps = s.caps := by simp [State.beforeApply]

@[simp] theorem State.apply_caps (s : State) (a : Nat) (bs : List Byte) (t : KeyTag) : (State.apply s a bs t).caps = s.caps := by
  unfold State.apply; dsimp only; repeat' split
  all_goals simp

/-! ### Machine/Race.lean -/

@[simp] theorem State.raceUpdate_caps (s : State) (a n : Nat) (x : RaceAcc) :
    (State.raceUpdate s a n x).caps = s.caps := by simp [State.raceUpdate]

@[simp] theorem Ctx.nextRegion_caps (c : Ctx) : (Ctx.nextRegion c).caps = c.caps := by simp [Ctx.nextRegion]

/-! ### Machine/BarObj.lean -/

@[simp] theorem State.dirtyScratch_caps (s : State) (a n : Nat) : (State.dirtyScratch s a n).caps = s.caps := by
  unfold State.dirtyScratch; dsimp only; repeat' split
  all_goals simp

@[simp] theorem State.setObj_caps (s : State) (loc : Nat) (o : BarObj) : (State.setObj s loc o).caps = s.caps := by simp [State.setObj]

@[simp] theorem Ctx.release_caps (w : Window) (c : Ctx) : (Ctx.release w c).caps = c.caps := by
  unfold Ctx.release; repeat' split
  all_goals rfl

@[simp] theorem State.releasePitch_caps (s : State) (w : Window) (n : Nat) :
    (State.releasePitch s w n).caps = s.caps := by simp [State.releasePitch]

@[simp] theorem State.closeWin_caps (s : State) (w : Window) : (State.closeWin s w).caps = s.caps := by simp [State.closeWin]

@[simp] theorem State.startWins_caps (n : Nat) (w : Window) (s : State) : (s.startWins n w).caps = s.caps := by
  induction n generalizing s with
  | zero => rfl
  | succ n ih =>
    unfold State.startWins; dsimp only; repeat' split
    all_goals simp [ih]

@[simp] theorem State.openWin_caps (s : State) (w : Window) : (State.openWin s w).caps = s.caps := by
  simp [State.openWin]

@[simp] theorem State.complete_caps (s : State) (loc d : Nat) : (State.complete s loc d).caps = s.caps := by simp [State.complete]

@[simp] theorem State.completeIf_caps (s : State) (loc d : Nat) : (State.completeIf s loc d).caps = s.caps := by simp [State.completeIf]

/-! ### Machine/CopyCore.lean -/

@[simp] theorem Ctx.setChan_caps (c : Ctx) (ch : Nat) (x : Chan) : (Ctx.setChan c ch x).caps = c.caps := by simp [Ctx.setChan]

@[simp] theorem State.updCopy_caps (s : State) (k ch : Nat) (f : Copy → Copy) : (State.updCopy s k ch f).caps = s.caps := by
  unfold State.updCopy
  refine State.caps_updSlot fun c => ?_
  dsimp only; split <;> simp

@[simp] theorem State.recordFault_caps (s : State) (k ch : Nat) (f : CopyFault) :
    (State.recordFault s k ch f).caps = s.caps := by simp [State.recordFault]

@[simp] theorem State.countDown_caps (s : State) (k ch : Nat) (p : Copy) (n : Nat) :
    (State.countDown s k ch p n).caps = s.caps := by simp [State.countDown]

@[simp] theorem State.retireCopy_caps (s : State) (k ch : Nat) : (State.retireCopy s k ch).caps = s.caps := by
  unfold State.retireCopy; dsimp only; split <;> simp

@[simp] theorem State.copyCount_caps (s : State) (k ch n : Nat) : (State.copyCount s k ch n).caps = s.caps := by
  unfold State.copyCount; split
  · rfl
  · simp

@[simp] theorem State.copyFault_caps (s : State) (k ch : Nat) (cause : Cause) (buf : BitVec 20) (off stamp : Nat) :
    (State.copyFault s k ch cause buf off stamp).caps = s.caps := by
  unfold State.copyFault; dsimp only; split <;> simp

@[simp] theorem State.copyLand_caps (s : State) (k ch : Nat) (data : List Byte) : (State.copyLand s k ch data).caps = s.caps := by
  unfold State.copyLand; dsimp only; split
  · rfl
  · generalize hf : List.foldl _ s _ = s1
    have h1 : s1.caps = s.caps := hf ▸ State.caps_foldl (fun s uid => by repeat' split
                                                                         all_goals simp) _ s
    repeat' split
    all_goals simp [h1]

@[simp] theorem State.copyBytes_caps (s : State) (k ch : Nat) (data : List Byte) : (State.copyBytes s k ch data).caps = s.caps := by
  unfold State.copyBytes; dsimp only; split <;> simp

/-! ### Machine/Home.lean -/

@[simp] theorem State.numberReq_caps (s : State) (r : Req) : (State.numberReq s r).2.caps = s.caps := by simp [State.numberReq]

@[simp] theorem State.inject_caps (s : State) (r : Req) (kind : Nat) : (State.inject s r kind).2.caps = s.caps := by
  unfold State.inject; dsimp only; split <;> simp

@[simp] theorem State.sendPkt_caps (s : State) (p : Pkt) : (State.sendPkt s p).caps = s.caps := by simp [State.sendPkt]

@[simp] theorem State.sendReq_caps (s : State) (r : Req) : (State.sendReq s r).caps = s.caps := by simp [State.sendReq]

@[simp] theorem State.sendCtl_caps (s : State) (r : Req) : (State.sendCtl s r).caps = s.caps := by simp [State.sendCtl]

@[simp] theorem State.flushCtl_caps (s : State) (slot : Nat) : (State.flushCtl s slot).caps = s.caps := by
  unfold State.flushCtl; dsimp only; split <;> simp

@[simp] theorem State.updRegs_caps {f : Ctx → Ctx} (hf : ∀ c, (f c).caps = c.caps) (s : State) (uid : Nat) :
    (s.updRegs uid f).caps = s.caps := by
  unfold State.updRegs; repeat' split
  all_goals simp [hf]

@[simp] theorem State.deferReq_caps (s : State) (r : Req) (cause : Cause) :
    (State.deferReq s r cause).caps = s.caps := by simp [State.deferReq]

@[simp] theorem State.patchCopy_caps (s : State) (d loc : Nat) (bs : List Byte) : (State.patchCopy s d loc bs).caps = s.caps := by
  unfold State.patchCopy; split <;> simp

@[simp] theorem State.l1dDropDie_caps (s : State) (d line : Nat) : (State.l1dDropDie s d line).caps = s.caps := by simp [State.l1dDropDie]

@[simp] theorem State.answerCopy_caps (s : State) (r : Req) (data : List Byte) (cause : Option Cause) :
    (State.answerCopy s r data cause).caps = s.caps := by simp [State.answerCopy]

@[simp] theorem Ctx.hear_caps (r : Req) (data : List Byte) (cause : Option Cause) (stamp : Nat) (c : Ctx) :
    (Ctx.hear r data cause stamp c).caps = c.caps := by
  unfold Ctx.hear; split
  · split <;> rfl
  · rfl

@[simp] theorem Ctx.hearOut_caps (r : Req) (data : List Byte) (cause : Option Cause) (stamp : Nat) (c : Ctx) :
    (Ctx.hearOut r data cause stamp c).caps = c.caps := by simp [Ctx.hearOut]

@[simp] theorem Ctx.hearPass_caps (r : Req) (c : Ctx) : (Ctx.hearPass r c).caps = c.caps := by simp [Ctx.hearPass]

@[simp] theorem State.l1dDrop_caps (s : State) (k line : Nat) : (State.l1dDrop s k line).caps = s.caps := by simp [State.l1dDrop]

@[simp] theorem State.copyAnswer_caps (s : State) (r : Req) (data : List Byte) (cause : Option Cause) (stamp : Nat) :
    (State.copyAnswer s r data cause stamp).caps = s.caps := by
  unfold State.copyAnswer; dsimp only; repeat' split
  all_goals simp

@[simp] theorem State.fillL1_caps (s : State) (core line : Nat) (bs : List Byte) :
    (State.fillL1 s core line bs).caps = s.caps := by simp [State.fillL1]

@[simp] theorem State.l1dCut_caps (s : State) (core line : Nat) : (State.l1dCut s core line).caps = s.caps := by simp [State.l1dCut]

@[simp] theorem State.fillOnward_caps (s : State) (r : Req) (data : List Byte) (cause : Option Cause) :
    (State.fillOnward s r data cause).caps = s.caps := by simp [State.fillOnward]

@[simp] theorem State.answer_caps (s : State) (r : Req) (data : List Byte) (cause : Option Cause) (stamp : Nat) :
    (State.answer s r data cause stamp).caps = s.caps := by
  unfold State.answer; dsimp only; repeat' split
  all_goals simp

@[simp] theorem State.holdResp_caps (s : State) (r : Req) (p : Pkt) : (State.holdResp s r p).caps = s.caps := by simp [State.holdResp]

@[simp] theorem State.respond_caps (s : State) (r : Req) (data : List Byte) (cause : Option Cause) (stamp : Nat) :
    (State.respond s r data cause stamp).caps = s.caps := by simp [State.respond]

@[simp] theorem State.setPresence_caps (s : State) (line d : Nat) (b : Bool) :
    (State.setPresence s line d b).caps = s.caps := by simp [State.setPresence]

@[simp] theorem State.farSend_caps (s : State) (r : Req) : (State.farSend s r).caps = s.caps := by simp [State.farSend]

@[simp] theorem State.noteBuf_caps (s : State) (r : Req) : (State.noteBuf s r).caps = s.caps := by simp [State.noteBuf]

@[simp] theorem State.homePut_caps (s : State) (r : Req) (bs old : List Byte) :
    (State.homePut s r bs old).caps = s.caps := by simp [State.homePut]

@[simp] theorem State.homeApply_caps (s : State) (r : Req) : (State.homeApply s r).caps = s.caps := by simp [State.homeApply]

@[simp] theorem State.homeGo_caps (s : State) (r : Req) : (State.homeGo s r).caps = s.caps := by simp [State.homeGo]

@[simp] theorem State.noFill_caps (s : State) (id : Nat) : (State.noFill s id).caps = s.caps := by simp [State.noFill]

@[simp] theorem State.homeRead_caps (s : State) (r : Req) : (State.homeRead s r).caps = s.caps := by simp [State.homeRead]

@[simp] theorem State.homeBegin_caps (s : State) (r : Req) : (State.homeBegin s r).caps = s.caps := by
  unfold State.homeBegin; dsimp only; split <;> simp

@[simp] theorem State.homeFetch_caps (s : State) (r : Req) : (State.homeFetch s r).caps = s.caps := by simp [State.homeFetch]

@[simp] theorem State.hostFill_caps (s : State) (r : Req) : (State.hostFill s r).caps = s.caps := by simp [State.hostFill]

@[simp] theorem State.homeServe_caps (s0 : State) (r : Req) : (State.homeServe s0 r).caps = s0.caps := by simp [State.homeServe]

/-! ### Machine/Access.lean -/

@[simp] theorem Ctx.dropOut_caps (c : Ctx) (id : Nat) : (Ctx.dropOut c id).caps = c.caps := by simp [Ctx.dropOut]

@[simp] theorem State.waitAt_caps (s : State) (w : Wait) : (State.waitAt s w).caps = s.caps := by simp [State.waitAt]

@[simp] theorem Ctx.putOut_caps (c : Ctx) (o : OutAcc) : (Ctx.putOut c o).caps = c.caps := by simp [Ctx.putOut]

@[simp] theorem State.await_caps (s : State) (a : Asker) (r : Req) : (State.await s a r).1.caps = s.caps := by
  cases a <;> simp [State.await]

@[simp] theorem State.l1dStore_caps (s : State) (p : Part) : (State.l1dStore s p).caps = s.caps := by simp [State.l1dStore]

@[simp] theorem State.sendWaiting_caps {v : Nat × Vector CReg 16 × List (BitVec 128)} (s : State) (p : Part) (a : Asker) (hv : s.caps = v) :
    (State.sendWaiting s p a).capsOr v = v := by
  subst hv
  simp [State.sendWaiting]

@[simp] theorem State.localReq_caps (s : State) (r : Req) : (State.localReq s r).caps = s.caps := by simp [State.localReq]

@[simp] theorem State.l1dFill_caps (s : State) (p : Part) (line : List Byte) :
    (State.l1dFill s p line).caps = s.caps := by simp [State.l1dFill]

@[simp] theorem State.readAway_caps {v : Nat × Vector CReg 16 × List (BitVec 128)} (s : State) (p : Part) (a : Asker) (hv : s.caps = v) :
    (State.readAway s p a).capsOr v = v := by
  subst hv
  unfold State.readAway; dsimp only; repeat' split
  all_goals simp

@[simp] theorem State.atOnce_caps {v : Nat × Vector CReg 16 × List (BitVec 128)} (s : State) (a : Asker) (hv : s.caps = v) :
    (State.atOnce s a).capsOr v = v := by
  unfold State.atOnce; repeat' split
  all_goals simpa using hv

@[simp] theorem State.homeWaiting_caps {v : Nat × Vector CReg 16 × List (BitVec 128)} (s : State) (p : Part) (a : Asker) (hv : s.caps = v) :
    (State.homeWaiting s p a).capsOr v = v := by
  subst hv
  simp [State.homeWaiting]

@[simp] theorem State.readHome_caps {v : Nat × Vector CReg 16 × List (BitVec 128)} (s : State) (p : Part) (a : Asker) (hv : s.caps = v) :
    (State.readHome s p a).capsOr v = v := by
  subst hv
  unfold State.readHome; dsimp only; repeat' split
  all_goals simp

@[simp] theorem State.readPart_caps {v : Nat × Vector CReg 16 × List (BitVec 128)} (s : State) (p : Part) (a : Asker) (hv : s.caps = v) :
    (State.readPart s p a).capsOr v = v := by
  subst hv
  unfold State.readPart; dsimp only; repeat' split
  all_goals simp

@[simp] theorem State.writePart_caps {v : Nat × Vector CReg 16 × List (BitVec 128)} (s : State) (p : Part) (a : Asker) (hv : s.caps = v) :
    (State.writePart s p a).capsOr v = v := by
  subst hv
  simp [State.writePart]

@[simp] theorem State.atomicPart_caps {v : Nat × Vector CReg 16 × List (BitVec 128)} (s : State) (p : Part) (a : Asker) (hv : s.caps = v) :
    (State.atomicPart s p a).capsOr v = v := by
  subst hv
  simp [State.atomicPart]

@[simp] theorem State.doPart_caps {v : Nat × Vector CReg 16 × List (BitVec 128)} (s : State) (p0 : Part) (a : Asker) (hv : s.caps = v) :
    (State.doPart s p0 a).capsOr v = v := by
  subst hv
  simp [State.doPart]

@[simp] theorem State.keepRest_caps (s : State) (l : List Part) : (State.keepRest s l).caps = s.caps := by simp [State.keepRest]

@[simp] theorem State.doParts_caps (s : State) (l : List Part) (acc : List Byte) : (s.doParts l acc).out.caps = s.caps := by
  induction l generalizing s acc with
  | nil => rfl
  | cons p l ih =>
    have h := State.doPart_caps (v := s.caps) (s := s) p (.word acc) rfl
    unfold State.doParts
    split
    · simp
    · split <;> rename_i e <;> rw [e] at h
      · exact (ih _ _).trans h
      · simp
      · simpa using h
      · exact h

@[simp] theorem Ctx.holdOut_caps (c : Ctx) (e id : Nat) (h : Bool) : (Ctx.holdOut c e id h).caps = c.caps := by simp [Ctx.holdOut]

@[simp] theorem State.deferParts_caps (tag : Nat) (l : List Part) (acc : List Byte) (s : State) :
    (State.deferParts tag l acc s).out.caps = s.caps := by
  induction l generalizing s acc with
  | nil => rfl
  | cons p l ih =>
    have h := State.doPart_caps (v := s.caps) { s with nextReq := s.nextReq + 1 } p (.out (p.toOut tag s.nextReq)) rfl
    unfold State.deferParts
    dsimp only
    split
    · split <;> simp [ih]
    · split <;> rename_i e <;> rw [e] at h
      · exact (ih _ _).trans h
      · split <;> simp [ih]
      · split <;> simpa [ih] using h
      · split
        · simpa [ih] using h
        · exact h

@[simp] theorem State.partsPass_caps (s : State) (l : List Part) : (State.partsPass s l).caps = s.caps := by simp [State.partsPass]

@[simp] theorem State.resume_caps (s : State) : (State.resume s).caps = s.caps := by simp [State.resume]

@[simp] theorem State.useParts_caps (s : State) (l : List Part) : (State.useParts s l).caps = s.caps := by simp [State.useParts]

theorem State.begin_caps {k : List Part → State → Did} (hk : ∀ l s, (k l s).out.caps = s.caps) (s : State) (l : List Part) :
    (s.begin l k).out.caps = s.caps := by
  unfold State.begin; dsimp only
  split
  · simp [hk]
  · split <;> simp [hk]

@[simp] theorem State.doAccess_caps (s : State) (l : List Part) : (State.doAccess s l).out.caps = s.caps := by
  exact State.begin_caps (fun l s => by simp) s l

@[simp] theorem State.doTagged_caps (s : State) (tag : Nat) (l : List Part) : (State.doTagged s tag l).out.caps = s.caps := by
  unfold State.doTagged; split
  · exact State.begin_caps (fun l s => by simp) s l
  · simp

theorem State.heard_caps {s : State} {e : Nat} {d : Did} (h : s.heard e = some d) : d.out.caps = s.caps := by
  unfold State.heard at h
  split at h
  · split at h <;> cases h; rfl
  · split at h <;> cases h; simp
  · split at h
    · cases h
    · split at h <;> cases h <;> simp
  · split at h
    · cases h
    · rw [Option.map_eq_some_iff] at h
      obtain ⟨a, -, rfl⟩ := h
      repeat' split
      all_goals simp
  · cases h

@[simp] theorem badWord_caps (s : State) (r : Req) (cause : Cause) (stamp : Nat) :
    (badWord s r cause stamp).out.caps = s.caps := by simp [badWord]

@[simp] theorem trapOf_caps (s : State) (t : Trap) : (trapOf s t).out.caps = s.caps := by simp [trapOf]

@[simp] theorem State.acquire_caps (s : State) (scope : Nat) : (State.acquire s scope).caps = s.caps := by simp [State.acquire]

@[simp] theorem Ctx.deliverTags_caps (c : Ctx) : (Ctx.deliverTags c).caps = c.caps := by simp [Ctx.deliverTags]

theorem deferredTrap_caps {s : State} {r : WR State} (h : deferredTrap s = some r) : r.out.caps = s.caps := by
  unfold deferredTrap at h
  dsimp only at h
  split at h <;> cases h
  simp

@[simp] theorem releaseThen_caps {k : State → WR State} (hk : ∀ s, (k s).out.caps = s.caps) (scope : Nat) (s : State) :
    (releaseThen scope k s).out.caps = s.caps := by simp [releaseThen, hk]

@[simp] theorem arriveThen_caps {k : State → WR State} (hk : ∀ s, (k s).out.caps = s.caps) (scope : Nat) (s : State) :
    (arriveThen scope k s).out.caps = s.caps := by simp [arriveThen, hk]

@[simp] theorem deliverThen_caps {k : State → WR State} (hk : ∀ s, (k s).out.caps = s.caps) (s : State) :
    (deliverThen k s).out.caps = s.caps := by
  unfold deliverThen; split
  · rename_i h; exact deferredTrap_caps h
  · exact hk s

@[simp] theorem endRegionThen_caps {k : State → WR State} (hk : ∀ s, (k s).out.caps = s.caps) (s : State) :
    (endRegionThen k s).out.caps = s.caps := by simp [endRegionThen, hk]

@[simp] theorem endRegion_caps (s : State) : (endRegion s).out.caps = s.caps := by
  exact endRegionThen_caps (fun _ => rfl) s

@[simp] theorem unlessWrapping_caps {k : State → WR State} (hk : ∀ s, (k s).out.caps = s.caps) (s : State) :
    (unlessWrapping k s).out.caps = s.caps := by unfold unlessWrapping; split <;> simp [hk]

/-! ### Machine/Barrier.lean -/

@[simp] theorem barErr_caps (s : State) (w : Win) : (barErr s w).out.caps = s.caps := by simp [barErr]

@[simp] theorem withObject_caps {f : Win → Nat → State → WR State} (hf : ∀ w loc s, (f w loc s).out.caps = s.caps) (b : FmtY)
    (acq rel : Bool) (s : State) : (withObject b acq rel f s).out.caps = s.caps := by
  unfold withObject; repeat' split
  all_goals simp [hf]

@[simp] theorem raiseCopyFault_caps (s : State) (ch : Nat) (f : CopyFault) :
    (raiseCopyFault s ch f).out.caps = s.caps := by simp [raiseCopyFault]

@[simp] theorem copyFaultThen_caps {k : State → WR State} (hk : ∀ s, (k s).out.caps = s.caps) (loc : Nat) (s : State) :
    (copyFaultThen loc k s).out.caps = s.caps := by unfold copyFaultThen; split <;> simp [hk]

@[simp] theorem State.arrive_caps (s : State) (loc : Nat) : (State.arrive s loc).caps = s.caps := by simp [State.arrive]

@[simp] theorem barEnd_caps (b : FmtY) (loc : Nat) (st : Word) (s : State) : (barEnd b loc st s).out.caps = s.caps := by
  refine (copyFaultThen_caps (fun s => ?_) _ _).trans (by simp)
  refine (endRegionThen_caps (fun s => ?_) _).trans ?_ <;> simp

@[simp] theorem barWait_caps (b : FmtY) (q : BitVec 4) (w : Win) (loc : Nat) (s : State) :
    (barWait b q w loc s).out.caps = s.caps := by simp [barWait]

@[simp] theorem barResume_caps {k : State → WR State} (hk : ∀ s, (k s).out.caps = s.caps) (b : FmtY) (s : State) :
    (barResume b k s).out.caps = s.caps := by unfold barResume; split <;> simp [hk]

@[simp] theorem barinitBody_caps (b : FmtY) (s : State) : (barinitBody b s).out.caps = s.caps := by
  refine deliverThen_caps (withObject_caps (fun w loc s => ?_) _ _ _) _
  dsimp only; split
  · simp
  · exact releaseThen_caps (fun s => by simp) _ _

@[simp] theorem barriveBody_caps (b : FmtY) (s : State) : (barriveBody b s).out.caps = s.caps := by
  refine deliverThen_caps (withObject_caps (fun w loc s => releaseThen_caps (fun s => ?_) _ _) _ _ _) _
  simp

@[simp] theorem barwaitBody_caps (b : FmtY) (s : State) : (barwaitBody b s).out.caps = s.caps := by
  refine barResume_caps (withObject_caps (fun w loc s => copyFaultThen_caps (fun s => ?_) _ _) _ _ _) _ _
  simp

@[simp] theorem barsyncArrive_caps (w : Win) (loc : Nat) (s : State) : (barsyncArrive w loc s).out.caps = s.caps := by
  unfold barsyncArrive; split
  · simp
  · refine endRegionThen_caps (fun s => ?_) _
    simp

@[simp] theorem barsyncBody_caps (b : FmtY) (s : State) : (barsyncBody b s).out.caps = s.caps := by
  unfold barsyncBody; split
  · refine endRegionThen_caps (fun s => ?_) _
    simp
  · refine barResume_caps (withObject_caps (fun w loc s => copyFaultThen_caps (fun s => ?_) _ _) _ _ _) _ _
    simp
  · refine deliverThen_caps (withObject_caps (fun w loc s => copyFaultThen_caps (releaseThen_caps (fun s => ?_) _) _ _) _ _ _) _
    simp

@[simp] theorem barqueryBody_caps (b : FmtY) (s : State) : (barqueryBody b s).out.caps = s.caps := by simp [barqueryBody]

@[simp] theorem State.setTeam_caps (s : State) (t : Team) : (State.setTeam s t).caps = s.caps := by simp [State.setTeam]

@[simp] theorem State.teamRelease_caps (s : State) (d vf : Nat) (node : BitVec 32) (p : BitVec 4) :
    (State.teamRelease s d vf node p).caps = s.caps := by simp [State.teamRelease]

@[simp] theorem State.teamComplete_caps (s : State) (t : Team) : (State.teamComplete s t).caps = s.caps := by simp [State.teamComplete]

@[simp] theorem State.teamCount_caps (s : State) (vf : Nat) (node : BitVec 32) (p : BitVec 4) (n ninst : Nat) :
    (State.teamCount s vf node p n ninst).caps = s.caps := by simp [State.teamCount]

@[simp] theorem State.teamFlush_caps (s : State) (d vf : Nat) (node : BitVec 32) (ninst : Nat) :
    (State.teamFlush s d vf node ninst).caps = s.caps := by simp [State.teamFlush]

@[simp] theorem State.teamCheck_caps (s : State) (d vf : Nat) (node : BitVec 32) (ninst : Nat) :
    (State.teamCheck s d vf node ninst).caps = s.caps := by simp [State.teamCheck]

@[simp] theorem State.teamArrive_caps (s : State) (k : Nat) (l : Launch) :
    (State.teamArrive s k l).caps = s.caps := by simp [State.teamArrive]

@[simp] theorem hbarEnd_caps (b : FmtY) (p : BitVec 4) (s : State) : (hbarEnd b p s).out.caps = s.caps := by simp [hbarEnd]

@[simp] theorem hbarArrive_caps (b : FmtY) (s : State) : (hbarArrive b s).out.caps = s.caps := by
  refine endRegionThen_caps (fun s => ?_) _
  simp

@[simp] theorem hbarBody_caps (b : FmtY) (s : State) : (hbarBody b s).out.caps = s.caps := by
  unfold hbarBody; split
  · rfl
  · simp
  · refine endRegionThen_caps (fun s => ?_) _
    simp
  · split <;> simp
  · refine deliverThen_caps (fun s => ?_) _
    split
    · rfl
    · exact arriveThen_caps (fun s => hbarArrive_caps b s) _ _

/-! ### Machine/Control.lean -/

@[simp] theorem transfer_caps {eff : Ctx → Ctx} (h : ∀ c, (eff c).caps = c.caps) (t : Int) (pop : Bool) (c : Ctx) :
    (transfer t pop eff c).out.caps = c.caps := by
  unfold transfer; split
  · rfl
  · exact h c

@[simp] theorem branchIf_caps (taken : Bool) (off : BitVec 32) (c : Ctx) : (branchIf taken off c).out.caps = c.caps := by
  unfold branchIf; split
  · exact transfer_caps (fun _ => rfl) _ _ c
  · rfl

@[simp] theorem linkPc_caps (c : Ctx) : (linkPc c).caps = c.caps := by simp [linkPc]

@[simp] theorem pauseBody_caps (b : FmtY) (s : State) : (pauseBody b s).out.caps = s.caps := by
  unfold pauseBody; split
  · split <;> rfl
  · split <;> simp

@[simp] theorem loopEnter_caps (sloop : Bool) (n vlmax : Nat) (fin : Nat) (c : Ctx) :
    (loopEnter sloop n vlmax fin c).out.caps = c.caps := by simp [loopEnter]

@[simp] theorem tretCtx_caps (c : Ctx) : (tretCtx c).out.caps = c.caps := by simp [tretCtx]

/-! ### Machine/Copy.lean -/

@[simp] theorem State.apertureStore_caps (s : State) (off : Nat) (p : Copy) :
    (State.apertureStore s off p).caps = s.caps := by simp [State.apertureStore]

@[simp] theorem State.queueCopy_caps (s : State) (ch : Nat) (p : Copy) : (State.queueCopy s ch p).caps = s.caps := by simp [State.queueCopy]

@[simp] theorem copyTail_caps (b : FmtY) (w : Win) (t : Template) (s : State) : (copyTail b w t s).out.caps = s.caps := by
  unfold copyTail; dsimp only; repeat' split
  all_goals simp

@[simp] theorem copyBody_caps (b : FmtY) (s : State) : (copyBody b s).out.caps = s.caps := by
  unfold copyBody; dsimp only; split
  · simp
  · split
    · simp
    · split
      · rename_i d hd
        have h := State.heard_caps hd
        split <;> simpa using h
      · split
        · simp
        · split <;> rename_i e <;> simpa using Did.caps_of_eq e (State.doAccess_caps _ _)

/-! ### Machine/Scalar.lean -/

@[simp] theorem binA_caps (f : Word → Word → Word) (b : FmtA) (c : Ctx) : (binA f b c).out.caps = c.caps := by simp [binA]

@[simp] theorem binB_caps (f : Word → Word → Word) (b : FmtB) (c : Ctx) : (binB f b c).out.caps = c.caps := by simp [binB]

@[simp] theorem unA_caps (f : Word → Word) (b : FmtA) (c : Ctx) : (unA f b c).out.caps = c.caps := by simp [unA]

@[simp] theorem selCtx_caps (b : FmtA) (c : Ctx) : (selCtx b c).out.caps = c.caps := by simp [selCtx]

@[simp] theorem liCtx_caps (b : FmtK) (c : Ctx) : (liCtx b c).out.caps = c.caps := by simp [liCtx]

@[simp] theorem lihCtx_caps (b : FmtK) (c : Ctx) : (lihCtx b c).out.caps = c.caps := by simp [lihCtx]

/-! ### Machine/VecArith.lean -/

@[simp] theorem Ctx.laneWrite_caps (c : Ctx) (b : FmtV) (t : Ety) (f : Nat → Nat × Flags) :
    (Ctx.laneWrite c b t f).caps = c.caps := by simp [Ctx.laneWrite]

@[simp] theorem vecFrame_caps (ok : Ety → Bool) (srcs : List (BitVec 6)) (b : FmtV) (f : Ctx → Ety → Nat → Nat × Flags) (c : Ctx) :
    (vecFrame ok srcs b f c).out.caps = c.caps := by simp [vecFrame]

@[simp] theorem cmpCtx_caps (vs : Bool) (b : FmtV) (c : Ctx) : (cmpCtx vs b c).out.caps = c.caps := by simp [cmpCtx]

@[simp] theorem cvtCtx_caps (sr : Bool) (b : FmtV) (c : Ctx) : (cvtCtx sr b c).out.caps = c.caps := by simp [cvtCtx]

@[simp] theorem sumChecks_caps {k : Ety → Ctx} {c : Ctx} (h : ∀ t, (k t).caps = c.caps) (b : FmtV) :
    (sumChecks b c k).out.caps = c.caps := by
  unfold sumChecks; dsimp only; repeat' split
  all_goals simp [h]

@[simp] theorem dotCtx_caps (b : FmtV) (c : Ctx) : (dotCtx b c).out.caps = c.caps := by simp [dotCtx]

/-! ### Machine/VecMove.lean -/

@[simp] theorem Ctx.finishMma_caps (c : Ctx) : (Ctx.finishMma c).caps = c.caps := by
  unfold Ctx.finishMma; split <;> rfl

@[simp] theorem Ctx.moveMasked_caps (c : Ctx) (b : FmtV) (t : Ety) (f : Nat → Nat) :
    (Ctx.moveMasked c b t f).caps = c.caps := by simp [Ctx.moveMasked]

@[simp] theorem slideCtx_caps (b : FmtV) (c : Ctx) : (slideCtx b c).out.caps = c.caps := by simp [slideCtx]

@[simp] theorem permCtx_caps (b : FmtV) (c : Ctx) : (permCtx b c).out.caps = c.caps := by simp [permCtx]

@[simp] theorem packChecks_caps {k : Ety → Ctx} {c : Ctx} (h : ∀ t, (k t).caps = c.caps) (b : FmtV) :
    (packChecks b c k).out.caps = c.caps := by
  unfold packChecks; dsimp only; repeat' split
  all_goals simp [h]

@[simp] theorem compressCtx_caps (b : FmtV) (c : Ctx) (t : Ety) : (compressCtx b c t).caps = c.caps := Ctx.caps_setV _ _ _

@[simp] theorem expandCtx_caps (b : FmtV) (c : Ctx) (t : Ety) : (expandCtx b c t).caps = c.caps := Ctx.caps_setV _ _ _

@[simp] theorem vgetCtx_caps (h : Hdr) (b : FmtV) (c0 : Ctx) : (vgetCtx h b c0).out.caps = c0.caps := by simp [vgetCtx]

@[simp] theorem vputCtx_caps (b : FmtV) (c : Ctx) : (vputCtx b c).out.caps = c.caps := by simp [vputCtx]

@[simp] theorem setlCtx_caps (d : RegNo) (n : Nat) (c : Ctx) : (setlCtx d n c).out.caps = c.caps := by simp [setlCtx]

@[simp] theorem Ctx.tagRegs_caps (c : Ctx) (t : Ety) (r n : Nat) : (Ctx.tagRegs c t r n).caps = c.caps := by simp [Ctx.tagRegs]

@[simp] theorem Ctx.dropTag_caps (c : Ctx) (t : Nat) : (Ctx.dropTag c t).caps = c.caps := by
  unfold Ctx.dropTag; dsimp only; repeat' split
  all_goals simp

@[simp] theorem Ctx.newShape_caps (c : Ctx) (sh : BitVec 2) : (Ctx.newShape c sh).caps = c.caps := by
  have h : ((List.range 16).foldl Ctx.dropTag c.endDrain).caps = c.caps :=
    (Ctx.caps_foldl (fun c t => Ctx.dropTag_caps c t) _ _).trans (Ctx.caps_updArr _ _)
  unfold Ctx.newShape; dsimp only
  generalize List.foldl Ctx.dropTag c.endDrain (List.range 16) = c1 at h ⊢
  exact h

@[simp] theorem setshapeCtx_caps (d : RegNo) (sh : BitVec 2) (c : Ctx) : (setshapeCtx d sh c).out.caps = c.caps := by
  unfold setshapeCtx; repeat' split
  · exact Ctx.caps_setS ..
  · rfl
  · exact (Ctx.caps_setS ..).trans (Ctx.newShape_caps c sh)

/-! ### Machine/Csr.lean -/

@[simp] theorem Ctx.csrWrite_caps (c : Ctx) (n : Nat) (w : Word) : (Ctx.csrWrite c n w).out.caps = c.caps := by simp [Ctx.csrWrite]

@[simp] theorem Ctx.settleFlags_caps (c : Ctx) (n : Nat) : (Ctx.settleFlags c n).caps = c.caps := by simp [Ctx.settleFlags]

@[simp] theorem csrrBody_caps (h : Hdr) (b : FmtY) (s0 : State) : (csrrBody h b s0).out.caps = s0.caps := by simp [csrrBody]

@[simp] theorem csrwBody_caps (f : Word → Word → Word) (b : FmtY) (s0 : State) : (csrwBody f b s0).out.caps = s0.caps := by simp [csrwBody]

/-! ### Machine/Matrix.lean -/

@[simp] theorem Ctx.flatPut_caps (c : Ctx) (v e x : Nat) : (Ctx.flatPut c v e x).caps = c.caps := by simp [Ctx.flatPut]

@[simp] theorem Ctx.loadTile_caps (c : Ctx) (t : Tile) : (Ctx.loadTile c t).caps = c.caps := by simp [Ctx.loadTile]

@[simp] theorem Ctx.drain_caps (c : Ctx) : (Ctx.drain c).caps = c.caps := by
  unfold Ctx.drain; dsimp only; split <;> simp

@[simp] theorem Ctx.startDrain_caps (c : Ctx) : (Ctx.startDrain c).caps = c.caps := by simp [Ctx.startDrain]

@[simp] theorem Ctx.holdZero_caps (c : Ctx) (t : Tile) (ty : Ety) : (Ctx.holdZero c t ty).caps = c.caps := by simp [Ctx.holdZero]

@[simp] theorem Ctx.addMmaFlags_caps (c : Ctx) (f : Flags) : (Ctx.addMmaFlags c f).caps = c.caps := by simp [Ctx.addMmaFlags]

@[simp] theorem Ctx.mmaRetired_caps (c : Ctx) : (Ctx.mmaRetired c).caps = c.caps := by simp [Ctx.mmaRetired]

@[simp] theorem Ctx.rsStep_caps (c : Ctx) (x : MmaIn) (k : Nat) : (Ctx.rsStep c x k).caps = c.caps := by simp [Ctx.rsStep]

@[simp] theorem Ctx.wsRow_caps (c : Ctx) (x : MmaIn) (vd i : Nat) : (Ctx.wsRow c x vd i).caps = c.caps := by simp [Ctx.wsRow]

@[simp] theorem Ctx.holdTile_caps (c : Ctx) (b : FmtX) : (Ctx.holdTile c b).caps = c.caps := by simp [Ctx.holdTile]

@[simp] theorem Ctx.mmaAwait_caps (c : Ctx) (b : FmtX) : (Ctx.mmaAwait c b).caps = c.caps := by
  exact ((Ctx.awaitDrain_caps _ _ _).trans (Ctx.awaitDrain_caps _ _ _)).trans (Ctx.awaitDrain_caps c _ _)

@[simp] theorem Ctx.fillStreams_caps (c : Ctx) : (Ctx.fillStreams c).caps = c.caps := by simp [Ctx.fillStreams]

@[simp] theorem Ctx.mmaBegin_caps (c : Ctx) (b : FmtX) : (Ctx.mmaBegin c b).caps = c.caps := by simp [Ctx.mmaBegin]

@[simp] theorem Ctx.mmaStep_caps (c : Ctx) (b : FmtX) (x : MmaIn) : (Ctx.mmaStep c b x).1.caps = c.caps := by
  unfold Ctx.mmaStep; dsimp only; repeat' split
  all_goals simp

@[simp] theorem State.dissolve_caps (s : State) (id : Nat) : (State.dissolve s id).caps = s.caps := by
  unfold State.dissolve; dsimp only
  rw [State.caps_mk, State.caps_eta]
  refine State.caps_mapSlots fun k c => ?_
  dsimp only [Ctx.caps]; split <;> rfl

@[simp] theorem State.leaveRope_caps (s : State) (k : Nat) : (State.leaveRope s k).caps = s.caps := by simp [State.leaveRope]

@[simp] theorem Ctx.retireHere_caps (c : Ctx) : (Ctx.retireHere c).caps = c.caps := by simp [Ctx.retireHere]

@[simp] theorem State.formRope_caps (s : State) (l : Nat) (ks : List Nat) :
    (State.formRope s l ks).caps = s.caps := by simp [State.formRope]

@[simp] theorem ropeTry_caps (l p : Nat) (s : State) : (ropeTry l p s).out.caps = s.caps := by
  unfold ropeTry; split
  · rfl
  · split <;> simp

@[simp] theorem State.ropeExpire_caps (s : State) (k : Nat) : (State.ropeExpire s k).caps = s.caps := by
  unfold State.ropeExpire; split
  · split
    · rfl
    · exact State.caps_foldl (fun s j => by simp) _ s
  · rfl

@[simp] theorem ropeBody_caps (b : FmtX) (s : State) : (ropeBody b s).out.caps = s.caps := by
  unfold ropeBody; dsimp only; split <;> simp

@[simp] theorem Ctx.ropeStep_caps (c0 : Ctx) (b0 : FmtX) (c : Ctx) : (c0.ropeStep b0 c).caps = c.caps := by
  unfold Ctx.ropeStep; split <;> simp

@[simp] theorem State.ropeRun_caps (s : State) (ks : List Nat) (c0 : Ctx) (b0 : FmtX) : (State.ropeRun s ks c0 b0).out.caps = s.caps := by
  unfold State.ropeRun; dsimp only; split
  · exact (State.caps_updCtx (fun c => by simp)).trans (State.caps_foldl (fun s k => by simp) _ s)
  · exact State.caps_foldl (fun s k => State.caps_updSlot fun c => by split <;> simp) _ s

@[simp] theorem State.ropeMma_caps (s : State) : (State.ropeMma s).out.caps = s.caps := by
  unfold State.ropeMma; dsimp only; repeat' split
  all_goals simp

@[simp] theorem mmaGo_caps (b : FmtX) (s : State) : (mmaGo b s).out.caps = s.caps := by simp [mmaGo]

@[simp] theorem mmaBody_caps (b : FmtX) (s : State) : (mmaBody b s).out.caps = s.caps := by
  unfold mmaBody; dsimp only; repeat' split
  all_goals simp

@[simp] theorem State.askPower_caps (s : State) (k : Nat) : (State.askPower s k).caps = s.caps := by
  unfold State.askPower; dsimp only; split <;> simp

@[simp] theorem State.ask_caps (s : State) (k : Nat) (v : Bool) : (State.ask s k v).caps = s.caps := by simp [State.ask]

@[simp] theorem State.own_caps (s : State) (k t : Nat) : (State.own s k t).caps = s.caps := by simp [State.own]

@[simp] theorem State.disown_caps (s : State) (k : Nat) : (State.disown s k).caps = s.caps := by simp [State.disown]

@[simp] theorem takeArray_caps (t : Nat) (s : State) : (takeArray t s).out.caps = s.caps := by simp [takeArray]

theorem State.modeStop_caps {s : State} {r : WR State} (h : s.modeStop = some r) : r.out.caps = s.caps := by
  have land : (List.foldl Ctx.land s.ctx s.ctx.vtags).caps = s.ctx.caps := Ctx.caps_foldl (fun c t => Ctx.land_caps c t) _ _
  unfold State.modeStop at h; dsimp only at h
  split at h
  · cases h; simp
  · split at h
    · cases h
    · split at h
      · cases h; rfl
      · rw [Option.map_eq_some_iff] at h
        obtain ⟨x, -, rfl⟩ := h
        simp [land]

@[simp] theorem modeArrBody_caps (t : Nat) (s : State) : (modeArrBody t s).out.caps = s.caps := by simp [modeArrBody]

@[simp] theorem modeVecBody_caps (s : State) : (modeVecBody s).out.caps = s.caps := by
  unfold modeVecBody; split
  · rfl
  · simp

@[simp] theorem Ctx.loadWeights_caps (c : Ctx) (vb k n : Nat) (t : Ety) : (Ctx.loadWeights c vb k n t).caps = c.caps := by
  exact Ctx.caps_updArr _ _

@[simp] theorem mwldCtx_caps (b : FmtX) (c : Ctx) : (mwldCtx b c).out.caps = c.caps := by
  unfold mwldCtx; dsimp only; repeat' split
  all_goals simp

@[simp] theorem mdrainCtx_caps (b : FmtX) (c : Ctx) : (mdrainCtx b c).out.caps = c.caps := by
  unfold mdrainCtx; repeat' split
  all_goals simp

@[simp] theorem mzeroCtx_caps (b : FmtX) (c : Ctx) : (mzeroCtx b c).out.caps = c.caps := by
  unfold mzeroCtx; dsimp only; repeat' split
  all_goals simp

/-! ### Machine/Nodes.lean -/

@[simp] theorem State.boundaries_caps (s : State) (n : Nat) : (State.boundaries s n).caps = s.caps := by simp [State.boundaries]

@[simp] theorem State.updVf_caps (s : State) (v : Nat) (f : VfState → VfState) : (State.updVf s v f).caps = s.caps := by simp [State.updVf]

@[simp] theorem State.updNode_caps (s : State) (nid : Nat) (f : Node → Node) :
    (State.updNode s nid f).caps = s.caps := by simp [State.updNode]

@[simp] theorem State.homeWrite_caps (s : State) (loc vf : Nat) (bs : List Byte) (e : Entry) (buf : BitVec 20) (off : Nat) :
    (State.homeWrite s loc vf bs e buf off).caps = s.caps := by simp [State.homeWrite]

@[simp] theorem State.farWrite_caps (s : State) (loc vf : Nat) (bs : List Byte) (e : Entry) (buf : BitVec 20) (off : Nat) :
    (State.farWrite s loc vf bs e buf off).caps = s.caps := by simp [State.farWrite]

@[simp] theorem State.putRecord_caps (s : State) (n : Node) (o : Nat) (bs : List Byte) : (State.putRecord s n o bs).caps = s.caps := by
  unfold State.putRecord; dsimp only; repeat' split
  all_goals simp

@[simp] theorem State.writeRecord_caps (s : State) (n : Node) (r : Report) :
    (State.writeRecord s n r).caps = s.caps := by simp [State.writeRecord]

@[simp] theorem State.becomeReady_caps (s : State) (n : Node) : (State.becomeReady s n).caps = s.caps := by simp [State.becomeReady]

@[simp] theorem State.decrement_caps (s : State) (v : Nat) (id : BitVec 32) : (State.decrement s v id).caps = s.caps := by
  unfold State.decrement; split <;> simp

/-! ### Machine/Sched.lean -/

@[simp] theorem Ctx.beginSave_caps (why : SaveReason) (c : Ctx) : (Ctx.beginSave why c).caps = c.caps := by simp [Ctx.beginSave]

@[simp] theorem State.saveWhole_caps (s : State) (k : Nat) (why : SaveReason) :
    (State.saveWhole s k why).caps = s.caps := by simp [State.saveWhole]

@[simp] theorem State.claim_caps (s : State) (k uid : Nat) : (State.claim s k uid).caps = s.caps := by simp [State.claim]

@[simp] theorem yieldBody_caps (s : State) : (yieldBody s).out.caps = s.caps := by
  unfold yieldBody; split <;> simp

@[simp] theorem haltCopyFault_caps (s : State) (ch : Nat) (f : CopyFault) :
    (haltCopyFault s ch f).out.caps = s.caps := by simp [haltCopyFault]

@[simp] theorem Ctx.halted_caps (c : Ctx) : (Ctx.halted c).caps = c.caps := by simp [Ctx.halted]

@[simp] theorem haltBody_caps (s : State) : (haltBody s).out.caps = s.caps := by
  unfold haltBody
  refine deliverThen_caps (fun s => ?_) s
  split
  · simp
  · split <;> simp

/-! ### Machine/EvQueue.lean -/

@[simp] theorem State.recordParts_caps (s : State) (l : List Part) : (State.recordParts s l).out.caps = s.caps := by
  unfold State.recordParts; split <;> simp

/-! ### Machine/MemScalar.lean -/

@[simp] theorem accessEnd_caps (b : FmtM) (s : State) : (accessEnd b s).out.caps = s.caps := by simp [accessEnd]

@[simp] theorem tagResult_caps (h : Hdr) (b : FmtM) (bs : List Byte) (s : State) : (tagResult h b bs s).caps = s.caps := by simp [tagResult]

@[simp] theorem taggedEnd_caps (h : Hdr) (b : FmtM) (d : Did) : (taggedEnd h b d).out.caps = d.out.caps := by
  cases d <;> simp [taggedEnd]

@[simp] theorem loadBody_caps (h : Hdr) (b : FmtM) (n : Nat) (idx : Bool) (s : State) : (loadBody h b n idx s).out.caps = s.caps := by
  unfold loadBody; split
  · rename_i d hd
    exact (taggedEnd_caps h b d).trans (State.heard_caps hd)
  · split <;> simp

@[simp] theorem storeEnd_caps (b : FmtM) (d : Did) : (storeEnd b d).out.caps = d.out.caps := by
  cases d with
  | bad s r cause stamp => unfold storeEnd; dsimp only; split <;> simp
  | got s bs => simp [storeEnd]
  | wait s => rfl

@[simp] theorem storeTail_caps (b : FmtM) (n : Nat) (idx : Bool) (s : State) : (storeTail b n idx s).out.caps = s.caps := by
  unfold storeTail; split
  · simp
  · dsimp only; split
    · exact releaseThen_caps (fun s => by simp) _ _
    · simp

@[simp] theorem storeBody_caps (b : FmtM) (n : Nat) (idx : Bool) (s : State) : (storeBody b n idx s).out.caps = s.caps := by
  unfold storeBody; split
  · rename_i d hd
    exact (storeEnd_caps b d).trans (State.heard_caps hd)
  · split
    · exact deliverThen_caps (storeTail_caps b n idx) s
    · simp

@[simp] theorem atomTail_caps (h : Hdr) (b : FmtM) (n : Nat) (cas : Bool) (s : State) : (atomTail h b n cas s).out.caps = s.caps := by
  unfold atomTail; split
  · rfl
  · dsimp only; split
    · refine releaseThen_caps (fun s => ?_) _ _
      split <;> simp
    · split <;> simp

@[simp] theorem atomBody_caps (h : Hdr) (b : FmtM) (n : Nat) (cas : Bool) (s : State) : (atomBody h b n cas s).out.caps = s.caps := by
  unfold atomBody; split
  · rename_i d hd
    exact (taggedEnd_caps h b d).trans (State.heard_caps hd)
  · split
    · exact deliverThen_caps (atomTail_caps h b n cas) s
    · simp

/-! ### Machine/Tie.lean -/

@[simp] theorem Ctx.putV_caps (c : Ctx) (t : Nat) (d : BitVec 6) (n : Nat) (l : LSlot) (st : TagState) (sfn : Bool) (flags : Flags) :
    (Ctx.putV c t d n l st sfn flags).caps = c.caps := by simp [Ctx.putV]

@[simp] theorem Ctx.allocV_caps (c : Ctx) (t : Nat) (d : BitVec 6) (l : LSlot) (sfn : Bool) (flags : Flags) :
    (Ctx.allocV c t d l sfn flags).caps = c.caps := by simp [Ctx.allocV]

@[simp] theorem sfnCtx_caps (h : Hdr) (b : FmtS) (c : Ctx) : (sfnCtx h b c).out.caps = c.caps := by simp [sfnCtx]

@[simp] theorem Ctx.landSfn_caps (c : Ctx) : (Ctx.landSfn c).caps = c.caps := by simp [Ctx.landSfn]

@[simp] theorem sfloadCtx_caps (b : FmtS) (c : Ctx) : (sfloadCtx b c).out.caps = c.caps := by
  unfold sfloadCtx; dsimp only; repeat' split
  all_goals simp

/-! ### Machine/MemVector.lean -/

@[simp] theorem State.atElem_caps (s : State) (e : Nat) : (State.atElem s e).caps = s.caps := by simp [State.atElem]

/-- The state that an element of a vector access, or a block of a stream, leaves. -/
def ElemDid.after : ElemDid → State
  | .got s _ => s
  | .out w => w.out
  | .late s _ _ => s

@[simp] theorem ElemDid.after_got (s : State) (bs : List Byte) : (ElemDid.got s bs).after = s := (rfl)
@[simp] theorem ElemDid.after_out (w : WR State) : (ElemDid.out w).after = w.out := (rfl)
@[simp] theorem ElemDid.after_late (s : State) (r : Req) (c : Cause) : (ElemDid.late s r c).after = s := (rfl)

theorem ElemDid.caps_of_eq {d e : ElemDid} {s : State} (h : d = e) (hd : d.after.caps = s.caps) : e.after.caps = s.caps := h ▸ hd

@[simp] theorem elemOf_caps (e : Nat) (d : Did) : (elemOf e d).after.caps = d.out.caps := by
  cases d with
  | bad s r cause stamp => unfold elemOf; dsimp only; split <;> simp
  | got s bs => rfl
  | wait s => simp [elemOf]

@[simp] theorem State.elemAccess_caps (s : State) (e : Nat) (n : RegNo) (off : Int) (w align : Nat) (m : AccMode) (k : AccKind) (tag : Nat)
    (base : OutDst) (data : List Byte) : (s.elemAccess e n off w align m k tag base data).after.caps = s.caps := by
  unfold State.elemAccess; split
  · rename_i d hd
    exact (elemOf_caps e d).trans (State.heard_caps hd)
  · dsimp only; split
    · simp [ElemDid.after]
    · simp

@[simp] theorem Ctx.landStart_caps (c : Ctx) (t : Nat) (d : RegNo) (ty : Ety) : (Ctx.landStart c t d ty).caps = c.caps := by
  unfold Ctx.landStart; dsimp only; split
  · rfl
  · exact (Ctx.putV_caps ..).trans (Ctx.retag_caps c t)

@[simp] theorem Ctx.updLand_caps (c : Ctx) (t : Nat) (f : LSlot → LSlot) : (Ctx.updLand c t f).caps = c.caps := by
  exact Ctx.caps_setSlot _ _ _

@[simp] theorem Ctx.landDone_caps (c : Ctx) (t : Nat) (d : RegNo) (ty : Ety) :
    (Ctx.landDone c t d ty).caps = c.caps := by simp [Ctx.landDone]

@[simp] theorem vloadLoop_caps (h : Hdr) (b : FmtM) (form : Nat) (ty : Ety) (l : List Nat) (s : State) :
    (vloadLoop h b form ty l s).out.caps = s.caps := by
  induction l generalizing s with
  | nil => simp [vloadLoop]
  | cons i l ih =>
    unfold vloadLoop; split
    · exact ih s
    · dsimp only
      split <;> rename_i e <;> have h := ElemDid.caps_of_eq e (State.elemAccess_caps ..)
      · exact h
      · simpa using h
      · exact (ih _).trans (by simpa using h)

@[simp] theorem vloadBody_caps (h : Hdr) (b : FmtM) (form : Nat) (s : State) : (vloadBody h b form s).out.caps = s.caps := by
  unfold vloadBody; dsimp only; repeat' split
  all_goals simp

@[simp] theorem vstoreLoop_caps (b : FmtM) (form : Nat) (v : VReg) (l : List Nat) (s : State) :
    (vstoreLoop b form v l s).out.caps = s.caps := by
  induction l generalizing s with
  | nil => simp [vstoreLoop]
  | cons i l ih =>
    unfold vstoreLoop; split
    · exact ih s
    · dsimp only
      split <;> rename_i e <;> have h := ElemDid.caps_of_eq e (State.elemAccess_caps ..)
      · exact h
      · split
        · simpa using h
        · exact (ih _).trans (by simpa using h)
      · exact (ih _).trans h

@[simp] theorem vstoreBody_caps (b : FmtM) (form : Nat) (s : State) : (vstoreBody b form s).out.caps = s.caps := by
  unfold vstoreBody; dsimp only; repeat' split
  all_goals simp

@[simp] theorem withRecord_caps {s : State} {f : Nat → Binding → WR State} (hf : ∀ a r, (f a r).out.caps = s.caps) (n : RegNo) (off : Int)
    (need : BitVec 4) (k : AccKind) (store : Bool) : (withRecord n off need k store s f).out.caps = s.caps := by
  unfold withRecord; repeat' split
  all_goals simp [hf]

@[simp] theorem State.scratchStore_caps (s : State) (a : Nat) (bs : List Byte) :
    (State.scratchStore s a bs).caps = s.caps := by simp [State.scratchStore]

@[simp] theorem vbindBody_caps (b : FmtY) (s : State) : (vbindBody b s).out.caps = s.caps := by
  refine withRecord_caps (fun a r => ?_) _ _ _ _ _
  simp

@[simp] theorem vunbindBody_caps (b : FmtY) (s : State) : (vunbindBody b s).out.caps = s.caps := by
  refine withRecord_caps (fun a r => ?_) _ _ _ _ _
  simp

@[simp] theorem State.blockAccess_caps (s : State) (e : Nat) (r : Binding) (t : Ety) (blk : Nat) (m : AccMode) (k : AccKind) (pay : List Byte)
    (ms : AccMode) (tag : Nat) : (s.blockAccess e r t blk m k pay ms tag).after.caps = s.caps := by
  unfold State.blockAccess; split
  · rename_i d hd
    exact (elemOf_caps e d).trans (State.heard_caps hd)
  · dsimp only; split
    · simp [ElemDid.after]
    · split
      · simp [ElemDid.after]
      · split <;> simp

@[simp] theorem vldbEnd_caps (h : Hdr) (b : FmtM) (t : Ety) (a : Nat) (r : Binding) (s : State) :
    (vldbEnd h b t a r s).out.caps = s.caps := by simp [vldbEnd]

theorem ElemDid.caps_ite {p : Prop} [Decidable p] {a b : ElemDid} {s : State} (ha : a.after.caps = s.caps) (hb : b.after.caps = s.caps) :
    (if p then a else b).after.caps = s.caps := by split <;> assumption

@[simp] theorem vldbLoop_caps (h : Hdr) (b : FmtM) (t : Ety) (a : Nat) (r : Binding) (l : List Nat) (s : State) :
    (vldbLoop h b t a r l s).out.caps = s.caps := by
  induction l generalizing s with
  | nil => exact vldbEnd_caps ..
  | cons i l ih =>
    unfold vldbLoop; dsimp only
    split <;> rename_i e <;> have h := ElemDid.caps_of_eq e (ElemDid.caps_ite (State.blockAccess_caps ..) (State.elemAccess_caps ..))
    · exact h
    · simpa using h
    · exact (ih _).trans (by simpa using h)

@[simp] theorem vldbBody_caps (h : Hdr) (b : FmtM) (s : State) : (vldbBody h b s).out.caps = s.caps := by
  unfold vldbBody; split
  · rfl
  · refine withRecord_caps (fun a r => ?_) _ _ _ _ _
    dsimp only; repeat' split
    all_goals simp

@[simp] theorem Ctx.keepFlags_caps (e : Nat) (f : Flags) (c : Ctx) : (Ctx.keepFlags e f c).caps = c.caps := by simp [Ctx.keepFlags]

@[simp] theorem Ctx.endStream_caps (f : Flags) (c : Ctx) : (Ctx.endStream f c).caps = c.caps := by simp [Ctx.endStream]

@[simp] theorem streamLoop_caps (b : FmtM) (v : VReg) (t : Ety) (a : Nat) (r : Binding) (l : List Nat) (fs : Flags) (s : State) :
    (streamLoop b v t a r l fs s).out.caps = s.caps := by
  induction l generalizing fs s with
  | nil => simp [streamLoop]
  | cons i l ih =>
    unfold streamLoop; dsimp only
    split <;> rename_i e <;>
      have h := (ElemDid.caps_of_eq e (ElemDid.caps_ite (State.blockAccess_caps ..) (State.elemAccess_caps ..))).trans
        (State.caps_updCtx (Ctx.keepFlags_caps _ _))
    · exact h
    · split
      · simpa using h
      · exact (ih _ _).trans (by simpa using h)
    · exact (ih _ _).trans h

@[simp] theorem streamBody_caps (b : FmtM) (s : State) : (streamBody b s).out.caps = s.caps := by
  unfold streamBody; dsimp only; split
  · simp
  · refine withRecord_caps (fun a r => ?_) _ _ _ _ _
    repeat' split
    all_goals simp

/-! ### Machine/Sync.lean -/

@[simp] theorem State.fenceOrder_caps (s : State) (fn : BitVec 10) (scope : Nat) (acq : Bool) :
    (State.fenceOrder s fn scope acq).caps = s.caps := by simp [State.fenceOrder]

@[simp] theorem fenceBody_caps (b : FmtY) (s : State) : (fenceBody b s).out.caps = s.caps := by
  have tail (s : State) : (if s.fenceWaits b.fn b.scope.toNat then WR.stall (s.waitAt (.busy 0 []))
      else endRegion (s.fenceOrder b.fn b.scope.toNat (b.fn.getLsbD 4 || b.fn.getLsbD 6))).out.caps = s.caps := by split <;> simp
  unfold fenceBody; dsimp only
  repeat' split
  · exact deliverThen_caps (fun s => releaseThen_caps tail _ s) s
  · exact deliverThen_caps tail s
  · exact releaseThen_caps tail _ s
  · exact tail s

@[simp] theorem regionBody_caps (b : FmtY) (s : State) : (regionBody b s).out.caps = s.caps := by simp [regionBody]

@[simp] theorem State.monMakeRoom_caps (s : State) (sec : Nat) : (State.monMakeRoom s sec).caps = s.caps := by
  unfold State.monMakeRoom; dsimp only; repeat' split
  all_goals simp

@[simp] theorem monitorBody_caps (b : FmtY) (s : State) : (monitorBody b s).out.caps = s.caps := by
  unfold monitorBody; dsimp only; repeat' split
  all_goals simp

@[simp] theorem waitmEnd_caps (b : FmtY) (code : Nat) (s : State) : (waitmEnd b code s).out.caps = s.caps := by simp [waitmEnd]

@[simp] theorem waitmBody_caps (b : FmtY) (s : State) : (waitmBody b s).out.caps = s.caps := by
  unfold waitmBody; dsimp only; repeat' split
  all_goals simp

@[simp] theorem locqBody_caps (b : FmtY) (s : State) : (locqBody b s).out.caps = s.caps := by
  unfold locqBody; dsimp only; split <;> simp

@[simp] theorem State.cleanSend_caps (s : State) (line : Nat) (key : BitVec 7) (buf : BitVec 20) (off : Nat) :
    (State.cleanSend s line key buf off).caps = s.caps := by
  unfold State.cleanSend; dsimp only; split
  · split
    · rw [State.caps_mk, State.caps_eta, State.bdSend_caps]
    · rw [State.bdSend_caps]
  · rfl

@[simp] theorem State.cwbSend_caps (s : State) (line : Nat) (drop : Bool) (key : BitVec 7) (buf : BitVec 20) (off : Nat) :
    (State.cwbSend s line drop key buf off).caps = s.caps := by simp [State.cwbSend]

@[simp] theorem cwbLine_caps (b : FmtY) (w : Win) (en : Entry) (a : Nat) (s : State) :
    (cwbLine b w en a s).out.caps = s.caps := by simp [cwbLine]

@[simp] theorem cwbBody_caps (b : FmtY) (s : State) : (cwbBody b s).out.caps = s.caps := by
  unfold cwbBody; repeat' split
  all_goals simp

@[simp] theorem State.prefetch_caps (s : State) (p : Part) (level1 : Bool) : (State.prefetch s p level1).caps = s.caps := by
  unfold State.prefetch; dsimp only; repeat' split
  all_goals simp

@[simp] theorem prefBody_caps (b : FmtM) (s : State) : (prefBody b s).out.caps = s.caps := by
  unfold prefBody; repeat' split
  all_goals simp

end Sys2Proof.Machine
end

section
/-! PROOFS. No word makes or widens a capability (02 R32, R33; 21 R384). -/

open Sys2Proof Sys2Proof.Machine
namespace Sys2Proof.Machine

/-! ### A word from its issue to its end -/

/-- After its tags a word has the capabilities that it had before, or goes on to its meaning from a state that has them. -/
theorem commitThen_caps (w : Issue) (body : State → WR State) (s : State) :
    ∃ s1 : State, s1.caps = s.caps ∧ ((commitThen w body s).out.caps = s.caps ∨ commitThen w body s = body s1) := by
  unfold commitThen
  split
  · exact ⟨s, rfl, .inl rfl⟩
  · split
    · rename_i hf
      obtain ⟨-, rfl⟩ := consume_failed hf
      exact ⟨s, rfl, .inl (by simp)⟩
    · rename_i c0 h0
      split
      · exact ⟨s, rfl, .inl (by simp)⟩
      · rename_i c1 h1
        have k : (c1.awaitDrains (w.touches s.ctx)).caps = s.ctx.caps :=
          ((commitKept_awaitDrains c1 _).caps.trans (consume_kept h1).caps).trans (consume_kept h0).caps
        refine ⟨{ s with ctx := c1.awaitDrains (w.touches s.ctx) }, by simp [k], ?_⟩
        dsimp only
        split
        · exact .inl (by simp [k])
        · exact .inl (by simp [k])
        · exact .inr rfl

theorem finish_caps {w : Issue} {r : WR State} {t : State} (h : finish w r = .next t) : t.caps = r.out.caps := by
  cases r <;> cases h <;> simp

/-- The capabilities after a word are those before it, or those that its meaning leaves from a state that has them. -/
theorem runWord_caps {w : Issue} {body : State → WR State} {s t : State} (h : runWord w body s = .next t) :
    ∃ s1 : State, s1.caps = s.caps ∧ (t.caps = s.caps ∨ t.caps = (body s1).out.caps) := by
  unfold runWord at h
  split at h
  · cases h
  · split at h
    · split at h
      · cases h
        exact ⟨s, rfl, .inl (by simp)⟩
      · obtain ⟨s1, h1, e | e⟩ := commitThen_caps w body s
        · exact ⟨s1, h1, .inl ((finish_caps h).trans e)⟩
        · exact ⟨s1, h1, .inr ((finish_caps h).trans (by rw [e]))⟩
    · cases h
      exact ⟨s, rfl, .inl rfl⟩
    · exact ⟨s, rfl, .inr (finish_caps h)⟩

theorem runWord_keeps_caps {w : Issue} {body : State → WR State} {s t : State} (hb : ∀ s, (body s).out.caps = s.caps)
    (h : runWord w body s = .next t) : t.caps = s.caps := by
  obtain ⟨s1, h1, e | e⟩ := runWord_caps h
  · exact e
  · exact e.trans ((hb s1).trans h1)

theorem runMode_keeps_caps {w : Issue} {m : Nat} {s t : State} (h : runMode w m s = .next t) : t.caps = s.caps := by
  unfold runMode at h
  split at h
  · rename_i r hr
    refine (finish_caps h).trans ?_
    split at hr
    · exact State.modeStop_caps hr
    · cases hr
  · exact runWord_keeps_caps (fun s => by simp) h

theorem foundWord_keeps_caps {cause : Cause} {w : IWord} {s t : State} (h : foundWord cause w s = .next t) : t.caps = s.caps := by
  unfold foundWord at h
  split at h <;> cases h
  simp

/-! ### LAUNCH: it may free the slot that runs it, with its node -/

/-- The capabilities of the focused slot are those of s, or the slot is free and holds none. -/
def State.KeptOrFreed (s t : State) : Prop := t.caps = s.caps ∨ t.caps = (s.cur, Ctx.free.caps)

theorem State.KeptOrFreed.refl (s : State) : s.KeptOrFreed s := .inl rfl

theorem State.KeptOrFreed.trans {s t u : State} (h : s.KeptOrFreed t) (h' : t.KeptOrFreed u) : s.KeptOrFreed u := by
  rcases h' with h' | h'
  · rcases h with h | h
    · exact .inl (h'.trans h)
    · exact .inr (h'.trans h)
  · refine .inr (h'.trans ?_)
    rcases h with h | h <;> exact congrArg (·, Ctx.free.caps) (congrArg Prod.fst h)

theorem State.KeptOrFreed.then_caps {s t u : State} (h : s.KeptOrFreed t) (hu : u.caps = t.caps) : s.KeptOrFreed u := h.trans (.inl hu)

theorem State.KeptOrFreed.foldl {α : Type} {f : State → α → State} (h : ∀ (s : State) x, s.KeptOrFreed (f s x)) (l : List α) (s : State) :
    s.KeptOrFreed (l.foldl f s) := by
  induction l generalizing s with
  | nil => exact .refl s
  | cons x l ih => exact (h s x).trans (ih _)

theorem State.setSlot_keptOrFreed {c : Ctx} (hc : c.caps = Ctx.free.caps) (s : State) (k : Nat) : s.KeptOrFreed (s.setSlot k c) := by
  unfold State.setSlot; split
  · exact .inr (congrArg _ hc)
  · exact .inl rfl

theorem Ctx.emptied_caps (c : Ctx) : c.emptied.caps = Ctx.free.caps := rfl

theorem State.unbind_keptOrFreed (s : State) (k : Nat) : s.KeptOrFreed (s.unbind k) := by
  have asked : ((s.disown k).ask k false).caps = s.caps := by simp
  have freed := State.setSlot_keptOrFreed (Ctx.emptied_caps (s.slot k)) ((s.disown k).ask k false) k
  refine (State.KeptOrFreed.trans (.inl asked) freed).then_caps ?_
  simp [State.unbind, State.placeSlot]

theorem State.dropMembers_keptOrFreed (s : State) (p : Launch → Bool) : s.KeptOrFreed (s.dropMembers p) :=
  (State.KeptOrFreed.foldl State.unbind_keptOrFreed _ s).then_caps (State.caps_mk ..)

theorem State.closeNode_keptOrFreed (s : State) (n : Node) (r : Report) : s.KeptOrFreed (s.closeNode n r) :=
  (State.dropMembers_keptOrFreed s fun l => l.nid == n.nid).then_caps (by simp [State.closeNode])

theorem State.cancel_keptOrFreed (k v : Nat) (l : List (BitVec 32)) (s : State) : s.KeptOrFreed (State.cancel k v l s) := by
  induction k generalizing l s with
  | zero => exact .refl s
  | succ k ih =>
    unfold State.cancel
    refine State.KeptOrFreed.foldl (fun s id => ?_) l s
    split
    · exact (State.closeNode_keptOrFreed s _ _).trans (ih _ _)
    · exact .inl (State.updVf_caps ..)

theorem State.completeNode_keptOrFreed (s : State) (n : Node) (r : Report) : s.KeptOrFreed (s.completeNode n r) := by
  unfold State.completeNode; dsimp only; split
  · exact (State.closeNode_keptOrFreed s n r).then_caps (State.caps_foldl (fun s id => State.decrement_caps s n.vf id) _ _)
  · exact (State.closeNode_keptOrFreed s n r).trans (State.cancel_keptOrFreed ..)

theorem State.submit_keptOrFreed (s : State) (n : Node) : s.KeptOrFreed (s.submit n) := by
  unfold State.submit
  extract_lets v q n1 s1 s2
  have h2 : s2.caps = s.caps := by
    unfold s2; split
    · exact (State.updVf_caps ..).trans (State.caps_mk ..)
    · exact State.caps_mk ..
  repeat' split
  · exact State.KeptOrFreed.trans (.inl h2) (State.completeNode_keptOrFreed ..)
  · exact State.KeptOrFreed.trans (.inl h2) (State.completeNode_keptOrFreed ..)
  · exact .inl ((State.becomeReady_caps ..).trans h2)

theorem State.submitChild_keptOrFreed (s : State) (bs : List Byte) (cap : BitVec 128) : s.KeptOrFreed (s.submitChild bs cap) := by
  unfold State.submitChild; dsimp only; split
  · exact .inl (State.writeRecord_caps ..)
  · have h : State.caps { s with nextUid := s.nextUid + 1 } = s.caps := State.caps_mk ..
    exact State.KeptOrFreed.trans (.inl h) (State.submit_keptOrFreed ..)

theorem launchTail_keptOrFreed (b : FmtY) (bs : List Byte) (s : State) : s.KeptOrFreed (launchTail b bs s).out := by
  unfold launchTail; dsimp only; repeat' split
  · exact .inl (by simp)
  · exact .inl (by simp)
  · exact .inl (by simp)
  · exact (State.submitChild_keptOrFreed s bs (s.ctx.getC b.a).val).then_caps (by simp)

theorem launchRead_keptOrFreed {s : State} {d : Did} (h : d.out.caps = s.caps) (b : FmtY) : s.KeptOrFreed (launchRead b d).out := by
  cases d with
  | wait t => exact .inl h
  | bad t r cause stamp => exact .inl ((by simp [launchRead] : (launchRead b (.bad t r cause stamp)).out.caps = t.caps).trans h)
  | got t bs => exact State.KeptOrFreed.trans (.inl h) (launchTail_keptOrFreed b bs t)

theorem wrapFirst_keptOrFreed {k : State → WR State} (hk : ∀ s : State, s.KeptOrFreed (k s).out) (s : State) :
    s.KeptOrFreed (wrapFirst k s).out := by
  unfold wrapFirst; repeat' split
  · exact .inl (by simp)
  · exact hk s
  · exact .refl s
  · exact State.KeptOrFreed.trans (.inl (by simp)) (hk (s.waitAt .none_))
  · exact hk s

theorem arriveThen_keptOrFreed {k : State → WR State} (hk : ∀ s : State, s.KeptOrFreed (k s).out) (scope : Nat) (s : State) :
    s.KeptOrFreed (arriveThen scope k s).out := by
  unfold arriveThen releaseThen; repeat' split
  · exact hk s
  · exact .inl (by simp)
  · exact .inl (by simp)

theorem deliverThen_keptOrFreed {k : State → WR State} (hk : ∀ s : State, s.KeptOrFreed (k s).out) (s : State) :
    s.KeptOrFreed (deliverThen k s).out := by
  unfold deliverThen; split
  · rename_i h; exact .inl (deferredTrap_caps h)
  · exact hk s

theorem launchBody_keptOrFreed (b : FmtY) (s : State) : s.KeptOrFreed (launchBody b s).out := by
  refine deliverThen_keptOrFreed (fun s => ?_) s
  split
  · exact .inl (by simp)
  · split
    · exact launchRead_keptOrFreed (State.heard_caps ‹_›) b
    · refine wrapFirst_keptOrFreed (arriveThen_keptOrFreed (fun s => ?_) 4) s
      split
      · exact .inl (by simp)
      · exact launchRead_keptOrFreed (State.recordParts_caps ..) b

/-! ### The fields of a capability value (Table 2-1) -/

section
variable (buf : BitVec 20) (rights : BitVec 4) (d s : Bool) (base len : Nat)

/-- A bit of a capability value lies in one of its fields. -/
theorem getLsbD_mkCap (i : Nat) : (mkCap buf rights d s base len).getLsbD i =
    if i < 4 then false else if i < 52 then (BitVec.ofNat 48 len).getLsbD (i - 4) else
    if i < 100 then (BitVec.ofNat 48 base).getLsbD (i - 52) else if i < 102 then false else
    if i < 103 then (BitVec.ofBool s).getLsbD (i - 102) else if i < 104 then (BitVec.ofBool d).getLsbD (i - 103) else
    if i < 108 then rights.getLsbD (i - 104) else buf.getLsbD (i - 108) := by
  unfold mkCap
  change BitVec.getLsbD (w := 20 + (4 + (1 + (1 + (2 + (48 + (48 + 4))))))) _ i = _
  simp only [Nat.reduceAdd]
  grind

theorem capBuf_mkCap : capBuf (mkCap buf rights d s base len) = buf := by
  ext i hi
  rw [capBuf, BitVec.getElem_extractLsb', getLsbD_mkCap, ← BitVec.getLsbD_eq_getElem hi]
  grind

theorem capRights_mkCap : capRights (mkCap buf rights d s base len) = rights := by
  ext i hi
  rw [capRights, BitVec.getElem_extractLsb', getLsbD_mkCap, ← BitVec.getLsbD_eq_getElem hi]
  grind

theorem capD_mkCap : capD (mkCap buf rights d s base len) = d := by
  rw [capD, getLsbD_mkCap]
  simp

theorem capS_mkCap : capS (mkCap buf rights d s base len) = s := by
  rw [capS, getLsbD_mkCap]
  simp

theorem capBase_mkCap : capBase (mkCap buf rights d s base len) = base % 2 ^ 48 := by
  have h : (mkCap buf rights d s base len).extractLsb' 52 48 = BitVec.ofNat 48 base := by
    ext i hi
    rw [BitVec.getElem_extractLsb', getLsbD_mkCap, ← BitVec.getLsbD_eq_getElem hi]
    grind
  rw [capBase, h, BitVec.toNat_ofNat]

theorem capLen_mkCap : capLen (mkCap buf rights d s base len) = len % 2 ^ 48 := by
  have h : (mkCap buf rights d s base len).extractLsb' 4 48 = BitVec.ofNat 48 len := by
    ext i hi
    rw [BitVec.getElem_extractLsb', getLsbD_mkCap, ← BitVec.getLsbD_eq_getElem hi]
    grind
  rw [capLen, h, BitVec.toNat_ofNat]

end

/-! ### What a word may do to the capabilities of its context -/

/-- From context c to d no capability is made or widened, and the windows of d end within 2^48 bytes where those of c do. -/
def Ctx.Narrows (c d : Ctx) : Prop :=
  CapsOk c → CapsOk d ∧ ∀ n : RegNo, (d.getC n).valid = true →
    (d.getC n).val ∈ c.launch.captab ∨ ∃ m : RegNo, (c.getC m).valid = true ∧ Within (d.getC n).val (c.getC m).val

theorem Within.refl (v : BitVec 128) : Within v v := ⟨rfl, fun _ h h' => ⟨h, h'⟩, by simp, id, rfl⟩

theorem Ctx.getC_congr {c d : Ctx} (h : d.caps = c.caps) (n : RegNo) : d.getC n = c.getC n := by
  have h1 : d.regs.c = c.regs.c := congrArg Prod.fst h
  rw [Ctx.getC, h1, Ctx.getC]

theorem Ctx.captab_congr {c d : Ctx} (h : d.caps = c.caps) : d.launch.captab = c.launch.captab := congrArg Prod.snd h

theorem Ctx.Narrows.congr {c d c' d' : Ctx} (h : c.Narrows d) (hc : c'.caps = c.caps) (hd : d'.caps = d.caps) : c'.Narrows d' := by
  unfold Ctx.Narrows CapsOk at *
  simpa only [Ctx.getC_congr hc, Ctx.getC_congr hd, Ctx.captab_congr hc, Ctx.captab_congr hd] using h

theorem Ctx.Narrows.refl (c : Ctx) : c.Narrows c := fun h => ⟨h, fun n hn => .inr ⟨n, hn, .refl _⟩⟩

theorem Ctx.getC_free (n : RegNo) : Ctx.free.getC n = CReg.zero := by
  unfold Ctx.getC
  have h : Ctx.free.regs.c = Vector.replicate 16 CReg.zero := rfl
  rw [h, Vector.getElem?_replicate]
  split <;> rfl

/-- A free context holds no capability. -/
theorem Ctx.narrows_free (c : Ctx) : c.Narrows Ctx.free := fun _ =>
  have none (n : RegNo) : (Ctx.free.getC n).valid ≠ true := by simp [Ctx.getC_free, CReg.zero]
  ⟨⟨fun _ h => absurd h (List.not_mem_nil), fun n hn => absurd hn (none n)⟩, fun n hn => absurd hn (none n)⟩

/-- A capability register written with an entry of the table, or with a value within one that is valid. -/
theorem Ctx.narrows_setC {c : Ctx} {v : BitVec 128} (d : RegNo)
    (h : CapsOk c → capBase v + capLen v ≤ 2 ^ 48 ∧
      (v ∈ c.launch.captab ∨ ∃ m : RegNo, (c.getC m).valid = true ∧ Within v (c.getC m).val)) :
    c.Narrows (c.setC d ⟨v, true⟩) := by
  intro hc
  obtain ⟨fits, from_⟩ := h hc
  have read (n : RegNo) : (c.setC d ⟨v, true⟩).getC n = ⟨v, true⟩ ∨ (c.setC d ⟨v, true⟩).getC n = c.getC n := by
    unfold Ctx.getC Ctx.setC Ctx.upd
    dsimp only
    grind
  refine ⟨⟨hc.1, fun n hn => ?_⟩, fun n hn => ?_⟩ <;> rcases read n with e | e <;> rw [e] at hn ⊢
  · exact fits
  · exact hc.2 n hn
  · exact from_
  · exact .inr ⟨n, hn, .refl _⟩

/-! ### The words that write a capability register (R373, R378, R385, R399) -/

theorem ldcapCtx_narrows (d : RegNo) (i : Nat) (c : Ctx) : c.Narrows (ldcapCtx d i c).out := by
  unfold ldcapCtx; split
  · exact .refl c
  · rename_i v hv
    have hm := List.mem_of_getElem? hv
    exact Ctx.narrows_setC d fun hc => ⟨hc.1 v hm, .inl hm⟩

/-- A value with a part of the window of a valid register, and no more of its rights and of its derive bit. -/
theorem Ctx.narrows_mkCap {c : Ctx} {a : RegNo} (d : RegNo) (hv : (c.getC a).valid = true) {rights : BitVec 4} {drv : Bool} {o l : Nat}
    (hr : rights &&& ~~~(capRights (c.getC a).val) = 0) (hd : drv = true → capD (c.getC a).val = true)
    (hw : o + l ≤ capLen (c.getC a).val) :
    c.Narrows (c.setC d ⟨mkCap (capBuf (c.getC a).val) rights drv (capS (c.getC a).val) (capBase (c.getC a).val + o) l, true⟩) := by
  refine Ctx.narrows_setC d fun hc => ?_
  have hok := hc.2 a hv
  have hlen : capLen (c.getC a).val < 2 ^ 48 := BitVec.isLt _
  rw [capBase_mkCap, capLen_mkCap]
  refine ⟨?_, .inr ⟨a, hv, capBuf_mkCap .., fun x h1 h2 => ?_, ?_, ?_, capS_mkCap ..⟩⟩
  · omega
  · rw [capBase_mkCap] at h1 h2
    rw [capLen_mkCap] at h2
    omega
  · rw [capRights_mkCap]; exact hr
  · rw [capD_mkCap]; exact hd

theorem rights_self (r : BitVec 4) : r &&& ~~~r = 0 := by simp

theorem rights_masked (r m : BitVec 4) : r &&& m &&& ~~~r = 0 := by
  rw [BitVec.and_comm r m, BitVec.and_assoc, rights_self]; simp

theorem cderiveCtx_narrows (d a : RegNo) (o l : Nat) (keepd : Bool) (c : Ctx) : c.Narrows (cderiveCtx d a o l keepd c).out := by
  unfold cderiveCtx; dsimp only; repeat' split
  · exact .refl c
  · exact .refl c
  · exact .refl c
  · rename_i hv hd hb
    exact Ctx.narrows_mkCap d (by simpa using hv) (rights_self _) (fun _ => by simpa using hd) (by omega)

theorem caddCtx_narrows (d n : RegNo) (a : Nat) (c : Ctx) : c.Narrows (caddCtx d n a c).out := by
  unfold caddCtx; dsimp only; repeat' split
  · exact .refl c
  · exact .refl c
  · rename_i hv hb
    exact Ctx.narrows_mkCap d (by simpa using hv) (rights_self _) id (by omega)

theorem crestrictCtx_narrows (d a : RegNo) (mask : BitVec 4) (keepd : Bool) (c : Ctx) : c.Narrows (crestrictCtx d a mask keepd c).out := by
  unfold crestrictCtx; dsimp only; split
  · exact .refl c
  · rename_i hv
    exact Ctx.narrows_mkCap (o := 0) d (by simpa using hv) (rights_masked _ _) (by simp +contextual) (by omega)

/-! ### Every word -/

theorem State.ctx_caps {s t : State} (h : t.caps = s.caps) : t.ctx.caps = s.ctx.caps := congrArg Prod.snd h

theorem State.ctx_caps_of {t : State} {n : Nat} {v : Vector CReg 16 × List (BitVec 128)} (h : t.caps = (n, v)) : t.ctx.caps = v :=
  congrArg Prod.snd h

/-- A word narrows where its meaning does. -/
theorem runWord_narrows {w : Issue} {body : State → WR State} {s t : State} (hb : ∀ s : State, s.ctx.Narrows (body s).out.ctx)
    (h : runWord w body s = .next t) : s.ctx.Narrows t.ctx := by
  obtain ⟨s1, h1, e | e⟩ := runWord_caps h
  · exact (Ctx.Narrows.refl s.ctx).congr rfl (State.ctx_caps e)
  · exact (hb s1).congr (State.ctx_caps h1.symm) (State.ctx_caps e)

theorem onCtx_narrows {f : Ctx → WR Ctx} (hf : ∀ c : Ctx, c.Narrows (f c).out) (s : State) : s.ctx.Narrows (onCtx f s).out.ctx := by
  have h : (onCtx f s).out.ctx = (f s.ctx).out := by rw [onCtx, WR.out_map]
  rw [h]; exact hf s.ctx

theorem launchBody_narrows (b : FmtY) (s : State) : s.ctx.Narrows (launchBody b s).out.ctx := by
  rcases launchBody_keptOrFreed b s with e | e
  · exact (Ctx.Narrows.refl s.ctx).congr rfl (State.ctx_caps e)
  · exact (Ctx.narrows_free s.ctx).congr rfl (State.ctx_caps_of e)

/-- The words that write a capability register, and LAUNCH, which may free its own slot. -/
def touchesCaps : Instr → Bool
  | .ldcap _ _ | .cderive _ _ | .cadd _ _ | .caddI _ _ | .crestrict _ _ | .launch _ _ => true
  | _ => false

/-- Every other word leaves the capabilities as they are. -/
theorem exec_keeps_caps {i : Instr} (hw : i.isWord = true) (hc : touchesCaps i = false) {s t : State} (h : exec i s = .next t) :
    t.caps = s.caps := by
  revert hw hc
  cases i <;> intro hw hc
  any_goals cases hw
  any_goals cases hc
  case illegalOp => exact foundWord_keeps_caps h
  case emulWindow => exact foundWord_keeps_caps h
  case undefOp => exact foundWord_keeps_caps h
  case modeWs => exact runMode_keeps_caps h
  case modeRs => exact runMode_keeps_caps h
  all_goals refine runWord_keeps_caps (fun s => ?_) h
  all_goals simp

theorem exec_narrows_of_touches {i : Instr} (hc : touchesCaps i = true) {s t : State} (h : exec i s = .next t) : s.ctx.Narrows t.ctx := by
  revert hc
  cases i <;> intro hc
  any_goals cases hc
  case ldcap hd b => exact runWord_narrows (onCtx_narrows (ldcapCtx_narrows b.d b.imm.toNat)) h
  case cderive hd b => exact runWord_narrows (onCtx_narrows fun c => cderiveCtx_narrows _ _ _ _ _ c) h
  case cadd hd b => exact runWord_narrows (onCtx_narrows fun c => caddCtx_narrows _ _ _ c) h
  case caddI hd b => exact runWord_narrows (onCtx_narrows (caddCtx_narrows b.d b.a b.imm.toNat)) h
  case crestrict hd b => exact runWord_narrows (onCtx_narrows (crestrictCtx_narrows _ _ _ _)) h
  case launch hd b => exact runWord_narrows (launchBody_narrows b) h

theorem exec_narrows {i : Instr} (hw : i.isWord = true) {s t : State} (h : exec i s = .next t) : s.ctx.Narrows t.ctx := by
  cases hc : touchesCaps i with
  | false => exact (Ctx.Narrows.refl s.ctx).congr rfl (State.ctx_caps (exec_keeps_caps hw hc h))
  | true => exact exec_narrows_of_touches hc h

end Sys2Proof.Machine

open Sys2Proof.Machine

/-- Settles O30: a word that neither writes a capability register nor is LAUNCH leaves the capabilities as they are; the five that write one
write an entry of the table or a part of a valid register's window; LAUNCH may free its own slot, which then holds none. -/
theorem capabilitiesNeverWiden : Obligations.CapabilitiesNeverWiden := by
  unfold Obligations.CapabilitiesNeverWiden
  intro i s t hw h hok
  exact exec_narrows hw h hok

end

section
/-! PROOFS. The events of a core (02 R42, R49; 07 R125, R127, R139, R408; 08 R147, R162, R173; 15 R298). -/

open Sys2Proof Sys2Proof.Machine
namespace Sys2Proof.Machine

/-! ### One slot or one core changed -/

theorem SameBytes.of_mem {s t : State} (h : t.mem = s.mem) : SameBytes s t := fun a => by rw [h]

theorem slotsBut_updSlot (s : State) (k : Nat) (f : Ctx → Ctx) : SlotsBut k s (s.updSlot k f) :=
  fun j h => State.slot_updSlot_ne s k j f h

theorem slotIs_updSlot {s : State} {k : Nat} {f : Ctx → Ctx} {c : Ctx} (h : f (s.slot k) = c) : SlotIs k c s (s.updSlot k f) :=
  ⟨(State.slot_updSlot_same s k f).trans h, slotsBut_updSlot s k f, .of_mem (State.updSlot_mem s k f)⟩

theorem quiet_setCore (s : State) (n : Nat) (x : Core) : Quiet s (s.setCore n x) := ⟨fun _ => rfl, .of_mem rfl⟩

/-! ### Tags, drains and MMAs -/

theorem Ctx.lt_of_pending {c : Ctx} {t : Nat} (h : (c.getTag t).st = .pending) : t < 16 := by
  refine Nat.lt_of_not_le fun ht => ?_
  simp [Ctx.getTag, Vector.getElem?_eq_none ht, Tag.zero] at h

/-- The landing of a pending tag. -/
theorem land_pending {c : Ctx} {t : Nat} (h : (c.getTag t).st = .pending) : let g := c.getTag t; let d := c.land t
    d.getTag t = { g with st := .landed, sfn := false, flags := 0 } ∧ (∀ n, n ≠ t → d.getTag n = c.getTag n) ∧
      d.regs.csr.vflags = (if g.sfn then c.regs.csr.vflags ||| g.flags else c.regs.csr.vflags) ∧
      (∀ n, d.getS n = c.getS n) ∧ ∀ n, d.getV n = c.getV n := by
  have ht := Ctx.lt_of_pending h
  dsimp only
  unfold Ctx.land
  simp only [h]
  have same (v : Tag) : (c.setTag t v).getTag t = v := Ctx.getTag_setTag_same c t v ht
  have other (v : Tag) {n : Nat} (hn : n ≠ t) : (c.setTag t v).getTag n = c.getTag n := Ctx.getTag_setTag_ne c t n v hn
  refine ⟨?_, fun n hn => ?_, ?_, fun n => ?_, fun n => ?_⟩
  · split <;> split <;> exact same _
  · split <;> split <;> exact other _ hn
  · split <;> split <;> rfl
  · split <;> split <;> rfl
  · split <;> split <;> rfl

theorem tagArrival_ends {s : State} {k t : Nat} (hb : (s.slot k).tagBusy t = false) :
    Ends (.tagArrival k t) s fun r => SlotsBut k s r ∧ SameBytes s r ∧ r.slot k = (s.slot k).land t := by
  refine ⟨_, rfl, slotsBut_updSlot _ _ _, .of_mem (State.updSlot_mem ..), ?_⟩
  rw [State.slot_updSlot_same, hb]; rfl

theorem mmaFinish_ends {s : State} {k : Nat} {f : Flags} (h : (s.slot k).regs.arr.mmaFlags = some f) : Ends (.mmaFinish k) s
    (SlotIs k (((s.slot k).updCsr fun r => { r with vflags := r.vflags ||| f }).updArr fun a => { a with mmaFlags := none }) s) := by
  refine ⟨_, rfl, slotIs_updSlot ?_⟩
  rw [Ctx.finishMma, h]; rfl

/-! ### Power of the arrays (R127, R351) -/

theorem arrayPowerGrant_ends {s : State} {d n : Nat} {l : List Nat} (hd : d < 8) (hq : (s.die d).arrQueue = n :: l)
    (h8 : (s.die d).arrGrant = 0 ∨ (s.die d).arrGrant + 8 ≤ s.tick) (hc : (s.die d).ceGrant ≠ s.tick ∨ s.tick = 0) :
    Ends (.arrayPowerGrant d) s fun t =>
      (t.core n).power = .granted s.tick ∧ (t.die d).arrQueue = l ∧ (t.die d).arrGrant = s.tick ∧ Quiet s t := by
  have free : ((s.tick < (s.die d).arrGrant + 8 && (s.die d).arrGrant != 0) || ((s.die d).ceGrant == s.tick && s.tick != 0)) = false := by
    grind
  refine ⟨s.grantPower d, rfl, ?_⟩
  simp only [State.grantPower, hq, free]
  simp only [Bool.false_eq_true, if_false, State.die_setCore, State.die_updDie_same _ _ _ hd, State.core_setCore_same]
  exact ⟨trivial, trivial, trivial, fun _ => rfl, .of_mem rfl⟩

/-- No grant within 8 ticks of the last one, nor in a tick that gives a start grant. -/
theorem arrayPowerGrant_waits {s : State} {d n : Nat} {l : List Nat} (hq : (s.die d).arrQueue = n :: l)
    (h : ((s.die d).arrGrant ≠ 0 ∧ s.tick < (s.die d).arrGrant + 8) ∨ ((s.die d).ceGrant = s.tick ∧ s.tick ≠ 0)) :
    exec (.arrayPowerGrant d) s = .next s := by
  have held : ((s.tick < (s.die d).arrGrant + 8 && (s.die d).arrGrant != 0) || ((s.die d).ceGrant == s.tick && s.tick != 0)) = true := by
    grind
  change Host.Outcome.next (s.grantPower d) = _
  simp only [State.grantPower, hq, held]
  simp

theorem powerDown_eq {s : State} {m x : Nat} (h0 : (s.slot (2 * m)).regs.arr.mode = 0) (h1 : (s.slot (2 * m + 1)).regs.arr.mode = 0)
    (hp : (s.core m).power = .idle x ∨ (s.core m).power = .granted x) :
    s.powerDown m = if x + 256 < s.tick then s.setCore m { s.core m with power := .off } else s := by
  rcases hp with hp | hp <;> simp [State.powerDown, hp, h0, h1]

theorem powerDown_ends {s : State} {m x : Nat} (h0 : (s.slot (2 * m)).regs.arr.mode = 0) (h1 : (s.slot (2 * m + 1)).regs.arr.mode = 0)
    (hp : (s.core m).power = .idle x ∨ (s.core m).power = .granted x) :
    (x + 256 < s.tick → (s.powerDown m).core m = { s.core m with power := .off } ∧ Quiet s (s.powerDown m)) ∧
    (s.tick ≤ x + 256 → s.powerDown m = s) := by
  rw [powerDown_eq h0 h1 hp]
  refine ⟨fun h => ?_, fun h => if_neg (by omega)⟩
  rw [if_pos h]
  exact ⟨State.core_setCore_same .., quiet_setCore ..⟩

/-! ### Ropes (R139) -/

/-- A change made in a list of slots, which another time leaves as it is. -/
theorem slot_foldl_updSlot {f : Ctx → Ctx} (hf : ∀ c, f (f c) = f c) (l : List Nat) (s : State) (j : Nat) :
    (l.foldl (fun s j => s.updSlot j f) s).slot j = if j ∈ l then f (s.slot j) else s.slot j := by
  induction l generalizing s with
  | nil => simp
  | cons k l ih =>
    rw [List.foldl_cons, ih]
    by_cases e : j = k
    · subst e; simp [hf]
    · simp [e, State.slot_updSlot_ne _ _ _ _ e]

theorem mem_foldl_updSlot (f : Ctx → Ctx) (l : List Nat) (s : State) : (l.foldl (fun s j => s.updSlot j f) s).mem = s.mem := by
  induction l generalizing s with
  | nil => rfl
  | cons k l ih => rw [List.foldl_cons, ih, State.updSlot_mem]

theorem ropeTimeout_ends {s : State} {k l p since : Nat} (h : (s.slot k).wait = .rope l p since) (hs : since + 4096 ≤ s.tick) :
    Ends (.ropeTimeout k) s fun t => SameBytes s t ∧ ∀ j,
      t.slot j = if j = k ∨ j ∈ s.ropeWaiting k l p then { s.slot j with wait := .modeErr } else s.slot j := by
  have e : s.ropeExpire k = (k :: s.ropeWaiting k l p).foldl (fun s j => s.updSlot j fun c => { c with wait := .modeErr }) s := by
    simp only [State.ropeExpire, h]
    exact if_neg (by omega)
  refine ⟨s.ropeExpire k, rfl, ?_⟩
  rw [e]
  refine ⟨.of_mem (mem_foldl_updSlot ..), fun j => ?_⟩
  rw [slot_foldl_updSlot (f := fun c => { c with wait := .modeErr }) fun _ => rfl]
  simp only [List.mem_cons]

theorem ropeTimeout_waits {s : State} {k l p since : Nat} (h : (s.slot k).wait = .rope l p since) (hs : s.tick < since + 4096) :
    exec (.ropeTimeout k) s = .next s := by
  change Host.Outcome.next (s.ropeExpire k) = _
  simp only [State.ropeExpire, h]
  rw [if_pos hs]

/-! ### The level-one data cache (R147) -/

theorem l1dLineExpiry_next {s : State} {d n line : Nat} {x : L1Line} (h : tabFind line (s.core (coreKey (slotIndex d n 0))).l1d = some x) :
    exec (.l1dLineExpiry d n line) s = .next (if x.fill + 65536 ≤ s.tick then s.setCore (coreKey (slotIndex d n 0))
      { s.core (coreKey (slotIndex d n 0)) with l1d := tabDel line (s.core (coreKey (slotIndex d n 0))).l1d } else s) := by
  change execL1dLineExpiry d n line s = _
  simp only [execL1dLineExpiry, h]

theorem l1dLineExpiry_ends {s : State} {d n line : Nat} {x : L1Line} (h : tabFind line (s.core (coreKey (slotIndex d n 0))).l1d = some x)
    (hx : x.fill + 65536 ≤ s.tick) : Ends (.l1dLineExpiry d n line) s fun t => Quiet s t ∧ let m := coreKey (slotIndex d n 0)
      tabFind line (t.core m).l1d = none ∧ ∀ y, y ≠ line → tabFind y (t.core m).l1d = tabFind y (s.core m).l1d := by
  refine ⟨_, (l1dLineExpiry_next h).trans (by rw [if_pos hx]), quiet_setCore .., ?_⟩
  dsimp only
  rw [State.core_setCore_same]
  exact ⟨tabFind_del_same .., fun y hy => tabFind_del_ne _ _ _ hy⟩

/-! ### The region wrap (R162) -/

theorem not_stamped_clearStamps (s : State) (k : Nat) : (s.clearStamps k).stamped k = false := by
  unfold State.stamped State.clearStamps
  rw [List.any_eq_false]
  intro p hp
  obtain ⟨q, -, rfl⟩ := List.mem_map.mp (List.mem_filter.mp hp).1
  dsimp only
  grind

theorem regionWrapResume_ends {s : State} {k : Nat} (h : (s.slot k).wait = .regionWrap false) : Ends (.regionWrapResume k) s fun t =>
    SlotIs k { s.slot k with wait := .regionWrap true } s t ∧ t.stamped k = false := by
  refine ⟨(s.clearStamps k).updSlot k fun c => { c with wait := .regionWrap true }, ?_, slotIs_updSlot rfl, ?_⟩
  · change execRegionWrapResume k s = _
    simp only [execRegionWrapResume, h]
  · rw [State.stamped, State.updSlot_races]
    exact not_stamped_clearStamps s k

/-! ### The watchdog (R298) -/

theorem watchdog_ends {s : State} {k : Nat} (h : (s.slot k).wdDue = true) : Ends (.watchdog k) s fun t =>
    SlotIs k (s.slot k).takeWatchdog s t := by
  refine ⟨(s.ask k false).updSlot k Ctx.takeWatchdog, ?_, slotIs_updSlot rfl⟩
  change Host.Outcome.next (s.watchdog k) = _
  rw [State.watchdog, if_pos h]

theorem watchdog_waits {s : State} {k : Nat} (h : (s.slot k).wdDue = false) : exec (.watchdog k) s = .next s := by
  change Host.Outcome.next (s.watchdog k) = _
  rw [State.watchdog, if_neg (by simp [h])]

theorem wdDue_iff (c : Ctx) : c.wdDue = true ↔
    ((c.bind.st = .run ∧ ¬ (c.halt = true ∧ c.wait = .none_)) ∨ c.bind.st = .save) ∧ c.bind.wdleft = 0 ∧ c.hasPassed = false := by
  have stopped : c.stopped = true ↔ c.halt = true ∧ c.wait = .none_ := by simp [Ctx.stopped]
  simp only [Ctx.wdDue, Ctx.wdCounts, ← stopped]
  simp [and_assoc]

/-! ### The ends of WAITM (R173) -/

theorem waitmTimeout_next {s : State} {k d : Nat} (h : (s.slot k).wait = .waitm (some d)) : exec (.waitmTimeout k) s =
    .next (s.updSlot k fun _ => if d ≤ s.tick then { s.slot k with wait := .waitmDone 2 (some d) } else s.slot k) := by
  change execWaitmTimeout k s = _
  simp only [execWaitmTimeout, State.updSlot, h]

theorem waitmWake_next {s : State} {k : Nat} {d : Option Nat} (h : (s.slot k).wait = .waitm d) : exec (.waitmWake k) s =
    .next (s.updSlot k fun _ => { s.slot k with wait := .waitmDone 4 d }) := by
  change execWaitmWake k s = _
  simp only [execWaitmWake, State.updSlot, h]

end Sys2Proof.Machine

open Sys2Proof.Machine

/-- Settles O56: each event is one change of a slot or of a core, made where its condition holds. -/
theorem coreEvents : Obligations.CoreEvents := by
  unfold Obligations.CoreEvents
  refine ⟨fun s k t => ?_, fun s k => ⟨_, rfl, slotIs_updSlot rfl⟩, fun s k f h => mmaFinish_ends h,
    fun s k => ⟨_, rfl, slotIs_updSlot rfl⟩, fun s d n l hd hq => ⟨arrayPowerGrant_ends hd hq, fun h0 h1 => arrayPowerGrant_waits hq (.inl ⟨h0, h1⟩),
      fun h0 h1 => arrayPowerGrant_waits hq (.inr ⟨h0, h1⟩)⟩, fun s d n x => ?_,
    fun s k l p since h => ⟨ropeTimeout_ends h, ropeTimeout_waits h⟩, fun s d n line x => ?_, fun s k h => regionWrapResume_ends h,
    fun s k => ?_, fun s k d h => ?_, fun s k d h => ⟨_, waitmWake_next h, slotIs_updSlot rfl⟩⟩
  · dsimp only
    intro h hb
    obtain ⟨r, hr, hbut, hbytes, hk⟩ := tagArrival_ends hb
    refine ⟨r, hr, hbut, hbytes, ?_⟩
    rw [hk]
    exact land_pending h
  · dsimp only
    intro h0 h1 hp
    obtain ⟨due, early⟩ := powerDown_ends h0 h1 hp
    exact ⟨fun h => ⟨_, rfl, due h⟩, fun h => congrArg _ (early h)⟩
  · dsimp only
    intro h
    exact ⟨l1dLineExpiry_ends h, fun hx => (l1dLineExpiry_next h).trans (by rw [if_neg (by omega)])⟩
  · refine ⟨fun h => ?_, watchdog_waits, wdDue_iff _⟩
    obtain ⟨t, ht, hk, hbut, hbytes⟩ := watchdog_ends h
    exact ⟨t, ht, hbut, hbytes, hk⟩
  · refine ⟨fun hd => ⟨_, waitmTimeout_next h, slotIs_updSlot (if_pos hd)⟩,
      fun hd => ⟨_, waitmTimeout_next h, slotIs_updSlot (if_neg (by omega))⟩⟩

end

section
/-! PROOFS. The frame of the scalar words (02 R31; 04 R76, R80; 06 R105). -/

open Sys2Proof Sys2Proof.Machine
namespace Sys2Proof.Machine

/-! ### The frame of a context -/

/-- From context c to t, of the s registers only those of P change, of the v registers only those of Q, and of the array only that a drain
under way may end; the launch data, the monitor, the other registers, the channels and the deferred-fault record are kept. -/
structure Ctx.Frame (P : RegNo → Prop) (Q : Nat → Prop) (c t : Ctx) : Prop where
  launch : t.launch = c.launch
  mon : t.mon = c.mon
  sRegs : ∀ r, ¬ P r → t.getS r = c.getS r
  vRegs : ∀ n, ¬ Q n → t.getV n = c.getV n
  cRegs : t.regs.c = c.regs.c
  mRegs : t.regs.m = c.regs.m
  shape : t.regs.shape = c.regs.shape
  chans : t.regs.chans = c.regs.chans
  deferred : t.regs.deferred = c.regs.deferred
  arr : t.regs.arr = { c.regs.arr with draining := t.regs.arr.draining }
  draining : t.regs.arr.draining = c.regs.arr.draining ∨ t.regs.arr.draining = none

section
variable {P : RegNo → Prop} {Q : Nat → Prop}

/-- Contexts whose s registers differ at most in P, and which have the same of all else that a frame names. -/
theorem Ctx.Frame.of_eq {c t : Ctx} (hl : t.launch = c.launch) (hm : t.mon = c.mon) (hs : ∀ r, ¬ P r → t.getS r = c.getS r)
    (hr : t.regs.v = c.regs.v ∧ t.regs.c = c.regs.c ∧ t.regs.m = c.regs.m ∧ t.regs.shape = c.regs.shape ∧ t.regs.chans = c.regs.chans ∧
      t.regs.deferred = c.regs.deferred ∧ t.regs.arr = c.regs.arr) : c.Frame P Q t := by
  obtain ⟨rv, rc, rm, rsh, rch, rd, ra⟩ := hr
  exact ⟨hl, hm, hs, fun n _ => by rw [Ctx.getV, rv, Ctx.getV], rc, rm, rsh, rch, rd, by rw [ra], .inl (by rw [ra])⟩

theorem Ctx.Frame.trans {c d t : Ctx} (h : c.Frame P Q d) (k : d.Frame P Q t) : c.Frame P Q t where
  launch := k.launch.trans h.launch
  mon := k.mon.trans h.mon
  sRegs r hr := (k.sRegs r hr).trans (h.sRegs r hr)
  vRegs n hn := (k.vRegs n hn).trans (h.vRegs n hn)
  cRegs := k.cRegs.trans h.cRegs
  mRegs := k.mRegs.trans h.mRegs
  shape := k.shape.trans h.shape
  chans := k.chans.trans h.chans
  deferred := k.deferred.trans h.deferred
  arr := by rw [k.arr, h.arr]
  draining := k.draining.elim (fun e => h.draining.imp e.trans e.trans) .inr

theorem Ctx.frame_setTag (c : Ctx) (n : Nat) (g : Tag) : c.Frame P Q (c.setTag n g) :=
  .of_eq rfl rfl (fun _ _ => rfl) ⟨rfl, rfl, rfl, rfl, rfl, rfl, rfl⟩

theorem Ctx.frame_setS {d : RegNo} (hd : P d) (c : Ctx) (x : Word) : c.Frame P Q (c.setS d x) :=
  .of_eq (Ctx.setS_launch ..) (Ctx.setS_mon ..) (fun r hr => Ctx.getS_setS_ne c d r x fun e => hr (e ▸ hd)) (by simp)

theorem Ctx.frame_takeTrap (c : Ctx) (cause : Cause) (i0 i1 : Word) : c.Frame P Q (c.takeTrap cause i0 i1) := by
  obtain ⟨hl, hm, -, -, -, hr⟩ := takeTrap_frame c cause i0 i1
  exact .of_eq hl hm (fun r _ => by rw [Ctx.getS, hr]; rfl) (by rw [hr]; exact ⟨rfl, rfl, rfl, rfl, rfl, rfl, rfl⟩)

theorem State.frame_retired (s : State) (d : RegNo) (c : Ctx) : c.Frame P Q (s.retired d c).ctx := by
  obtain ⟨-, hl, -, -, hm, -, hr⟩ := endTest_frame 5 c.regs.pc (c.retire d)
  exact .of_eq hl hm (fun r _ => by rw [State.retired, Ctx.getS, hr]; rfl)
    (by rw [State.retired, hr]; exact ⟨rfl, rfl, rfl, rfl, rfl, rfl, rfl⟩)

theorem Ctx.frame_awaitDrains (c : Ctx) (l : List Nat) : c.Frame P Q (c.awaitDrains l) := by
  induction l generalizing c with
  | nil => exact .of_eq rfl rfl (fun _ _ => rfl) ⟨rfl, rfl, rfl, rfl, rfl, rfl, rfl⟩
  | cons r l ih =>
    refine Ctx.Frame.trans ?_ (ih (c.awaitDrain r 1))
    rcases awaitDrain_cases c r 1 with e | e <;> rw [e]
    · exact .of_eq rfl rfl (fun _ _ => rfl) ⟨rfl, rfl, rfl, rfl, rfl, rfl, rfl⟩
    · exact ⟨rfl, rfl, fun _ _ => rfl, fun _ _ => rfl, rfl, rfl, rfl, rfl, rfl, rfl, .inr rfl⟩

theorem awaitDrains_vflags (c : Ctx) (l : List Nat) : (c.awaitDrains l).regs.csr.vflags = c.regs.csr.vflags := by
  induction l generalizing c with
  | nil => rfl
  | cons r l ih =>
    refine (ih (c.awaitDrain r 1)).trans ?_
    rcases awaitDrain_cases c r 1 with e | e
    · rw [e]
    · rw [e]; rfl
end

/-! ### The tags that a word consumes (R80) -/

/-- The commit of tag t writes register n, an s register or, with v, a vector register. -/
def Ctx.CommitsTo (c : Ctx) (t : Nat) (v : Bool) (n : Nat) : Prop := t ≠ 0 ∧ (c.getTag t).vec = v ∧ (c.getTag t).dst.toNat = n

/-- What the consumption of tag t leaves: the destination of each tag, the array, the registers that t does not name, and VFLAGS where no
SFN's result is in it. -/
structure Ctx.Consumed (t : Nat) (c d : Ctx) : Prop where
  kept : c.CommitKept d
  arr : d.regs.arr = c.regs.arr
  vec : ∀ n, (d.getTag n).vec = (c.getTag n).vec
  dst : ∀ n, (d.getTag n).dst = (c.getTag n).dst
  sfn : ∀ n, (c.getTag n).sfn = false → (d.getTag n).sfn = false
  s : ∀ r : RegNo, ¬ c.CommitsTo t false r.toNat → d.getS r = c.getS r
  v : ∀ n, ¬ c.CommitsTo t true n → d.getV n = c.getV n
  flags : (t ≠ 0 → (c.getTag t).sfn = false) → d.regs.csr.vflags = c.regs.csr.vflags

theorem Ctx.Consumed.refl (t : Nat) (c : Ctx) : c.Consumed t c :=
  ⟨.refl c, rfl, fun _ => rfl, fun _ => rfl, fun _ h => h, fun _ _ => rfl, fun _ _ => rfl, fun _ => rfl⟩

theorem Ctx.Consumed.commitsTo_iff {t : Nat} {c d : Ctx} (h : c.Consumed t d) (u : Nat) (v : Bool) (n : Nat) :
    d.CommitsTo u v n ↔ c.CommitsTo u v n := by rw [Ctx.CommitsTo, h.vec, h.dst, Ctx.CommitsTo]

theorem Ctx.Consumed.trans {t : Nat} {c d e : Ctx} (h : c.Consumed t d) (k : d.Consumed t e) : c.Consumed t e where
  kept := h.kept.trans k.kept
  arr := k.arr.trans h.arr
  vec n := (k.vec n).trans (h.vec n)
  dst n := (k.dst n).trans (h.dst n)
  sfn n hn := k.sfn n (h.sfn n hn)
  s r hr := (k.s r (by rwa [h.commitsTo_iff])).trans (h.s r hr)
  v n hn := (k.v n (by rwa [h.commitsTo_iff])).trans (h.v n hn)
  flags hf := (k.flags fun ht => h.sfn t (hf ht)).trans (h.flags hf)

theorem getTag_setTag_cases (c : Ctx) (t n : Nat) (g : Tag) :
    (c.setTag t g).getTag n = c.getTag n ∨ n = t ∧ (c.setTag t g).getTag n = g := by
  by_cases e : n = t
  · subst e
    by_cases hn : n < 16
    · exact .inr ⟨rfl, Ctx.getTag_setTag_same c n g hn⟩
    · exact .inl (by simp [Ctx.getTag, Ctx.setTag, Ctx.upd, Vector.getElem?_eq_none (Nat.not_lt.mp hn)])
  · exact .inl (Ctx.getTag_setTag_ne c t n g e)

theorem consumed_setTag (c : Ctx) (t : Nat) {g : Tag} (hv : g.vec = (c.getTag t).vec) (hd : g.dst = (c.getTag t).dst)
    (hs : (c.getTag t).sfn = false → g.sfn = false) : c.Consumed t (c.setTag t g) where
  kept := commitKept_setTag c t g
  arr := rfl
  vec n := by obtain e | ⟨rfl, e⟩ := getTag_setTag_cases c t n g <;> rw [e]; exact hv
  dst n := by obtain e | ⟨rfl, e⟩ := getTag_setTag_cases c t n g <;> rw [e]; exact hd
  sfn n hn := by
    obtain e | ⟨rfl, e⟩ := getTag_setTag_cases c t n g <;> rw [e]
    · exact hn
    · exact hs hn
  s _ _ := rfl
  v _ _ := rfl
  flags _ := rfl

theorem consumed_setS {c : Ctx} {t : Nat} (ht : t ≠ 0) (hv : (c.getTag t).vec = false) {d : RegNo} (hd : (c.getTag t).dst = d)
    (x : Word) : c.Consumed t (c.setS d x) where
  kept := commitKept_setS c d x
  arr := by simp
  vec n := by rw [Ctx.getTag_setS]
  dst n := by rw [Ctx.getTag_setS]
  sfn n hn := by rwa [Ctx.getTag_setS]
  s r hr := Ctx.getS_setS_ne c d r x fun e => hr ⟨ht, hv, by rw [hd, e]⟩
  v n _ := Ctx.getV_setS c d x n
  flags _ := by simp

theorem consumed_setV {c : Ctx} {t : Nat} (ht : t ≠ 0) (hv : (c.getTag t).vec = true) {d : RegNo} (hd : (c.getTag t).dst = d)
    (x : VReg) : c.Consumed t (c.setV d.toNat x) where
  kept := commitKept_setV c _ x
  arr := rfl
  vec _ := rfl
  dst _ := rfl
  sfn _ hn := hn
  s _ _ := rfl
  v n hn := Ctx.getV_setV_ne c _ n x fun e => hn ⟨ht, hv, by rw [hd, e]⟩
  flags _ := rfl

/-- The flags of an SFN that arrives. -/
theorem consumed_orFlags {c : Ctx} {t : Nat} (ht : t ≠ 0) (hs : (c.getTag t).sfn = true) (f : Flags) : c.Consumed t (c.orFlags f) where
  kept := commitKept_orFlags c f
  arr := rfl
  vec _ := rfl
  dst _ := rfl
  sfn _ hn := hn
  s _ _ := rfl
  v _ _ := rfl
  flags h := absurd (h ht) (by simp [hs])

theorem consumed_dirty (c : Ctx) (t : Nat) (f : Regs → Dirty) : c.Consumed t (c.upd fun r => { r with dirty := f r }) :=
  ⟨⟨rfl, rfl, rfl, rfl, rfl, rfl, rfl, rfl, rfl, rfl⟩, rfl, fun _ => rfl, fun _ => rfl, fun _ h => h, fun _ _ => rfl, fun _ _ => rfl,
    fun _ => rfl⟩

theorem land_consumed (c : Ctx) {t : Nat} (ht : t ≠ 0) : c.Consumed t (c.land t) := by
  unfold Ctx.land; dsimp only
  split
  · have landed (c1 : Ctx) (h : c1.getTag t = c.getTag t) :
        c1.Consumed t (c1.setTag t { c.getTag t with st := .landed, sfn := false, flags := 0 }) :=
      consumed_setTag c1 t (by rw [h]) (by rw [h]) fun _ => rfl
    split <;> split
    · exact ((consumed_orFlags ht ‹_› _).trans (landed (c.orFlags _) rfl)).trans (consumed_dirty _ t _)
    · exact (landed c rfl).trans (consumed_dirty _ t _)
    · exact (consumed_orFlags ht ‹_› _).trans (landed (c.orFlags _) rfl)
    · exact landed c rfl
  · exact .refl t c

theorem commit_consumed (c : Ctx) {t : Nat} (ht : t ≠ 0) : c.Consumed t (c.commit t) := by
  unfold Ctx.commit; dsimp only
  split
  · have emptied : c.Consumed t (c.setTag t { c.getTag t with st := .empty }) := consumed_setTag c t rfl rfl id
    split <;> rename_i hv
    · exact emptied.trans (consumed_setV ht ((emptied.vec t).trans hv) (emptied.dst t) _)
    · exact emptied.trans (consumed_setS ht ((emptied.vec t).trans (by simpa using hv)) (emptied.dst t) _)
  · exact .refl t c

theorem consume_consumed {c d : Ctx} {t : Nat} (h : c.consume t = .ok d) : c.Consumed t d := by
  unfold Ctx.consume at h
  split at h
  · cases h; exact .refl t c
  · rename_i ht
    dsimp only at h
    split at h <;> cases h
    · exact .refl t c
    · exact (land_consumed c ht).trans (commit_consumed _ ht)
    · exact commit_consumed c ht
    · exact .refl t c

theorem Ctx.Consumed.frame {P : RegNo → Prop} {Q : Nat → Prop} {c d : Ctx} {t : Nat} (h : c.Consumed t d)
    (hs : ∀ r : RegNo, c.CommitsTo t false r.toNat → P r) (hv : ∀ n, c.CommitsTo t true n → Q n) : c.Frame P Q d := by
  obtain ⟨-, hl, -, -, -, hm, -, -, -, hr⟩ := h.kept
  exact ⟨hl, hm, fun r hp => h.s r (mt (hs r) hp), fun n hq => h.v n (mt (hv n) hq), by rw [hr], by rw [hr], by rw [hr], by rw [hr], by rw [hr],
    by rw [h.arr], .inl (by rw [h.arr])⟩

/-! ### A word with no class of its own, from its issue to its end -/

theorem classCheck_other (own mate : Nat) : classCheck .other own mate = .allow := by
  unfold classCheck; split
  · rfl
  · split <;> rfl

/-- What a word that Table 7-1 does not restrict does where no access is under way: it waits for a tag, or it traps before its meaning, or
it goes on from the context that the commits left. -/
theorem runWord_other {w : Issue} {body : State → WR State} {s t : State} (hc : w.cls = .other) (hw : s.ctx.wait = .none_)
    (h : runWord w body s = .next t) :
    (t = s ∧ s.ctx.waitsTags w.hdr = true) ∨
    (∃ cause i0 i1 c, (c = s.ctx ∨ ∃ n g, c = s.ctx.setTag n g) ∧ t = s.trapped cause i0 i1 c) ∨
    ∃ c0 c1, s.ctx.consume w.hdr.tc0.toNat = .ok c0 ∧ c0.consume w.hdr.tc1.toNat = .ok c1 ∧
      finish w (body { s with ctx := c1.awaitDrains (w.touches s.ctx) }) = .next t := by
  unfold runWord at h
  split at h
  · cases h
  · simp only [hw] at h
    split at h
    · cases h
      exact .inr (.inl ⟨_, _, _, s.ctx, .inl rfl, rfl⟩)
    · unfold commitThen at h
      split at h
      · cases h
        exact .inl ⟨rfl, ‹_›⟩
      · split at h
        · cases h
          obtain ⟨-, rfl⟩ := consume_failed ‹_›
          exact .inr (.inl ⟨_, _, _, _, .inr ⟨_, _, rfl⟩, rfl⟩)
        · rename_i c0 h0
          split at h
          · cases h
            exact .inr (.inl ⟨_, _, _, _, .inr ⟨_, _, rfl⟩, rfl⟩)
          · rename_i c1 h1
            simp only [hc, classCheck_other] at h
            exact .inr (.inr ⟨c0, c1, h0, h1, h⟩)

/-! ### The scalar words -/

/-- A scalar word writes one value, a function of its context, to s[D]. -/
theorem scalarDst_exec {i : Instr} {h : Hdr} {d : RegNo} (hi : scalarDst i = some (h, d)) :
    ∃ (w : Issue) (g : Ctx → Word), (∀ s, exec i s = runWord w (onCtx fun c => .done (c.setS d (g c))) s) ∧
      w.hdr = h ∧ w.dst = d ∧ w.cls = .other := by
  cases i <;> cases hi <;> exact ⟨_, _, fun _ => rfl, rfl, rfl, rfl⟩

/-- With no SLOOP entry on the loop stack the end test leaves VL and STRIP (R109). -/
theorem endTest_keeps_vl {c : Ctx} (hl : c.regs.loops.all (fun e => !e.sloop) = true) (n pc : Nat) :
    (c.endTest n pc).vl = c.vl ∧ (c.endTest n pc).regs.csr.strip = c.regs.csr.strip := by
  induction n generalizing c pc with
  | zero => exact ⟨rfl, rfl⟩
  | succ n ih =>
    unfold Ctx.endTest
    split
    · exact ⟨rfl, rfl⟩
    · rename_i e l he
      rw [he, List.all_cons, Bool.and_eq_true] at hl
      obtain ⟨hs, hl⟩ := hl
      have hs : e.sloop = false := by simpa using hs
      have rest : (c.upd fun r => { r with loops := l }).restoreSloop = c.upd fun r => { r with loops := l } := by
        have none : l.find? (·.sloop) = none := List.find?_eq_none.mpr fun x hx => by simpa using List.all_eq_true.mp hl x hx
        simp [Ctx.restoreSloop, Ctx.upd, none]
      split
      · exact ⟨rfl, rfl⟩
      · simp only [hs, rest, Bool.false_eq_true, if_false]
        split
        · exact ⟨rfl, rfl⟩
        · exact ih hl pc

/-- What the retirement of a word leaves of the bind record, of the trap state and of the CSRs. -/
theorem retired_kept (s : State) (d : RegNo) (c : Ctx) : let t := (s.retired d c).ctx
    t.bind = c.bind ∧ t.regs.handler = c.regs.handler ∧ t.regs.aside = c.regs.aside ∧
    t.regs.csr = { c.regs.csr with vl := t.vl, strip := t.regs.csr.strip, retired := c.regs.csr.retired + 1 } ∧
    (c.regs.loops.all (fun e => !e.sloop) = true → t.vl = c.vl ∧ t.regs.csr.strip = c.regs.csr.strip) := by
  obtain ⟨hb, -, -, -, -, -, hr⟩ := endTest_frame 5 c.regs.pc (c.retire d)
  dsimp only [State.retired]
  exact ⟨hb, by rw [hr]; rfl, by rw [hr]; rfl, by rw [hr]; rfl, fun hl => endTest_keeps_vl (c := c.retire d) hl 5 c.regs.pc⟩

/-- The same of a word that has committed its tags and written one s register. -/
theorem completed_kept {s : State} {c : Ctx} (kept : s.ctx.CommitKept c) (d : RegNo) (x : Word) : let t := (s.retired d (c.setS d x)).ctx
    t.bind = s.ctx.bind ∧ t.regs.handler = s.ctx.regs.handler ∧ t.regs.aside = s.ctx.regs.aside ∧
    t.regs.csr = { s.ctx.regs.csr with
      vl := t.vl, strip := t.regs.csr.strip, vflags := t.regs.csr.vflags, retired := s.ctx.regs.csr.retired + 1 } ∧
    (s.ctx.regs.loops.all (fun e => !e.sloop) = true → t.vl = s.ctx.vl ∧ t.regs.csr.strip = s.ctx.regs.csr.strip) ∧
    t.regs.csr.vflags = c.regs.csr.vflags := by
  obtain ⟨kb, -, -, -, -, -, -, -, -, kr⟩ := kept.trans (commitKept_setS c d x)
  obtain ⟨hb, hh, ha, hc, hl⟩ := retired_kept s d (c.setS d x)
  dsimp only at *
  have csr : (c.setS d x).regs.csr = { s.ctx.regs.csr with vflags := (c.setS d x).regs.csr.vflags } := by rw [kr]
  refine ⟨hb.trans kb, hh.trans (by rw [kr]), ha.trans (by rw [kr]), ?_, fun h => ?_, ?_⟩
  · rw [hc, csr]
  · obtain ⟨e1, e2⟩ := hl (by rw [kr]; exact h)
    exact ⟨e1.trans (by rw [Ctx.vl, csr]; rfl), e2.trans (by rw [csr])⟩
  · rw [hc]; simp

/-- A tag that a word consumes names register n, an s register or, with v, a vector register. -/
def Ctx.Hit (c : Ctx) (h : Hdr) (v : Bool) (n : Nat) : Prop :=
  ∃ q, (q = h.tc0 ∨ q = h.tc1) ∧ q ≠ 0 ∧ (c.getTag q.toNat).vec = v ∧ (c.getTag q.toNat).dst.toNat = n

/-- An s register that a word with destination d may write: d, or one that a consumed tag names. -/
def Ctx.MayWrite (c : Ctx) (h : Hdr) (d r : RegNo) : Prop := r = d ∨ c.Hit h false r.toNat

theorem Ctx.Hit.of_commitsTo {c : Ctx} {h : Hdr} {q : BitVec 4} {v : Bool} {n : Nat} (hq : q = h.tc0 ∨ q = h.tc1)
    (hc : c.CommitsTo q.toNat v n) : c.Hit h v n := by
  obtain ⟨h0, hv, hd⟩ := hc
  exact ⟨q, hq, fun e => h0 (by rw [e]; rfl), hv, hd⟩

section
variable {h : Hdr} {c c0 c1 : Ctx} (h0 : c.consume h.tc0.toNat = .ok c0) (h1 : c0.consume h.tc1.toNat = .ok c1)
include h0 h1

/-- The two commits before a word's meaning write no register but those that the tags name. -/
theorem commits_frame (d : RegNo) : c.Frame (c.MayWrite h d) (c.Hit h true) c1 := by
  have k0 := consume_consumed h0
  have k1 := consume_consumed h1
  refine (k0.frame (fun r hr => .inr (.of_commitsTo (.inl rfl) hr)) fun n hn => .of_commitsTo (.inl rfl) hn).trans
    (k1.frame (fun r hr => .inr (.of_commitsTo (.inr rfl) ((k0.commitsTo_iff ..).mp hr))) fun n hn =>
      .of_commitsTo (.inr rfl) ((k0.commitsTo_iff ..).mp hn))

theorem commits_vflags (hs : ∀ q, q = h.tc0 ∨ q = h.tc1 → q ≠ 0 → (c.getTag q.toNat).sfn = false) :
    c1.regs.csr.vflags = c.regs.csr.vflags := by
  have k0 := consume_consumed h0
  have sfn (q : BitVec 4) (hq : q = h.tc0 ∨ q = h.tc1) (ht : q.toNat ≠ 0) : (c.getTag q.toNat).sfn = false :=
    hs q hq fun e => ht (by rw [e]; rfl)
  exact ((consume_consumed h1).flags fun ht => k0.sfn _ (sfn h.tc1 (.inr rfl) ht)).trans (k0.flags (sfn h.tc0 (.inl rfl)))
end

end Sys2Proof.Machine

open Sys2Proof.Machine

/-- Settles O21: a scalar word waits, or traps before its meaning, or writes s[D] after the commits of its consumed tags and retires; each of
these steps keeps the frame. -/
theorem scalarFrame : Obligations.ScalarFrame := by
  unfold Obligations.ScalarFrame
  intro i h d s t hi hw he hit
  obtain ⟨w, g, hrun, rfl, rfl, hcls⟩ := scalarDst_exec hi
  rw [hrun] at he
  -- what a step with the frame gives, whichever of the three ends it has
  suffices step : OnlyCtx s t ∧ s.ctx.Frame (s.ctx.MayWrite w.hdr w.dst) (s.ctx.Hit w.hdr true) t.ctx ∧ _ by
    obtain ⟨only, f, ends⟩ := step
    exact ⟨only, .of_mem (by rw [only]), f.launch, f.mon, fun r hd hr => f.sRegs r (not_or.mpr ⟨hd, hr⟩),
      fun r => by rw [Ctx.getC, f.cRegs, Ctx.getC], fun n => by rw [Ctx.getM, f.mRegs, Ctx.getM], f.vRegs, f.shape, f.chans, f.deferred, f.arr,
      f.draining, ends⟩
  rcases runWord_other hcls hw he with ⟨rfl, hwait⟩ | ⟨cause, i0, i1, c, hc, rfl⟩ | ⟨c0, c1, h0, h1, hf⟩
  · exact ⟨rfl, .of_eq rfl rfl (fun _ _ => rfl) ⟨rfl, rfl, rfl, rfl, rfl, rfl, rfl⟩, .inl ⟨rfl, hwait⟩⟩
  · refine ⟨rfl, ?_, .inr (.inl ⟨cause, i0, i1, c, rfl⟩)⟩
    rcases hc with rfl | ⟨n, g, rfl⟩
    · exact Ctx.frame_takeTrap ..
    · exact (Ctx.frame_setTag ..).trans (Ctx.frame_takeTrap ..)
  · cases hf
    have kept := ((consume_kept h0).trans (consume_kept h1)).trans (commitKept_awaitDrains c1 (w.touches s.ctx))
    have frame := (commits_frame h0 h1 w.dst).trans (Ctx.frame_awaitDrains c1 (w.touches s.ctx))
    have flags := fun hs => (awaitDrains_vflags c1 (w.touches s.ctx)).trans (commits_vflags h0 h1 hs)
    generalize c1.awaitDrains (w.touches s.ctx) = c2 at *
    refine ⟨rfl, (frame.trans (Ctx.frame_setS (.inl rfl) c2 (g c2))).trans (State.frame_retired s ..), .inr (.inr ?_)⟩
    obtain ⟨hb, hh, ha, hc, hl, hv⟩ := completed_kept kept w.dst (g c2)
    exact ⟨hb, hh, ha, hc, hl, fun hs => hv.trans (flags hs)⟩

end

section
/-! PROOFS. Words and their bits (04 R72, R75, R85 to R96): each format reads back what it packs, the form that
the opcode map gives to a word packs to that word, and the opcodes without a form are those of Table 4-14. -/

namespace Sys2Proof

/-! ### The common header and the body (Table 4-1) -/

/-- A field of the body is a field of the word at the same place. -/
theorem extract_packWord {op : BitVec 8} {h : Hdr} {body : BitVec 57} {start len : Nat} (hs : start + len ≤ 57) :
    (packWord op h body).extractLsb' start len = body.extractLsb' start len := by
  unfold packWord
  repeat rw [BitVec.extractLsb'_append_eq_of_add_le (by omega)]

theorem opOf_packWord (op : BitVec 8) (h : Hdr) (body : BitVec 57) : opOf (packWord op h body) = op :=
  BitVec.extractLsb'_append_eq_left

theorem parseHdr_packWord (op : BitVec 8) (h : Hdr) (body : BitVec 57) : parseHdr (packWord op h body) = h := by
  unfold parseHdr packWord
  simp (disch := decide) only [BitVec.extractLsb'_append_eq_of_add_le, BitVec.extractLsb'_append_eq_left]

/-- A word is its opcode, its header and its body. -/
theorem packWord_parts (w : IWord) : packWord (opOf w) (parseHdr w) (w.extractLsb' 0 57) = w := by
  unfold packWord parseHdr opOf
  dsimp only
  simp (disch := decide) only [BitVec.extractLsb'_append_extractLsb'_eq_extractLsb']
  exact BitVec.extractLsb'_eq_self

/-! ### The body formats (Tables 4-2 to 4-11) -/

/-- A body format: the words that `pack` makes have the opcode, the header and the fields that it was given, and every word is made of its
own. -/
structure WordFormat {F : Type} (parse : IWord → F) (pack : BitVec 8 → Hdr → F → IWord) : Prop where
  opOf_pack : ∀ op h b, opOf (pack op h b) = op
  hdr_pack : ∀ op h b, parseHdr (pack op h b) = h
  parse_pack : ∀ op h b, parse (pack op h b) = b
  pack_parse : ∀ w, pack (opOf w) (parseHdr w) (parse w) = w

/-- It is enough that the fields are read back, and that together they are the body. -/
theorem WordFormat.of_body {F : Type} {parse : IWord → F} {pack : BitVec 8 → Hdr → F → IWord} (body : F → BitVec 57)
    (pack_eq : ∀ op h b, pack op h b = packWord op h (body b)) (parse_pack : ∀ op h b, parse (pack op h b) = b)
    (body_parse : ∀ w, body (parse w) = w.extractLsb' 0 57) : WordFormat parse pack where
  opOf_pack op h b := by rw [pack_eq, opOf_packWord]
  hdr_pack op h b := by rw [pack_eq, parseHdr_packWord]
  parse_pack := parse_pack
  pack_parse w := by rw [pack_eq, body_parse, packWord_parts]

theorem formatA : WordFormat parseA packA := by
  refine .of_body _ (fun _ _ _ => rfl) (fun op h b => ?_) (fun w => ?_)
  · simp (disch := decide) only [parseA, packA, extract_packWord, BitVec.extractLsb'_append_eq_of_add_le,
      BitVec.extractLsb'_append_eq_left, BitVec.extractLsb'_eq_self]
  · simp (disch := decide) only [parseA, BitVec.extractLsb'_append_extractLsb'_eq_extractLsb']

theorem formatB : WordFormat parseB packB := by
  refine .of_body _ (fun _ _ _ => rfl) (fun op h b => ?_) (fun w => ?_)
  · simp (disch := decide) only [parseB, packB, extract_packWord, BitVec.extractLsb'_append_eq_of_add_le,
      BitVec.extractLsb'_append_eq_left, BitVec.extractLsb'_eq_self]
  · simp (disch := decide) only [parseB, BitVec.extractLsb'_append_extractLsb'_eq_extractLsb']

theorem formatK : WordFormat parseK packK := by
  refine .of_body _ (fun _ _ _ => rfl) (fun op h b => ?_) (fun w => ?_)
  · simp (disch := decide) only [parseK, packK, extract_packWord, BitVec.extractLsb'_append_eq_of_add_le,
      BitVec.extractLsb'_append_eq_left, BitVec.extractLsb'_eq_self]
  · simp (disch := decide) only [parseK, BitVec.extractLsb'_append_extractLsb'_eq_extractLsb']

theorem formatM : WordFormat parseM packM := by
  refine .of_body _ (fun _ _ _ => rfl) (fun op h b => ?_) (fun w => ?_)
  · simp (disch := decide) only [parseM, packM, extract_packWord, BitVec.extractLsb'_append_eq_of_add_le,
      BitVec.extractLsb'_append_eq_left, BitVec.extractLsb'_eq_self]
  · simp (disch := decide) only [parseM, BitVec.extractLsb'_append_extractLsb'_eq_extractLsb']

theorem formatV : WordFormat parseV packV := by
  refine .of_body _ (fun _ _ _ => rfl) (fun op h b => ?_) (fun w => ?_)
  · simp (disch := decide) only [parseV, packV, extract_packWord, BitVec.extractLsb'_append_eq_of_add_le,
      BitVec.extractLsb'_append_eq_left, BitVec.extractLsb'_eq_self]
  · simp (disch := decide) only [parseV, BitVec.extractLsb'_append_extractLsb'_eq_extractLsb']

theorem formatJ : WordFormat parseJ packJ := by
  refine .of_body _ (fun _ _ _ => rfl) (fun op h b => ?_) (fun w => ?_)
  · simp (disch := decide) only [parseJ, packJ, extract_packWord, BitVec.extractLsb'_append_eq_of_add_le,
      BitVec.extractLsb'_append_eq_left, BitVec.extractLsb'_eq_self]
  · simp (disch := decide) only [parseJ, BitVec.extractLsb'_append_extractLsb'_eq_extractLsb']

theorem formatL : WordFormat parseL packL := by
  refine .of_body _ (fun _ _ _ => rfl) (fun op h b => ?_) (fun w => ?_)
  · simp (disch := decide) only [parseL, packL, extract_packWord, BitVec.extractLsb'_append_eq_of_add_le,
      BitVec.extractLsb'_append_eq_left, BitVec.extractLsb'_eq_self]
  · simp (disch := decide) only [parseL, BitVec.extractLsb'_append_extractLsb'_eq_extractLsb']

theorem formatY : WordFormat parseY packY := by
  refine .of_body _ (fun _ _ _ => rfl) (fun op h b => ?_) (fun w => ?_)
  · simp (disch := decide) only [parseY, packY, extract_packWord, BitVec.extractLsb'_append_eq_of_add_le,
      BitVec.extractLsb'_append_eq_left, BitVec.extractLsb'_eq_self]
  · simp (disch := decide) only [parseY, BitVec.extractLsb'_append_extractLsb'_eq_extractLsb']

theorem formatX : WordFormat parseX packX := by
  refine .of_body _ (fun _ _ _ => rfl) (fun op h b => ?_) (fun w => ?_)
  · simp (disch := decide) only [parseX, packX, extract_packWord, BitVec.extractLsb'_append_eq_of_add_le,
      BitVec.extractLsb'_append_eq_left, BitVec.extractLsb'_eq_self]
  · simp (disch := decide) only [parseX, BitVec.extractLsb'_append_extractLsb'_eq_extractLsb']

theorem formatS : WordFormat parseS packS := by
  refine .of_body _ (fun _ _ _ => rfl) (fun op h b => ?_) (fun w => ?_)
  · simp (disch := decide) only [parseS, packS, extract_packWord, BitVec.extractLsb'_append_eq_of_add_le,
      BitVec.extractLsb'_append_eq_left, BitVec.extractLsb'_eq_self]
  · simp (disch := decide) only [parseS, BitVec.extractLsb'_append_extractLsb'_eq_extractLsb']

/-! ### The opcode map (Table 4-12) -/

section
variable {F : Type} {parse : IWord → F} {pack : BitVec 8 → Hdr → F → IWord} (format : WordFormat parse pack)
include format

/-- A word is made of its own fields, whatever opcode it has. -/
theorem WordFormat.pack_of_opOf {w : IWord} {op : BitVec 8} (hop : opOf w = op) : pack op (parseHdr w) (parse w) = w :=
  hop ▸ format.pack_parse w

/-- A form that an opcode gives to every word of it is the form of a word packed from its fields. -/
theorem WordFormat.parseAssigned_pack {op : BitVec 8} {mk : Hdr → F → Instr}
    (hmk : ∀ w, opOf w = op → parseAssigned w = some (mk (parseHdr w) (parse w))) (h : Hdr) (b : F) :
    parseAssigned (pack op h b) = some (mk h b) := by
  rw [hmk _ (format.opOf_pack op h b), format.hdr_pack, format.parse_pack]
end

/-- An opcode is its row and its column of the map. -/
theorem opOf_of_place {w : IWord} {row col : Nat} (hrow : (opOf w).toNat / 16 = row) (hcol : (opOf w).toNat % 16 = col) :
    opOf w = BitVec.ofNat 8 (16 * row + col) := by
  rw [← hrow, ← hcol, Nat.div_add_mod, BitVec.ofNat_toNat, BitVec.setWidth_eq]

/-- The form that the opcode map gives to a word packs to that word, row by row and column by column. -/
theorem parseAssigned_packs {w : IWord} {i : Instr} (h : parseAssigned w = some i) : i.isWord = true ∧ encode i = some w := by
  unfold parseAssigned at h
  split at h
  case' h_14 => cases h
  all_goals
    rename_i hrow
    simp only [parseRow0, parseRow1, parseRow2, parseRow3, parseRow4, parseRow5, parseRow6, parseRow7, parseRow8, parseRow9,
      parseRowA, parseRowB, parseRowC] at h
    split at h
    all_goals cases h
    all_goals
      rename_i hcol
      have hop := opOf_of_place hrow hcol
  -- the rows 0x64 and 0xC0 tell their forms apart by a field
  all_goals repeat' split
  all_goals refine ⟨rfl, congrArg some ?_⟩
  all_goals simp [formatA.pack_of_opOf, formatB.pack_of_opOf, formatK.pack_of_opOf, formatM.pack_of_opOf, formatV.pack_of_opOf,
    formatJ.pack_of_opOf, formatL.pack_of_opOf, formatY.pack_of_opOf, formatX.pack_of_opOf, formatS.pack_of_opOf, hop]

/-- The opcodes that have a fate (Table 4-14). -/
theorem opFate_isNone_iff {n : Nat} : (opFate n).isNone = true ↔ n ≠ 0 ∧ n < 0xE0 ∧ n ≠ 0x1E ∧ n ≠ 0x1F ∧ n ≠ 0x3F ∧
    ¬ (0x5C ≤ n ∧ n ≤ 0x5F) ∧ ¬ (0x71 ≤ n ∧ n ≤ 0x7F) ∧ n ≠ 0xBE ∧ n ≠ 0xBF ∧ n < 0xC9 := by
  unfold opFate
  repeat' split
  all_goals simp_all
  all_goals omega

/-- The opcodes that the map leaves unassigned are those with a fate (Table 4-14). -/
theorem parseAssigned_isNone (w : IWord) : (parseAssigned w).isNone = (fateOf w).isSome := by
  have hn : (opOf w).toNat < 256 := (opOf w).isLt
  rw [← Option.not_isNone, fateOf, Bool.eq_not, ne_eq, Bool.eq_iff_iff, opFate_isNone_iff]
  unfold parseAssigned
  generalize (opOf w).toNat = n at hn
  split
  case h_14 =>
    simp only [imp_false, Option.isNone_none, true_iff] at *
    omega
  all_goals simp only [parseRow0, parseRow1, parseRow2, parseRow3, parseRow4, parseRow5, parseRow6, parseRow7, parseRow8, parseRow9,
    parseRowA, parseRowB, parseRowC]
  all_goals split
  all_goals simp only [imp_false, Option.isNone_none, Option.isNone_some, reduceCtorEq, false_iff, true_iff] at *
  all_goals omega

theorem parse_of_parseAssigned {w : IWord} {i : Instr} (h : parseAssigned w = some i) : parse w = i := by simp [parse, h]

/-- The word that an unassigned opcode makes of w. -/
def OpFate.word (w : IWord) : OpFate → Instr
  | .illegalOp => .illegalOp w
  | .emulWindow => .emulWindow w
  | .undefOp => .undefOp w

theorem parse_of_fateOf {w : IWord} {f : OpFate} (h : fateOf w = some f) : parse w = f.word w := by
  have hn : parseAssigned w = none := by
    rw [← Option.isNone_iff_eq_none, parseAssigned_isNone, h]; rfl
  simp only [parse, hn, h]
  cases f <;> rfl

theorem OpFate.wf_word {w : IWord} {f : OpFate} (h : fateOf w = some f) : (f.word w).wf = true := by
  cases f <;> exact beq_iff_eq.mpr h

/-- The 0x64 row has two forms, told apart by X (R471). -/
theorem parseAssigned_pack_vstS (h : Hdr) (b : FmtM) :
    parseAssigned (packM 0x64 h b) = some (if b.x == 0 then .vstSStream h b else .vstS h b) :=
  formatM.parseAssigned_pack (mk := fun h b => if b.x == 0 then .vstSStream h b else .vstS h b)
    (fun w hop => by rw [parseAssigned, hop]; rfl) h b

/-- The 0xC0 row has three forms, told apart by MSEL (R416). -/
theorem parseAssigned_pack_mode (h : Hdr) (b : FmtX) : parseAssigned (packX 0xC0 h b) =
    some (if b.msel == 1 then .modeWs h b else if b.msel == 2 then .modeRs h b else .modeVec h b) :=
  formatX.parseAssigned_pack (mk := fun h b => if b.msel == 1 then .modeWs h b else if b.msel == 2 then .modeRs h b else .modeVec h b)
    (fun w hop => by rw [parseAssigned, hop]; rfl) h b

/-- A well-formed word form is what its own word names. -/
theorem parse_encode {i : Instr} {w : IWord} (hi : i.isWord = true) (hw : i.wf = true) (he : encode i = some w) : parse w = i := by
  cases i
  any_goals cases hi
  all_goals cases he
  case illegalOp => exact parse_of_fateOf (beq_iff_eq.mp hw)
  case emulWindow => exact parse_of_fateOf (beq_iff_eq.mp hw)
  case undefOp => exact parse_of_fateOf (beq_iff_eq.mp hw)
  all_goals refine parse_of_parseAssigned ?_
  case vstS | vstSStream =>
    simp only [Instr.wf, Bool.and_eq_true, bne_iff_ne] at hw
    exact (parseAssigned_pack_vstS _ _).trans (by simp_all)
  case modeVec | modeWs | modeRs =>
    simp only [Instr.wf, Bool.and_eq_true, beq_iff_eq] at hw
    exact (parseAssigned_pack_mode _ _).trans (by simp [hw])
  case nop | halt | trap | tret | brk | yield | csrr | csrw | csrs | csrc | locq | launch | region | fence | monitor | waitm | pause |
      ldcap | cderive | cadd | caddI | crestrict | cread | cwb | vbind | vunbind | copy | copyq | barinit | barrive | barwait | barsync |
      barquery | hbar =>
    exact formatY.parseAssigned_pack (fun w hop => by rw [parseAssigned, hop]; rfl) _ _
  case jmp | jmpR | call | callR | ret | br | brI | brz | brnz =>
    exact formatJ.parseAssigned_pack (fun w hop => by rw [parseAssigned, hop]; rfl) _ _
  case loop | loopI | sloop =>
    exact formatL.parseAssigned_pack (fun w hop => by rw [parseAssigned, hop]; rfl) _ _
  case add | sub | mul | mulh | div | rem | and | or | xor | shl | shr | sar | cmp | sel | clz | popc | min | max | rotl | rotr =>
    exact formatA.parseAssigned_pack (fun w hop => by rw [parseAssigned, hop]; rfl) _ _
  case addI | mulI | andI | orI | xorI | shlI | shrI | sarI | cmpI =>
    exact formatB.parseAssigned_pack (fun w hop => by rw [parseAssigned, hop]; rfl) _ _
  case li | lih =>
    exact formatK.parseAssigned_pack (fun w hop => by rw [parseAssigned, hop]; rfl) _ _
  case ldB | ldH | ldW | ldD | stB | stH | stW | stD | ldBx | ldHx | ldWx | ldDx | stBx | stHx | stWx | stDx | amoW | amoD | casW | casD |
      pref | vld | vldS | vldb | vst | vldx | vstx =>
    exact formatM.parseAssigned_pack (fun w hop => by rw [parseAssigned, hop]; rfl) _ _
  case vadd | vaddVs | vsub | vsubVs | vmul | vmulVs | vfma | vfmaVs | vfms | vfmsVs | vfnma | vfnmaVs | vdiv | vdivVs | vmin | vminVs |
      vmax | vmaxVs | vand | vandVs | vor | vorVs | vxor | vxorVs | vshl | vshlVs | vshr | vshrVs | vshra | vshraVs | vmulh | vmulhVs |
      vcmp | vcmpVs | vclamp | vclampVs | vsel | vabs | vneg | vsqrt | vcvt | vcvtSr | vsplat | vred | vscan | vslide | vperm | vget |
      vput | viota | vdot | mop | mpop | vfirst | vsetshape | vsetl | vsetlI | vtag | vclz | vpopc | vcompress | vexpand =>
    exact formatV.parseAssigned_pack (fun w hop => by rw [parseAssigned, hop]; rfl) _ _
  case mma | mwld | mdrain | mzero | rope | mstat =>
    exact formatX.parseAssigned_pack (fun w hop => by rw [parseAssigned, hop]; rfl) _ _
  case sfn | sfload =>
    exact formatS.parseAssigned_pack (fun w hop => by rw [parseAssigned, hop]; rfl) _ _

/-- A word either has an assigned form or the fate of its opcode. -/
theorem assigned_or_fate (w : IWord) : (∃ i, parseAssigned w = some i) ∨ ∃ f, fateOf w = some f := by
  cases h : parseAssigned w with
  | some i => exact .inl ⟨i, rfl⟩
  | none => exact .inr (Option.isSome_iff_exists.mp (by rw [← parseAssigned_isNone, h]; rfl))

/-- Every word packs to itself from the form that it names. -/
theorem encode_parse (w : IWord) : (parse w).isWord = true ∧ encode (parse w) = some w := by
  rcases assigned_or_fate w with ⟨i, h⟩ | ⟨f, h⟩
  · rw [parse_of_parseAssigned h]
    exact parseAssigned_packs h
  · rw [parse_of_fateOf h]
    cases f <;> exact ⟨rfl, rfl⟩

theorem decodeWord_eq_ok_iff {w : IWord} {i : Instr} : decodeWord w = .ok i ↔ parse w = i ∧ i.wf = true := by
  unfold decodeWord
  split
  next h => exact ⟨fun e => by cases e; exact ⟨rfl, h⟩, fun ⟨e, _⟩ => congrArg _ e⟩
  next h => exact ⟨nofun, fun ⟨e, hw⟩ => absurd (e ▸ hw) h⟩

theorem decodeWord_eq_error {w : IWord} (h : decodeWord w = .error .illegalEnc) : (parse w).wf = false := by
  unfold decodeWord at h
  split at h
  next => cases h
  next hw => exact Bool.eq_false_iff.mpr hw

theorem decodeWord_of_fateOf {w : IWord} {f : OpFate} (h : fateOf w = some f) : decodeWord w = .ok (f.word w) :=
  decodeWord_eq_ok_iff.mpr ⟨parse_of_fateOf h, OpFate.wf_word h⟩

/-! ### The bytes of a word (R72) -/

/-- The number that the n low bytes of x make. -/
theorem foldr_bytes (x n : Nat) :
    ((List.range n).map fun i => BitVec.ofNat 8 (x / 2 ^ (8 * i))).foldr (fun b m => b.toNat + 256 * m) 0 = x % 2 ^ (8 * n) := by
  induction n generalizing x with
  | zero => simp [Nat.mod_one]
  | succ n ih =>
    have shift (i : Nat) : x / 2 ^ (8 * (i + 1)) = x / 256 / 2 ^ (8 * i) := by
      rw [Nat.div_div_eq_div_mul, Nat.mul_add, Nat.pow_add, Nat.mul_comm (2 ^ (8 * i))]
    have split : 2 ^ (8 * (n + 1)) = 256 * 2 ^ (8 * n) := by rw [Nat.mul_add, Nat.pow_add, Nat.mul_comm]
    simp only [List.range_succ_eq_map, List.map_cons, List.map_map, Function.comp_def, List.foldr_cons, shift, ih]
    rw [split, Nat.mod_mul]
    simp

theorem wordOfBytes_bytesOfWord (w : IWord) : wordOfBytes (bytesOfWord w) = w := by
  have bytes : bytesOfWord w = (List.range 10).map fun i => BitVec.ofNat 8 (w.toNat / 2 ^ (8 * i)) :=
    List.map_congr_left fun i _ => BitVec.eq_of_toNat_eq (by simp [Nat.shiftRight_eq_div_pow])
  rw [wordOfBytes, bytes, foldr_bytes, Nat.mod_eq_of_lt w.isLt, BitVec.ofNat_toNat, BitVec.setWidth_eq]

theorem length_bytesOfWord (w : IWord) : (bytesOfWord w).length = 10 := by simp [bytesOfWord]

theorem decode_bytesOfWord {w : IWord} {i : Instr} (h : decodeWord w = .ok i) (l : List Byte) :
    decode (bytesOfWord w ++ l) = .ok (i, l) := by
  have hlen := length_bytesOfWord w
  unfold decode
  rw [if_neg (by simp [hlen]), List.take_left' hlen, List.drop_left' hlen, wordOfBytes_bytesOfWord, h]
  rfl

end Sys2Proof

open Sys2Proof

/-- Settles O2: a form is read back from the word that it packs to, and a word from its ten bytes. -/
theorem decodeEncode : Obligations.DecodeEncode := by
  intro i w l hi hw he
  have h : decodeWord w = .ok i := decodeWord_eq_ok_iff.mpr ⟨parse_encode hi hw he, hw⟩
  exact ⟨h, decode_bytesOfWord h l⟩

/-- Settles O3: every word is the one that the form it names packs to, and a word decodes only to that form. -/
theorem encodeDecode : Obligations.EncodeDecode := by
  intro w i h
  obtain ⟨rfl, hw⟩ := decodeWord_eq_ok_iff.mp h
  obtain ⟨hi, he⟩ := encode_parse w
  exact ⟨hi, hw, he⟩

/-- Settles O4: the fate of an opcode is that of Table 4-14, and a word that no fate meets has a form. -/
theorem fatesOfWords : Obligations.FatesOfWords := by
  intro w op
  have fate {f : OpFate} (h : opFate op = some f) : decodeWord w = .ok (f.word w) := decodeWord_of_fateOf h
  refine ⟨fun h => fate (f := .illegalOp) ?_, fun h => fate (f := .emulWindow) ?_, fun h => fate (f := .undefOp) ?_, fun h => ?_⟩
  · simp [opFate, h]
  · rw [opFate, if_neg (by simp; omega), if_pos (by omega)]
  · rw [opFate, if_neg (by simp; omega), if_neg (by omega), if_pos (by simp; omega)]
  · rcases assigned_or_fate w with ⟨i, hi⟩ | ⟨f, hf⟩
    · exact ⟨i, hi, parse_of_parseAssigned hi ▸ decodeWord_eq_error h⟩
    · rw [decodeWord_of_fateOf hf] at h
      cases h
end

section
/-! PROOFS. Words of unassigned opcodes, producer distances and the immediate forms (04 R76, R77, R87, R88, R96; 16 Table 16-4; 21 R400). -/

open Sys2Proof Sys2Proof.Machine
namespace Sys2Proof.Machine

/-! ### A word that is delivered as found (R96, Table 16-4) -/

theorem foundWord_of_runs {s : State} (hr : s.ctx.runs = true) (cause : Cause) (w : IWord) :
    foundWord cause w s = .next (s.trapped cause (wInfo0 w) (wInfo1 w cause s.ctx.vstart) s.ctx) := by
  simp [foundWord, hr, State.trapped, State.updCtx]

/-- Bits 79:64 of a word are what is above its low 64 bits. -/
theorem toNat_extract_high (w : IWord) : (w.extractLsb' 64 16).toNat = w.toNat / 2 ^ 64 := by
  have hw : w.toNat < 2 ^ 80 := w.isLt
  rw [BitVec.extractLsb'_toNat, Nat.shiftRight_eq_div_pow]
  omega

/-! ### Producer distances (R77) -/

/-- The writer distance of a register is the place of its nearest writer among the last seven words, from 1. -/
theorem writerDist_eq_succ_iff {hist : List (Option RegNo)} {r : RegNo} {i : Nat} :
    writerDist hist r = i + 1 ↔ i < 7 ∧ hist[i]? = some (some r) ∧ ∀ j < i, hist[j]? ≠ some (some r) := by
  have first (k : Nat) : (hist.take 7).findIdx? (fun w => w == some r) = some k ↔
      k < 7 ∧ hist[k]? = some (some r) ∧ ∀ j < k, hist[j]? ≠ some (some r) := by
    rw [List.findIdx?_eq_some_iff_getElem]
    simp only [List.length_take, List.getElem_take, beq_iff_eq]
    grind
  rw [← first]
  unfold writerDist
  split <;> simp [*]

/-- The distance that a word needs is the largest of the registers that it reads. -/
theorem pdNeed_le_iff {hist : List (Option RegNo)} {reads : List RegNo} {n : Nat} :
    (pdNeed hist reads).2 ≤ n ↔ ∀ r ∈ reads, r ≠ 0 → writerDist hist r ≤ n := by
  have fold (a : RegNo × Nat) :
      (reads.foldl (fun a r => if r ≠ 0 ∧ a.2 < writerDist hist r then (r, writerDist hist r) else a) a).2 ≤ n ↔
        a.2 ≤ n ∧ ∀ r ∈ reads, r ≠ 0 → writerDist hist r ≤ n := by
    induction reads generalizing a with
    | nil => simp
    | cons r l ih =>
      rw [List.foldl_cons, ih, List.forall_mem_cons]
      split <;> grind
  exact (fold (0, 0)).trans (by simp)

/-! ### Arithmetic of the immediate forms (R87) -/

/-- The low six bits of sext(IMM32) are those of IMM32. -/
theorem signExtend_mod_64 (imm : BitVec 32) : (imm.signExtend 64).toNat % 64 = imm.toNat % 64 := by
  have := imm.isLt
  rw [BitVec.toNat_signExtend, BitVec.toNat_setWidth]
  split <;> omega

theorem shlWord_eq (x y : Word) : shlWord x y = BitVec.ofNat 64 (x.toNat * 2 ^ (y.toNat % 64)) :=
  BitVec.eq_of_toNat_eq (by simp [shlWord, Nat.shiftLeft_eq])

theorem shrWord_eq (x y : Word) : shrWord x y = BitVec.ofNat 64 (x.toNat / 2 ^ (y.toNat % 64)) := by
  have h : x.toNat / 2 ^ (y.toNat % 64) < 2 ^ 64 := Nat.lt_of_le_of_lt (Nat.div_le_self ..) x.isLt
  exact BitVec.eq_of_toNat_eq (by rw [shrWord, BitVec.toNat_ushiftRight, Nat.shiftRight_eq_div_pow, BitVec.toNat_ofNat, Nat.mod_eq_of_lt h])

theorem sarWord_eq (x y : Word) : sarWord x y = BitVec.ofInt 64 (x.toInt / 2 ^ (y.toNat % 64)) := by
  rw [sarWord, BitVec.sshiftRight, Int.shiftRight_eq_div_pow]
  norm_cast

theorem ofInt_add_toInt (x y : Word) : x + y = BitVec.ofInt 64 (x.toInt + y.toInt) := by
  rw [BitVec.ofInt_add, BitVec.ofInt_toInt, BitVec.ofInt_toInt]

theorem ofInt_mul_toInt (x y : Word) : x * y = BitVec.ofInt 64 (x.toInt * y.toInt) := by
  rw [BitVec.ofInt_mul, BitVec.ofInt_toInt, BitVec.ofInt_toInt]

/-- LIH's value: IMM48[15:0] above D[47:0] (R400). -/
theorem lih_value (imm : BitVec 48) (d : Word) : imm.extractLsb' 0 16 ++ d.extractLsb' 0 48 =
    BitVec.ofNat 64 (imm.toNat % 2 ^ 16 * 2 ^ 48 + d.toNat % 2 ^ 48) := by
  have h : d.toNat % 2 ^ 48 < 2 ^ 48 := Nat.mod_lt _ (by decide)
  apply BitVec.eq_of_toNat_eq
  rw [BitVec.toNat_append, BitVec.extractLsb'_toNat, BitVec.extractLsb'_toNat, Nat.shiftRight_zero, Nat.shiftRight_zero,
    ← Nat.shiftLeft_add_eq_or_of_lt h, Nat.shiftLeft_eq, BitVec.toNat_ofNat]
  omega

/-- An immediate form whose meaning is g on s[A] and sext(IMM32) completes with that value. -/
theorem completesB_of_binB {mk : Hdr → FmtB → Instr} {op : BitVec 8} {g : Word → Word → Word} {f : FmtB → Ctx → Word}
    (hmk : ∀ h b s, exec (mk h b) s = runWord (issueB op h b) (onCtx (binB g b)) s)
    (hg : ∀ b c, g (c.getS b.a) (b.imm.signExtend 64) = f b c) : CompletesB mk op f := by
  intro h b s c hs
  rw [hmk, ← hg]
  exact runWord_done hs rfl

end Sys2Proof.Machine

/-- Settles O26: a word that is no instruction raises its cause from the context as it stands. -/
theorem unassignedWords : Obligations.UnassignedWords := by
  intro w s hr
  rw [← toNat_extract_high]
  exact ⟨foundWord_of_runs hr .illegalOp w, foundWord_of_runs hr .emulWindow w, foundWord_of_runs hr .undefOp w⟩

/-- Settles O13: the need of a word is below PD or not, and it is the largest distance of a nearest writer. -/
theorem producerDistance : Obligations.ProducerDistance := by
  intro w body s hr hw ht
  refine ⟨fun ⟨r, hmem, hr0, i, hi, hist, hnear, hpd⟩ => ?_, fun hfar x hx => ?_⟩
  · have need : w.hdr.pd.toNat < (pdNeed s.ctx.hist w.reads).2 := by
      refine Nat.lt_of_not_le fun hle => ?_
      have := pdNeed_le_iff.mp hle r hmem hr0
      rw [writerDist_eq_succ_iff.mpr ⟨hi, hist, hnear⟩] at this
      omega
    obtain ⟨i0, hc⟩ : ∃ i0, issueCheck w s.ctx = some (.pdFault, i0, 0) := by
      unfold issueCheck
      rw [ht]
      exact ⟨_, if_pos need⟩
    exact ⟨i0, runWord_of_check hr hw hc body⟩
  · have enough : (pdNeed s.ctx.hist w.reads).2 ≤ w.hdr.pd.toNat := by
      refine pdNeed_le_iff.mpr fun r hmem hr0 => ?_
      cases h : writerDist s.ctx.hist r with
      | zero => exact Nat.zero_le _
      | succ i =>
        obtain ⟨hi, hist, hnear⟩ := writerDist_eq_succ_iff.mp h
        exact hfar r hmem hr0 i hi hist hnear
    unfold issueCheck at hx
    rw [ht] at hx
    dsimp only at hx
    rw [if_neg (Nat.not_lt.mpr enough)] at hx
    split at hx
    · cases hx; exact .inl rfl
    · split at hx
      · cases hx; exact .inr rfl
      · cases hx

/-- Settles O18: each immediate form is its operation on s[A] and sext(IMM32); LI and LIH write their values. -/
theorem scalarImmediateWords : Obligations.ScalarImmediateWords := by
  have low (b : FmtB) := signExtend_mod_64 b.imm
  refine ⟨?_, ?_, ?_, ?_, ?_, ?_, ?_, ?_, fun h b s c hs => ?_, fun h b s c hs => ?_⟩
  · exact completesB_of_binB (fun _ _ _ => rfl) fun b c => ofInt_add_toInt ..
  · exact completesB_of_binB (fun _ _ _ => rfl) fun b c => ofInt_mul_toInt ..
  · exact completesB_of_binB (fun _ _ _ => rfl) fun b c => rfl
  · exact completesB_of_binB (fun _ _ _ => rfl) fun b c => rfl
  · exact completesB_of_binB (fun _ _ _ => rfl) fun b c => rfl
  · exact completesB_of_binB (fun _ _ _ => rfl) fun b c => by rw [shlWord_eq, low]
  · exact completesB_of_binB (fun _ _ _ => rfl) fun b c => by rw [shrWord_eq, low]
  · exact completesB_of_binB (fun _ _ _ => rfl) fun b c => by rw [sarWord_eq, low]
  · exact runWord_done hs rfl
  · rw [← lih_value]
    exact runWord_done hs rfl
end

section
/-! PROOFS. Control transfers and the end of the code (04 R73; 20 R370, R372, R374; 21 R393; 22 R427). -/

open Sys2Proof Sys2Proof.Machine
namespace Sys2Proof.Machine

/-! ### Targets (R73) -/

theorem transfer_inside {c : Ctx} {t : Int} {n : Nat} (ht : t = n) (hn : n < c.launch.nativeLen) (pop : Bool) (eff : Ctx → Ctx) :
    transfer t pop eff c = .jump (eff c) n pop := by
  rw [transfer, if_neg (by omega), ht, Int.toNat_natCast]

theorem transfer_outside {c : Ctx} {t : Int} (ht : t < 0 ∨ (c.launch.nativeLen : Int) ≤ t) (pop : Bool) (eff : Ctx → Ctx) :
    transfer t pop eff c = .trap c .capBounds (BitVec.ofInt 64 t) 0 := if_pos ht

/-- A word whose meaning is a transfer to the target completes. -/
theorem completesJ_of_transfer {mk : Hdr → FmtJ → Instr} {w : Hdr → FmtJ → Issue} {pop : Bool} {target : FmtJ → Ctx → Int}
    {eff : Ctx → Ctx} (hmk : ∀ h b s, exec (mk h b) s = runWord (w h b) (onCtx fun c => transfer (target b c) pop eff c) s) :
    CompletesJ mk w pop target eff := by
  intro h b s c hs
  rw [hmk]
  exact ⟨fun t ht hlt => runWord_jump hs (transfer_inside ht hlt pop eff), fun hout => runWord_trap hs (transfer_outside hout pop eff)⟩

theorem wordIndex_eq (x : Word) : wordIndex x = ((x.toNat % 2 ^ 32 : Nat) : Int) := by simp [wordIndex]

/-- A word whose meaning is a conditional transfer completes. -/
theorem completesBr_of_branchIf {mk : Hdr → FmtJ → Instr} {w : Hdr → FmtJ → Issue} {taken : FmtJ → Ctx → Bool}
    {cond : FmtJ → Ctx → Prop} (hmk : ∀ h b s, exec (mk h b) s = runWord (w h b) (onCtx fun c => branchIf (taken b c) b.off c) s)
    (hdst : ∀ h b, (w h b).dst = 0) (hcond : ∀ b c, taken b c = true ↔ cond b c) : CompletesBr mk w cond := by
  intro h b s c hs
  rw [hmk, ← hdst h b]
  have goes (hc : cond b c) : branchIf (taken b c) b.off c = transfer (relTarget c.regs.pc b.off) true id c := if_pos ((hcond b c).mpr hc)
  refine ⟨fun t hc ht hlt => runWord_jump hs ?_, fun hc hout => runWord_trap hs ?_, fun hc => runWord_done hs ?_⟩
  · exact (goes hc).trans (transfer_inside ht hlt true id)
  · exact (goes hc).trans (transfer_outside hout true id)
  · exact if_neg (mt (hcond b c).mp hc)

/-- The six conditions (Table 4-2). -/
theorem condHolds_iff (cond : BitVec 4) (x y : Word) : condHolds cond x y = true ↔
    (cond.toNat = 0 ∧ x = y) ∨ (cond.toNat = 1 ∧ x ≠ y) ∨ (cond.toNat = 2 ∧ x.toInt < y.toInt) ∨
    (cond.toNat = 3 ∧ y.toInt ≤ x.toInt) ∨ (cond.toNat = 4 ∧ x.toNat < y.toNat) ∨ (5 ≤ cond.toNat ∧ y.toNat ≤ x.toNat) := by
  have e (k : BitVec 4) : (cond = k) = (cond.toNat = k.toNat) := propext BitVec.toNat_inj.symm
  simp only [condHolds, e, BitVec.slt, BitVec.ult]
  repeat' split
  all_goals simp_all
  omega

/-- A branch with a condition field is well-formed only with one of the six conditions. -/
theorem cond_le_of_ok {b : FmtJ} {a n : Nat} {off : Bool} (h : b.ok a n true off = true) : b.cond.toNat ≤ 5 := by
  simp only [FmtJ.ok, if_true, Bool.and_eq_true, decide_eq_true_eq] at h
  omega

/-! ### The end of the code -/

section
variable {s : State} (hpc : s.ctx.launch.nativeLen ≤ s.ctx.regs.pc)
include hpc

theorem fetchPlace_at_end : s.fetchPlace s.ctx = .error (.trap ⟨.capBounds, BitVec.ofNat 64 s.ctx.regs.pc, 0⟩) := if_pos hpc

theorem fetchHit_at_end : s.fetchHit = none := by
  simp [State.fetchHit, Nat.not_lt.mpr hpc]

theorem fetch_at_end : s.fetch = .error (.trap ⟨.capBounds, BitVec.ofNat 64 s.ctx.regs.pc, 0⟩) := by
  rw [State.fetch, fetchHit_at_end hpc]
  dsimp only [State.fetchHome]
  split
  · exact if_pos hpc
  · rw [fetchPlace_at_end hpc]

theorem atPc_at_end (hwd : s.ctx.wdDue = false) : s.atPc = .stop (.trap ⟨.capBounds, BitVec.ofNat 64 s.ctx.regs.pc, 0⟩) := by
  have poison : s.fetchPoison = none := by
    rw [State.fetchPoison, fetchPlace_at_end hpc]; split <;> rfl
  have held : s.fetchHeld = false := by
    rw [State.fetchHeld, fetchPlace_at_end hpc, Bool.and_false]
  simp [State.atPc, hwd, poison, held, fetch_at_end hpc]

/-- No home refuses the fetch. -/
theorem fetchRefused_at_end : s.fetchRefused = s := by
  unfold State.fetchRefused
  dsimp only
  rw [fetchPlace_at_end hpc]
  split
  next hp _ => cases hp; simp
  next hp _ => cases hp; simp
  next => rfl
end

/-- A slot whose PC is at the end of its code raises CAP_BOUNDS there. -/
theorem issueSlot_at_end {s : State} {k : Nat} (hr : (s.focus k).ctx.runs = true) (hwd : (s.focus k).ctx.wdDue = false)
    (hw : (s.focus k).ctx.wait = .none_) (hpc : (s.focus k).ctx.launch.nativeLen ≤ (s.focus k).ctx.regs.pc) :
    issueSlot k s = .next ((s.focus k).trapped .capBounds (BitVec.ofNat 64 (s.focus k).ctx.regs.pc) 0 (s.focus k).ctx) := by
  simp [issueSlot, hr, atPc_at_end hpc hwd, State.fetchStop, hw, fetchRefused_at_end hpc, State.trapped, State.updCtx]

end Sys2Proof.Machine

/-- Settles O22: each transfer word is one `transfer` or `branchIf`, and at the end of the code no fetch gives a word. -/
theorem transfers : Obligations.Transfers := by
  refine ⟨⟨?_, ?_, ?_, ?_, ?_⟩, ⟨?_, ?_, ?_, ?_, fun h b hw => ?_, fun h b hw => ?_⟩, fun s k hr hwd hw hpc => ?_⟩
  · exact completesJ_of_transfer fun h b s => rfl
  · exact completesJ_of_transfer fun h b s => by simp only [← wordIndex_eq]; rfl
  · exact completesJ_of_transfer fun h b s => rfl
  · exact completesJ_of_transfer fun h b s => by simp only [← wordIndex_eq]; rfl
  · exact completesJ_of_transfer fun h b s => by simp only [← wordIndex_eq]; rfl
  · exact completesBr_of_branchIf (fun h b s => rfl) (fun h b => rfl) fun b c => condHolds_iff ..
  · exact completesBr_of_branchIf (fun h b s => rfl) (fun h b => rfl) fun b c => condHolds_iff ..
  · exact completesBr_of_branchIf (fun h b s => rfl) (fun h b => rfl) fun b c => beq_iff_eq
  · exact completesBr_of_branchIf (fun h b s => rfl) (fun h b => rfl) fun b c => bne_iff_ne
  · simp only [Instr.wf, Bool.and_eq_true] at hw
    exact cond_le_of_ok hw.2
  · simp only [Instr.wf, Bool.and_eq_true] at hw
    exact cond_le_of_ok hw.2
  · exact issueSlot_at_end hr hwd hw (Nat.le_of_eq hpc.symm)
end

section
/-! PROOFS. A step that issues a word (04 R72; 00 R3; 16 R320). -/

open Sys2Proof Sys2Proof.Machine
namespace Sys2Proof.Machine

/-! ### The fetch and its lines (R320) -/

theorem fetchFill_of_hit {s : State} (h : s.fetchHit.isSome = true) : s.fetchFill = s := if_pos (.inl h)

theorem fillLine_of_stays {s : State} {n : Nat} {x : CodeLine} (hx : s.codeLine n = some x) (hs : s.lineStays n x = true) :
    s.fillLine n = s := by
  simp [State.fillLine, hx, hs]

theorem fillLine_of_absent {s : State} {n : Nat} (hx : s.codeLine n = none) (hr : s.readLine n = none) : s.fillLine n = s := by
  simp [State.fillLine, hx, hr]

/-- A word that is read from its line finds that line in the cache, where it stays. -/
theorem line_of_fetchHit {s : State} (h : s.fetchHit.isSome = true) :
    ∃ x, s.codeLine (s.ctx.regs.pc / 16) = some x ∧ s.lineStays (s.ctx.regs.pc / 16) x = true := by
  obtain ⟨x, hx⟩ := Option.isSome_iff_exists.mp h
  obtain ⟨hc, hp⟩ := Option.filter_eq_some_iff.mp hx
  simp only [Bool.and_eq_true] at hp
  obtain ⟨⟨hs, -⟩, -⟩ := hp
  exact ⟨x, hc, hs⟩

/-- With the word's line and the next one in the cache a fetch fills nothing. -/
theorem fillCode_of_hit {s : State} (h : s.fetchHit.isSome = true)
    (hnext : let n := s.ctx.regs.pc / 16 + 1
      (∃ x, s.codeLine n = some x ∧ s.lineStays n x = true) ∨ (s.codeLine n = none ∧ s.readLine n = none)) : s.fillCode = s := by
  obtain ⟨x, hx, hs⟩ := line_of_fetchHit h
  rw [State.fillCode, fetchFill_of_hit h, fillLine_of_stays hx hs]
  rcases hnext with ⟨y, hy, hst⟩ | ⟨hy, hr⟩
  · exact fillLine_of_stays hy hst
  · exact fillLine_of_absent hy hr

/-- The monitor that the frame leaves open is the one of the later state. -/
theorem MonFrame.slot_eq {s t : State} (h : MonFrame s t) (j : Nat) : t.slot j = { s.slot j with mon := (t.slot j).mon } := by
  obtain ⟨-, hm⟩ := h
  obtain ⟨m, hj⟩ := hm j
  rw [hj]

/-! ### The passing of time (R3) -/

theorem Ctx.passTime_regs (tick n : Nat) (c : Ctx) : (c.passTime tick n).regs = c.regs := by
  unfold Ctx.passTime Ctx.countDown
  repeat' split
  all_goals rfl

/-- A change of every slot that keeps the registers of each keeps those of a slot that is not listed too. -/
theorem mapSlots_slot_regs {f : Nat → Ctx → Ctx} (hf : ∀ k c, (f k c).regs = c.regs) (s : State) (j : Nat) :
    ((s.mapSlots f).slot j).regs = (s.slot j).regs := by
  rw [State.slot_mapSlots]
  unfold State.slot
  split
  · exact hf _ _
  · cases h : tabFind j s.others with
    | none => simp [tabGet, h]
    | some c => simp [tabGet, h, hf]

theorem advance_mem (s : State) : s.advance.mem = s.mem := by unfold State.advance; split <;> rfl

theorem advance_pkg (s : State) : s.advance.pkg = s.pkg := by unfold State.advance; split <;> rfl

theorem advance_slot_regs (s : State) (j : Nat) : (s.advance.slot j).regs = (s.slot j).regs := by
  unfold State.advance
  split
  · rfl
  · exact mapSlots_slot_regs (fun _ c => Ctx.passTime_regs s.tick s.ticksNow c) s j

/-! ### The step -/

/-- The head of the agenda is the next move, where no freeze is due. -/
theorem pickMove_of_agenda {s : State} {m : Move} {l : List Move} (hf : s.freezeDue = false) (ha : s.agenda = m :: l) :
    s.pickMove = (m, l) := by
  simp [State.pickMove, hf, ha]

theorem step_of_agenda {s : State} {m : Move} {l : List Move} (hf : s.freezeDue = false) (ha : s.agenda = m :: l) :
    step s = afterStep (runMove m { s with agenda := l }) := by
  rw [step, pickMove_of_agenda hf ha]

theorem atPc_of_decode {s : State} {w : IWord} {i : Instr} (hwd : s.ctx.wdDue = false) (hp : s.fetchPoison = none) (hh : s.fetchHeld = false)
    (hf : s.fetch = .ok w) (hd : decodeWord w = .ok i) : s.atPc = .instr i := by
  simp [State.atPc, hwd, hp, hh, hf, hd]

/-- A running slot issues the instruction at its PC, from the machine whose instruction cache the fetch has filled. -/
theorem issueSlot_of_atPc {s : State} {k : Nat} {i : Instr} (hr : (s.focus k).ctx.runs = true) (hi : (s.focus k).atPc = .instr i) :
    issueSlot k s = exec i (s.focus k).fillCode := by
  simp [issueSlot, hr, hi]

end Sys2Proof.Machine

/-- Settles O8: the move is the head of the agenda, its slot issues what stands at its PC, and then time passes. -/
theorem stepRunsDecoded : Obligations.StepRunsDecoded := by
  intro s k l w i t hfrozen hdue hagenda u hruns hwd hpoison hheld hfetch hdecode hexec n
  refine ⟨?_, (State.fillCode_frame u).slot_eq, fillCode_of_hit, advance_mem t, advance_pkg t, advance_slot_regs t⟩
  have hissue := issueSlot_of_atPc (s := { s with agenda := l }) hruns (atPc_of_decode hwd hpoison hheld hfetch hdecode)
  have hallows : State.allows { s with agenda := l } (.issue k) = true := by simp [State.allows, hfrozen]
  rw [step_of_agenda hdue hagenda, runMove, hallows]
  exact congrArg afterStep (hissue.trans hexec)
end

section
/-! PROOFS. The element loop (04 R97, R98; 06 R113). -/

open Sys2Proof Sys2Proof.Machine
namespace Sys2Proof.Machine

/-! ### Elements of a register (R37) -/

/-- Bit i after a field is replaced. -/
theorem getLsbD_setBits {n : Nat} (x : BitVec n) (pos w v : Nat) {i : Nat} (hi : i < n) :
    (setBits x pos w v).getLsbD i = if pos ≤ i ∧ i < pos + w then v.testBit (i - pos) else x.getLsbD i := by
  have hin : decide (i - pos < n) = true := decide_eq_true (by omega)
  have field : (!decide (i < pos) && decide (i - pos < w)) = decide (pos ≤ i ∧ i < pos + w) := by
    rw [Bool.eq_iff_iff]; simp; omega
  simp only [setBits, BitVec.getLsbD_or, BitVec.getLsbD_and, BitVec.getLsbD_not, BitVec.getLsbD_shiftLeft, BitVec.getLsbD_setWidth,
    BitVec.getLsbD_allOnes, BitVec.getLsbD_ofNat, hi, hin, decide_true, Bool.true_and, ← Bool.and_assoc, field]
  split <;> simp [*]

theorem testBit_getBits {n : Nat} (x : BitVec n) (pos w k : Nat) : (getBits x pos w).testBit k = (decide (k < w) && x.getLsbD (pos + k)) := by
  rw [getBits, BitVec.testBit_toNat, BitVec.getLsbD_extractLsb']

/-- Distinct elements share no bit. -/
theorem elem_disjoint {w i j k : Nat} (hk : k < w) : (j * w ≤ i * w + k ∧ i * w + k < j * w + w) ↔ i = j := by
  constructor
  · rintro ⟨h1, h2⟩
    rw [← Nat.succ_mul] at h2
    have hij : i < j + 1 := Nat.lt_of_mul_lt_mul_right (Nat.lt_of_le_of_lt (Nat.le_add_right ..) h2)
    have hji : j < i + 1 := Nat.lt_of_mul_lt_mul_right (a := w) (by rw [Nat.succ_mul]; omega)
    omega
  · rintro rfl
    omega

/-- One element replaced: it reads as the low bits of the value, and the others as before. -/
theorem getBits_setBits_elem {n : Nat} (x : BitVec n) (w v : Nat) {i j : Nat} (hi : (i + 1) * w ≤ n) :
    getBits (setBits x (j * w) w v) (i * w) w = if i = j then v % 2 ^ w else getBits x (i * w) w := by
  rw [Nat.succ_mul] at hi
  apply Nat.eq_of_testBit_eq
  intro k
  rw [apply_ite (Nat.testBit · k), Nat.testBit_mod_two_pow]
  simp only [testBit_getBits]
  by_cases hk : k < w
  · rw [getLsbD_setBits _ _ _ _ (by omega)]
    simp only [elem_disjoint hk, hk, decide_true, Bool.true_and]
    split
    · subst i; rw [Nat.add_sub_cancel_left]
    · rfl
  · simp [hk]

/-! ### The loop, one element at a time (R97, R113) -/

section
variable (m : BitVec 8192) (mz : Bool) (w lo : Nat) (f : Nat → Nat × Flags) (d : BitVec 65536)

theorem laneLoop_self : laneLoop m mz w lo lo f d = (d, fNone) := by simp [laneLoop]

theorem laneLoop_succ (n : Nat) : laneLoop m mz w lo (lo + (n + 1)) f d =
    let a := laneLoop m mz w lo (lo + n) f d
    if m.getLsbD (lo + n) then (setBits a.1 ((lo + n) * w) w (f (lo + n)).1, a.2 ||| (f (lo + n)).2)
    else if mz then (setBits a.1 ((lo + n) * w) w 0, a.2) else a := by
  simp only [laneLoop, Nat.add_sub_cancel_left, List.range_succ, List.foldl_append, List.foldl_cons, List.foldl_nil]

/-- What the loop leaves in an element: the result of an active one, a masked-off one kept or zeroed, any other kept. -/
theorem laneLoop_elem {n i : Nat} (hi : (i + 1) * w ≤ 65536) :
    getBits (laneLoop m mz w lo (lo + n) f d).1 (i * w) w =
      if lo ≤ i ∧ i < lo + n then (if m.getLsbD i then (f i).1 % 2 ^ w else if mz then 0 else getBits d (i * w) w)
      else getBits d (i * w) w := by
  induction n with
  | zero => rw [Nat.add_zero, laneLoop_self, if_neg (by omega)]
  | succ n ih =>
    have step : getBits (laneLoop m mz w lo (lo + (n + 1)) f d).1 (i * w) w =
        if i = lo + n then (if m.getLsbD i then (f i).1 % 2 ^ w else if mz then 0 else getBits (laneLoop m mz w lo (lo + n) f d).1 (i * w) w)
        else getBits (laneLoop m mz w lo (lo + n) f d).1 (i * w) w := by
      rw [laneLoop_succ]
      dsimp only
      repeat' split
      all_goals simp_all [getBits_setBits_elem]
    rw [step, ih]
    by_cases e : i = lo + n
    · subst e
      simp
    · have before : (lo ≤ i ∧ i < lo + (n + 1)) = (lo ≤ i ∧ i < lo + n) := by rw [eq_iff_iff]; omega
      rw [if_neg e]
      simp only [before]

/-- The flags of the active elements, and no other. -/
theorem laneLoop_flags {n k : Nat} : (laneLoop m mz w lo (lo + n) f d).2.getLsbD k = true ↔
    ∃ i, (lo ≤ i ∧ i < lo + n ∧ m.getLsbD i = true) ∧ (f i).2.getLsbD k = true := by
  induction n with
  | zero => simp [laneLoop_self, fNone]; omega
  | succ n ih =>
    have now : (∃ i, (lo ≤ i ∧ i < lo + (n + 1) ∧ m.getLsbD i = true) ∧ (f i).2.getLsbD k = true) ↔
        (∃ i, (lo ≤ i ∧ i < lo + n ∧ m.getLsbD i = true) ∧ (f i).2.getLsbD k = true) ∨
        (m.getLsbD (lo + n) = true ∧ (f (lo + n)).2.getLsbD k = true) := by grind
    rw [now, ← ih, laneLoop_succ]
    dsimp only
    repeat' split
    all_goals simp_all

/-- The loop ends at once where it starts behind its end. -/
theorem laneLoop_range (hi : Nat) : laneLoop m mz w lo hi f d = laneLoop m mz w lo (lo + (hi - lo)) f d := by
  rw [laneLoop, laneLoop, Nat.add_sub_cancel_left]
end

/-! ### The write of v[VD] -/

section
variable (c : Ctx) (b : FmtV) (t : Ety) (f : Nat → Nat × Flags)

theorem laneWrite_getV : (c.laneWrite b t f).getV b.vd.toNat = { c.getV b.vd.toNat with
    ty := t, data := (laneLoop (c.getM b.mask.toNat) (b.mz == 1) t.width c.vstart c.vl f (c.getV b.vd.toNat).data).1 } :=
  Ctx.getV_setV_same c _ _ b.vd.isLt

theorem laneWrite_onlyV : OnlyV b.vd.toNat c (c.laneWrite b t f) := ⟨rfl, fun _ hm => Ctx.getV_setV_ne c _ _ _ hm⟩

theorem laneWrite_elem {i : Nat} (hi : (i + 1) * t.width ≤ 65536) : ((c.laneWrite b t f).getV b.vd.toNat).elem t.width i =
    if c.vstart ≤ i ∧ i < c.vl then
      (if (c.getM b.mask.toNat).getLsbD i then (f i).1 % 2 ^ t.width
       else if b.mz == 1 then 0 else (c.getV b.vd.toNat).elem t.width i)
    else (c.getV b.vd.toNat).elem t.width i := by
  have span : (c.vstart ≤ i ∧ i < c.vstart + (c.vl - c.vstart)) = (c.vstart ≤ i ∧ i < c.vl) := by rw [eq_iff_iff]; omega
  rw [laneWrite_getV, VReg.elem, laneLoop_range, laneLoop_elem _ _ _ _ _ _ hi, VReg.elem]
  simp only [span]

theorem laneWrite_vflags (k : Nat) : (c.laneWrite b t f).regs.csr.vflags.getLsbD k = true ↔
    c.regs.csr.vflags.getLsbD k = true ∨
    ∃ i, (c.vstart ≤ i ∧ i < c.vl ∧ (c.getM b.mask.toNat).getLsbD i = true) ∧ (f i).2.getLsbD k = true := by
  have span (i : Nat) (p : Prop) : (c.vstart ≤ i ∧ i < c.vstart + (c.vl - c.vstart) ∧ p) = (c.vstart ≤ i ∧ i < c.vl ∧ p) := by
    rw [eq_iff_iff]
    exact and_congr_right fun hlo => and_congr_left fun _ => by omega
  have flags : (c.laneWrite b t f).regs.csr.vflags = c.regs.csr.vflags |||
    (laneLoop (c.getM b.mask.toNat) (b.mz == 1) t.width c.vstart c.vl f (c.getV b.vd.toNat).data).2 := rfl
  rw [flags, BitVec.getLsbD_or, Bool.or_eq_true, laneLoop_range, laneLoop_flags]
  simp only [span]
end

end Sys2Proof.Machine

/-- Settles O44: the elements and the flags of `laneLoop`, and what the write of v[VD] leaves. -/
theorem elementLoop : Obligations.ElementLoop := by
  intro c b t f hfit _ r v u act off
  have fits {i : Nat} (hi : i < c.vl) : (i + 1) * t.width ≤ 65536 := Nat.le_trans (Nat.mul_le_mul_right _ hi) hfit
  have hv : u = _ := laneWrite_getV c b t f
  refine ⟨by rw [hv], by rw [hv], rfl, laneWrite_onlyV c b t f, ?_, ?_, ?_, ?_, ?_⟩
  · rintro i ⟨hlo, hlt, hm⟩
    rw [laneWrite_elem c b t f (fits hlt), if_pos ⟨hlo, hlt⟩, if_pos hm]
  · rintro i ⟨hlo, hlt, hm⟩ hz
    rw [laneWrite_elem c b t f (fits hlt), if_pos ⟨hlo, hlt⟩, hm, hz]
    rfl
  · rintro i ⟨hlo, hlt, hm⟩ hz
    rw [laneWrite_elem c b t f (fits hlt), if_pos ⟨hlo, hlt⟩, hm, hz]
    rfl
  · rintro i hi hout
    rw [laneWrite_elem c b t f hi, if_neg (by omega)]
  · exact laneWrite_vflags c b t f
end

section
/-! PROOFS. The loop stack: its end test, the entries that a transfer leaves, the loop words (06 R105 to R110; 21 R402; 22 R434). -/

open Sys2Proof Sys2Proof.Machine
namespace Sys2Proof.Machine

/-! ### VL and STRIP of the innermost SLOOP entry (R109) -/

@[simp] theorem restoreSloop_loops (c : Ctx) : c.restoreSloop.regs.loops = c.regs.loops := by
  unfold Ctx.restoreSloop
  split <;> rfl

theorem restoreSloop_only_regs (c : Ctx) : c.restoreSloop = { c with regs := c.restoreSloop.regs } := by
  unfold Ctx.restoreSloop
  split <;> rfl

/-- With no SLOOP entry VL and STRIP keep their last values. -/
theorem restoreSloop_of_no_sloop {c : Ctx} (h : ∀ x, x ∈ c.regs.loops → x.sloop = false) : c.restoreSloop = c := by
  have none : c.regs.loops.find? (·.sloop) = none := List.find?_eq_none.mpr fun x hx => by rw [h x hx]; exact Bool.false_ne_true
  rw [Ctx.restoreSloop, none]

theorem restoreSloop_of_innermost {c : Ctx} {a b : List LoopEnt} {x : LoopEnt} (hl : c.regs.loops = a ++ x :: b)
    (ha : ∀ y, y ∈ a → y.sloop = false) (hx : x.sloop = true) :
    c.restoreSloop = c.updCsr fun r => { r with vl := x.len, strip := BitVec.ofNat 64 x.strip } := by
  have first : c.regs.loops.find? (·.sloop) = some x :=
    List.find?_eq_some_iff_append.mpr ⟨hx, a, b, hl, fun y hy => by rw [ha y hy]; rfl⟩
  rw [Ctx.restoreSloop, first]

/-! ### The end test at an entry that ends at the word (R109) -/

/-- What the end test leaves of the entry's remaining count. -/
def LoopEnt.left (e : LoopEnt) : Nat := if e.sloop then e.rem - e.len else e.rem - 1

theorem LoopEnt.left_of_loop {e : LoopEnt} (hs : e.sloop = false) : e.left = e.rem - 1 := by
  rw [LoopEnt.left, hs, if_neg Bool.false_ne_true]

theorem LoopEnt.left_of_sloop {e : LoopEnt} (hs : e.sloop = true) : e.left = e.rem - e.len := by
  rw [LoopEnt.left, if_pos hs]

section
variable {c : Ctx} {e : LoopEnt} {l : List LoopEnt} {pc : Nat} (hl : c.regs.loops = e :: l) (hf : e.fin = pc)
include hl hf

theorem endTest_repeats_loop (hs : e.sloop = false) (hr : 0 < e.left) (n : Nat) :
    c.endTest (n + 1) pc = c.upd fun r => { r with loops := { e with rem := e.rem - 1 } :: l, pc := e.start } := by
  rw [LoopEnt.left_of_loop hs] at hr
  simp only [Ctx.endTest, hl, hf, hs, ne_eq, not_true_eq_false, Bool.false_eq_true, if_false, if_pos hr]

theorem endTest_repeats_sloop (hs : e.sloop = true) (hr : 0 < e.left) (n : Nat) :
    c.endTest (n + 1) pc = (c.upd fun r => { r with
      loops := { e with rem := e.rem - e.len, len := min (e.rem - e.len) e.vlmax, strip := e.strip + 1 } :: l, pc := e.start }).updCsr
        fun r => { r with vl := min (e.rem - e.len) e.vlmax, strip := BitVec.ofNat 64 (e.strip + 1) } := by
  rw [LoopEnt.left_of_sloop hs] at hr
  simp only [Ctx.endTest, hl, hf, hs, ne_eq, not_true_eq_false, if_true, if_false, if_pos hr]

theorem endTest_pops (hr : e.left = 0) (n : Nat) :
    c.endTest (n + 1) pc = ((c.upd fun r => { r with loops := l }).restoreSloop).endTest n pc := by
  rw [LoopEnt.left] at hr
  simp only [Ctx.endTest, hl, hf, ne_eq, not_true_eq_false, if_false, hr, gt_iff_lt, Nat.lt_irrefl]
end

/-- A round of the end test ends it, with the registers alone changed, or pops the entry on top and goes on to the next round. -/
theorem endTest_round (pc : Nat) (c : Ctx) :
    (∃ r, ∀ n, c.endTest (n + 1) pc = { c with regs := r }) ∨
    ∃ e l, c.regs.loops = e :: l ∧ ∀ n, c.endTest (n + 1) pc = ((c.upd fun r => { r with loops := l }).restoreSloop).endTest n pc := by
  by_cases here : ∃ e l, c.regs.loops = e :: l ∧ e.fin = pc
  · obtain ⟨e, l, hl, hf⟩ := here
    rcases Nat.eq_zero_or_pos e.left with hr | hr
    · exact .inr ⟨e, l, hl, endTest_pops hl hf hr⟩
    · cases hs : e.sloop with
      | false => exact .inl ⟨_, endTest_repeats_loop hl hf hs hr⟩
      | true => exact .inl ⟨_, endTest_repeats_sloop hl hf hs hr⟩
  · exact .inl ⟨_, fun _ => endTest_elsewhere fun e l hl hf => here ⟨e, l, hl, hf⟩⟩

/-- A round for each entry and one more are enough: further rounds change nothing. -/
theorem endTest_succ_of_length_lt {n pc : Nat} {c : Ctx} (h : c.regs.loops.length < n) : c.endTest (n + 1) pc = c.endTest n pc := by
  induction n generalizing c with
  | zero => omega
  | succ n ih =>
    obtain ⟨r, ends⟩ | ⟨e, l, hl, pops⟩ := endTest_round pc c
    · rw [ends, ends]
    · rw [hl, List.length_cons] at h
      rw [pops, pops]
      refine ih ?_
      rw [restoreSloop_loops]
      exact Nat.lt_of_succ_lt_succ h

/-- The end test changes registers alone. -/
theorem endTest_only_regs (n pc : Nat) (c : Ctx) : c.endTest n pc = { c with regs := (c.endTest n pc).regs } := by
  induction n generalizing c with
  | zero => rfl
  | succ n ih =>
    obtain ⟨r, ends⟩ | ⟨e, l, -, pops⟩ := endTest_round pc c
    · rw [ends]
    · rw [pops, ih, restoreSloop_only_regs]; rfl

/-- On a stack of at most four entries an entry that is done is popped, and the whole test is made again for the entries below it. -/
theorem endTest_five_pops {c : Ctx} {e : LoopEnt} {l : List LoopEnt} {pc : Nat} (h4 : c.regs.loops.length ≤ 4)
    (hl : c.regs.loops = e :: l) (hf : e.fin = pc) (hr : e.left = 0) :
    c.endTest 5 pc = ((c.upd fun r => { r with loops := l }).restoreSloop).endTest 5 pc := by
  rw [hl, List.length_cons] at h4
  rw [endTest_pops hl hf hr]
  refine (endTest_succ_of_length_lt ?_).symm
  rw [restoreSloop_loops]
  exact Nat.lt_of_succ_le h4

/-! ### The entries that a transfer leaves (R110) -/

/-- A target lies outside the entry's range. -/
def LoopEnt.excludes (e : LoopEnt) (t : Nat) : Bool := !(e.start ≤ t && t ≤ e.fin)

theorem LoopEnt.excludes_iff {e : LoopEnt} {t : Nat} : e.excludes t = true ↔ t < e.start ∨ e.fin < t := by
  simp only [LoopEnt.excludes, Bool.not_eq_true', Bool.and_eq_false_iff, decide_eq_false_iff_not, Nat.not_le]

theorem popFor_eq (c : Ctx) (t : Nat) : c.popFor t = c.upd fun r => { r with loops := r.loops.dropWhile (·.excludes t) } := rfl

/-- The entries on top whose range excludes the target are popped, down to the first whose range holds it. -/
theorem popFor_of_append {c : Ctx} {t : Nat} {out l : List LoopEnt} (hl : c.regs.loops = out ++ l)
    (hout : ∀ e, e ∈ out → t < e.start ∨ e.fin < t) (hin : ∀ e x, l = e :: x → e.start ≤ t ∧ t ≤ e.fin) :
    c.popFor t = { c with regs := { c.regs with loops := l } } := by
  have kept : l.dropWhile (·.excludes t) = l := by
    cases l with
    | nil => rfl
    | cons e x =>
      obtain ⟨hstart, hfin⟩ := hin e x rfl
      refine List.dropWhile_cons_of_neg fun hout => ?_
      have := LoopEnt.excludes_iff.mp hout
      omega
  have loops : c.regs.loops.dropWhile (·.excludes t) = l := by
    rw [hl, List.dropWhile_append_of_pos fun e he => LoopEnt.excludes_iff.mpr (hout e he), kept]
  rw [popFor_eq, Ctx.upd, loops]

/-! ### The loop words (R108) -/

section
variable {sloop : Bool} {n vlmax fin : Nat} {c : Ctx}

theorem loopEnter_outside (he : c.launch.nativeLen ≤ c.regs.pc + fin) :
    loopEnter sloop n vlmax fin c = .trap c .capBounds (BitVec.ofNat 64 (c.regs.pc + fin)) 0 := if_pos he

/-- A body that reaches beyond the innermost entry's end is not nested in it. -/
theorem loopEnter_not_nested (he : c.regs.pc + fin < c.launch.nativeLen) {x : LoopEnt} {l : List LoopEnt}
    (hl : c.regs.loops = x :: l) (hx : x.fin < c.regs.pc + fin) : loopEnter sloop n vlmax fin c = .trapW c .loopErr := by
  rw [loopEnter]
  dsimp only
  rw [if_neg (Nat.not_le.mpr he), hl]
  exact if_pos (decide_eq_true hx)

/-- Once the checks before the count have passed, the count and the depth decide. -/
theorem loopEnter_nested (he : c.regs.pc + fin < c.launch.nativeLen)
    (hnest : ∀ x l, c.regs.loops = x :: l → c.regs.pc + fin ≤ x.fin) : loopEnter sloop n vlmax fin c =
    if n = 0 then .jump (if sloop then c.setVl 0 else c) (c.regs.pc + fin + 1) false
    else if 4 ≤ c.regs.loops.length then .trapW c .loopErr
    else
      let len := if sloop then min n vlmax else 0
      let c1 := c.upd fun r => { r with loops := ⟨sloop, c.regs.pc + 1, c.regs.pc + fin, n, vlmax, len, 0⟩ :: r.loops }
      .done (if sloop then c1.updCsr fun r => { r with vl := len, strip := 0 } else c1) := by
  rw [loopEnter]
  dsimp only
  rw [if_neg (Nat.not_le.mpr he), if_neg]
  split
  · exact Bool.false_ne_true
  · rename_i x l hl
    exact fun hx => Nat.not_lt.mpr (hnest x l hl) (of_decide_eq_true hx)
end

/-- EW of a loop word is the two top bits of its immediate. -/
theorem sloopWidth_eq (b : FmtL) :
    sloopWidth b = let ew := b.imm.toNat / 2 ^ 14; if ew = 0 then 32 else if ew = 1 then 16 else 8 := by
  have ew : (b.imm.extractLsb' 14 2).toNat = b.imm.toNat / 2 ^ 14 := by
    have := b.imm.isLt
    rw [BitVec.extractLsb'_toNat, Nat.shiftRight_eq_div_pow]
    omega
  rw [sloopWidth, ew]

end Sys2Proof.Machine

/-- Settles O12: the rules of the end test at an entry, with the rounds that a stack of four entries can take. -/
theorem loopEndTest : Obligations.LoopEndTest := by
  refine ⟨fun w s => ⟨rfl, rfl⟩, fun c pc h4 => ⟨endTest_elsewhere, fun e l hl hf hs hr => ?_, fun e l hl hf hs hr => ?_,
    fun e l hl hf hr => ⟨fun hnone => ?_, fun a x b hab ha hx => ?_⟩⟩⟩
  · exact endTest_repeats_loop hl hf hs (by rwa [LoopEnt.left_of_loop hs]) 4
  · exact endTest_repeats_sloop hl hf hs (by rwa [LoopEnt.left_of_sloop hs]) 4
  · rw [endTest_five_pops h4 hl hf hr, restoreSloop_of_no_sloop hnone]
  · rw [endTest_five_pops h4 hl hf hr, restoreSloop_of_innermost hab ha hx]

/-- Settles O23: `popFor` drops the entries that exclude the target, and with none of these nothing changes. -/
theorem transferPops : Obligations.TransferPops := by
  intro c t out l hl hout hin
  have pops := popFor_of_append hl hout hin
  refine ⟨pops, fun hnil => ?_⟩
  subst hnil
  rw [pops, ← List.nil_append l, ← hl]

/-- Settles O24: each loop word is one `loopEnter`, behind the check for vector state of SLOOP. -/
theorem loopWords : Obligations.LoopWords := by
  unfold Obligations.LoopWords
  intro entered width
  have enters {i : Instr} {w : Issue} {fin : BitVec 16} {sloop : Bool} {n vlmax : Ctx → Nat} {f : Ctx → WR Ctx}
      (hi : ∀ s, exec i s = runWord w (onCtx f) s) (hd : w.dst = 0)
      (hf : ∀ c, (sloop = true → c.hasV = true) → f c = loopEnter sloop (n c) (vlmax c) fin.toNat c) :
      entered i w fin sloop n vlmax := by
    intro s c hs hv e
    rw [hi, ← hd]
    have nested he hnest := (hf c hv).trans (loopEnter_nested he hnest)
    exact ⟨fun he => runWord_trap hs ((hf c hv).trans (loopEnter_outside he)),
      fun he ⟨x, l, hl, hx⟩ => runWord_trapW hs ((hf c hv).trans (loopEnter_not_nested he hl hx)),
      fun he hnest hn => runWord_jump hs ((nested he hnest).trans (if_pos hn)),
      fun he hnest hn h4 => runWord_trapW hs ((nested he hnest).trans ((if_neg (Nat.ne_of_gt hn)).trans (if_pos h4))),
      fun he hnest hn h4 => runWord_done hs ((nested he hnest).trans ((if_neg (Nat.ne_of_gt hn)).trans (if_neg (Nat.not_le.mpr h4))))⟩
  refine ⟨fun h b => enters (fun _ => rfl) rfl fun _ _ => rfl, fun h b => enters (fun _ => rfl) rfl fun _ _ => rfl,
    fun h b => enters (fun _ => rfl) rfl fun c hv => ?_, fun h b s c hs hv => runWord_trapW hs ?_⟩
  · rw [hv rfl, sloopWidth_eq]; rfl
  · rw [hv]; rfl

/-- Settles O11: the frame of the end test, and the registers and the history that `Ctx.retire` writes before it. -/
theorem retirementFrame : Obligations.RetirementFrame := by
  intro s d c t
  obtain ⟨-, -, hist, -⟩ := endTest_frame 5 c.regs.pc (c.retire d)
  have regs := retired_regs s d c
  have count : t.ctx.regs.csr.retired = c.regs.csr.retired + 1 := congrArg (·.csr.retired) regs
  obtain ⟨-, -, -, -, vlKept⟩ := retired_kept s d c
  refine ⟨onlyCtx_retired s d c, ?_, hist, count, ?_, vlKept⟩
  · exact (endTest_only_regs 5 c.regs.pc (c.retire d)).trans (by rw [← hist]; rfl)
  · rw [count]; exact regs
end
